-- ==== Sys2Proof/Word.lean ====
section
/-!
DEFINITION. The words and the numbered elements of the ZK2440 (spec 00_scope.md R3, R4).
-/

-- One declaration after another: the package is compiled as one text under a memory limit.
set_option Elab.async false

namespace Sys2Proof

/-- 32 bits, unless a format defines its own word (R4). -/
abbrev Word := BitVec 32
abbrev Byte := BitVec 8
/-- A 16-bit word of a Jenuri frame (R116). -/
abbrev Half := BitVec 16
/-- T0 to T3 (R272). -/
abbrev Tenant := Fin 4
/-- Rings A to D (R20). -/
abbrev Ring := Fin 4
/-- SEG0 to SEG23 and their sense channels SNS0 to SNS23 (R3). -/
abbrev Seg := Fin 24
/-- LN0 to LN19 (R3). -/
abbrev Lane := Fin 20
/-- DEC0 to DEC3 (R3). -/
abbrev Core := Fin 4
/-- Logical Callers CL0 to CL7 (R210). -/
abbrev CallerId := Fin 8
/-- General registers g0 to g15 of a Caller (R210). -/
abbrev GReg := Fin 16
/-- Q0 to Q63 (R254). -/
abbrev QueueId := Fin 64
/-- Sensor buses S0 to S3 (R301). -/
abbrev BusId := Fin 4
/-- Hub engines (R239). -/
abbrev Engine := Fin 4
/-- SPI ports H0 and H1 (R274). -/
abbrev SpiPort := Fin 2
/-- Host contexts: T0 to T3, and as number 4 the context of T0 on H1 before a Reel (R272). -/
abbrev Ctx := Fin 5
/-- Domain IDs 0 to 39; 13 to 15 are not used (R10). -/
abbrev Dom := Fin 40
/-- Steps 0 to 16,383 of the Figure Table (R202). -/
abbrev StepId := Fin 16384
/-- Scoreboard slots 0 to 255 (R214). -/
abbrev SlotId := Fin 256

end Sys2Proof
end

