-- ==== Sys2Proof/Syntax.lean ====
section
/-!
DEFINITION. The commands of the block: one constructor per row of spec/opcode_table.json.
An operand that stands for a measurement or an event outside the device (a current, an edge, a received bit) is named so.
-/

-- One declaration after another: the package is compiled as one text under a memory limit.
set_option Elab.async false

namespace Sys2Proof

/-- The header of a downlink frame as a tag on `ring` receives it (R114); `ok` says that its CRC held at the tag. -/
structure Down where
  ring : Ring
  bc : Bool
  onbeat : Bool
  sa : BitVec 12
  ok : Bool
  deriving DecidableEq, Repr

/-- What a tag model brings into the field at its first power-up: its fixed properties (R122, R181). -/
structure TagKind where
  uid : BitVec 64
  ring : Ring
  /-- CAPS W0 [15:8]: J3, J2, J1, SELFCLK, AUTH, DUALBANK, ASK10, Z64. -/
  caps : BitVec 8
  channels : Nat
  /-- CAPS W1: rates in [15:13], processing time in [7:0]. -/
  w1 : Half
  /-- CAPS W2: writable words from 0x0100. -/
  wsize : Half
  /-- CAPS W3: tag model code. -/
  model : Half
  /-- The sampling plans, at most 16 masks (R181). -/
  plans : List (BitVec 64)
  /-- Protected words: first and count (R132). -/
  protFirst : Nat
  protCount : Nat
  deriving DecidableEq, Repr

/-- A complex number with whole parts. -/
structure Cplx where
  re : Int
  im : Int
  deriving DecidableEq, Repr

/-- What the pickups of a lane's channels bring to its converters, one item a carrier cycle and one list a branch, in the order of
the window: the signal at carrier phase 0 °c and at 90 °c, in converter units, from the cycle on at which the lane's symbol timing
stands. `offsetHz` is the lane's estimate of the subcarrier frequency offset meanwhile (R142, R150, R175). -/
structure Pickup where
  offsetHz : Int
  branches : List (List Cplx)
  deriving DecidableEq, Repr

/-- How a bus transaction went on the wires (R304, R309): `written` tells a NACK of the read part's address, after the write part, from
one of the first address. -/
inductive BusWire where
  | ok (rx : List Word)
  | nackAddr (written : Bool)
  | nackData (acked : Nat)
  | arbLost (done : Nat)
  deriving DecidableEq, Repr

/-- A reading of a tamper sensor (R370): whether a trace of the mesh is open or short, VCORE in mV and how long in ns, VAON in mV,
the shortest CCLK phase and the closest XREF edges in ps, and the Vault's temperature in °C. -/
inductive TamperReading where
  | mesh (faulty : Bool)
  | vcore (mv ns : Nat)
  | vaon (mv : Nat)
  | clock (phasePs xrefPs : Nat)
  | temperature (celsius : Int)
  deriving DecidableEq, Repr

/-- Which limit of R309 or R310 a two-wire bus met. -/
inductive TwoWireHold where
  | sclLow | busBusy | sdaLow
  deriving DecidableEq, Repr

/-- The commands: one constructor for each row of spec/opcode_table.json. -/
inductive Instr where
  -- Reset and the Reel (02_reel.md)
  | powerOnReset
  | flashBootImageRead (image : List Byte)
  | start (t : Tenant)
  | reelData (t : Tenant) (w : Word)
  | reelCheckDone
  | arm (t : Tenant) (r : Ring) (any : Bool)
  | disarm (t : Tenant)
  | carryAbort (slot : SlotId)
  -- Field (03_field_segments.md)
  | tune (t : Tenant) (n : Seg)
  | tuneDone (n : Seg) (imag : Nat) (iph : Int) (trip : Bool)
  | reinstate (t : Tenant) (n : Seg)
  | vdrvRemeasure (mv : Nat)
  | claimGrant
  | rampEnd (n : Seg)
  | glideEnd (n : Seg)
  | fillRampUp (n : Seg)
  | fillRampDown (n : Seg)
  | segShort (n : Seg)
  | segOpen (n : Seg)
  | thermalWarning (n : Seg) (temp : Int)
  | thermalFault (n : Seg) (temp : Int)
  | vdrvLow (mv : Nat)
  | vdrvRestored (mv : Nat)
  -- Tempo (04_tempo_angle.md)
  | kpEdge (kp : Fin 8) (falling : Bool)
  | detuneBlock (r : Ring) (mark : BitVec 13) (backward : Bool) (meas : List (Seg × Nat × Int))
  | trackStall (r : Ring) (e : Fin 3)
  | tempoVote
  | still (r : Ring)
  | revolutionBoundary (r : Ring)
  | periodBoundary
  | dayBoundary
  | longevityRecords
  | tempoDayNext (t : Tenant) (v : BitVec 64)
  | aclkRatioMeasure (ticks : Nat)
  | timeResync
  -- Air (05_jenuri_air.md): a downlink frame reaches the tags of a ring
  | tree (d : Down) (l : BitVec 6) (pre : BitVec 64)
  | assign (d : Down) (uid : BitVec 64) (newsa : BitVec 12) (offset : BitVec 6)
  | setgen (d : Down) (gen rate : BitVec 2) (zsel self : Bool)
  | quiet (d : Down)
  | release (d : Down)
  | wake (d : Down)
  | ping (d : Down)
  | readTag (d : Down) (ack : Byte) (plan upl hold : BitVec 4) (maxw : Byte) (samples : List (List Half)) (age spacing : Half)
      (stat : BitVec 2)
  | readMem (d : Down) (addr : Half) (nw : Byte) (upl hold : BitVec 4)
  | prepare (d : Down) (addr : Half) (nw hold : BitVec 4) (data : List Half) (nvmOk : Bool)
  | commit (d : Down) (token : Half) (hold : BitVec 4) (nvmOk : Bool)
  | confirm (d : Down) (token : Half) (hold : BitVec 4)
  | auth (d : Down) (msg hold : BitVec 4) (message : List Byte)
  | writeUnresolved (sa : BitVec 12)
  -- Lanes and decoders (06_receive_decode.md)
  | cancelRefine (k : Seg) (meanI meanQ : Int)
  /-- `rx`: the 64 carrier cycles before the run, then the 8 symbols of the run; `noise`: the variance of an integrated symbol on
  each channel in effective cover order, as measured before the window opened. -/
  | candidate (l : Lane) (s : Fin 2) (fc16 : Bool) (rx : Pickup) (noise : List Nat)
  /-- The symbols of searcher `s`'s candidate from the run to the end of a sync word. -/
  | syncQualify (l : Lane) (s : Fin 2) (rx : Pickup)
  | falseDet (l : Lane) (s : Fin 2)
  /-- The 8 symbols of an arrival's run, `eighths` of a symbol after the held candidate's timing. -/
  | arrival (l : Lane) (fc16 : Bool) (eighths : Nat) (rx : Pickup)
  /-- The next symbols, up to the one at whose end branches `i` and `i + 1` have passed equal shares. -/
  | seamCrossing (l : Lane) (i : Fin 2) (rx : Pickup)
  /-- The next symbols, up to the one at whose end the window may slide. -/
  | windowSlide (l : Lane) (rx : Pickup)
  | replyWindowExpiry (l : Lane)
  /-- The next symbols, up to the end of a codeword. -/
  | codewordQueued (l : Lane) (rx : Pickup)
  /-- `bad`: the cores whose run of this codeword a hardware fault spoils. -/
  | codewordDecoded (c : Core) (bad : List Core)
  /-- The frame's last symbols. -/
  | frameDelivery (l : Lane) (rx : Pickup)
  | laneFail (l : Lane)
  | laneSpared (l : Lane)
  | decCoreFail (c : Core)
  -- Census (07_census.md)
  | walk (t : Tenant) (r : Ring)
  | rebuild (t : Tenant) (r : Ring)
  | retire (t : Tenant) (sa : BitVec 12) (force : Bool)
  | free (t : Tenant) (idx : BitVec 13) (force : Bool)
  | setplan (t : Tenant) (sa : BitVec 12) (plan : BitVec 4)
  | serviceA (t : Tenant) (r : Ring) (seg : Seg)
  | serviceV (t : Tenant) (r : Ring) (seg : Seg) (blocks : BitVec 13)
  | stop (t : Tenant)
  | jobExchangePlace
  | entryJob
  | censusRingSa (t : Tenant) (r : Ring) (first last : BitVec 12)
  | censusLookup (t : Tenant) (sa : BitVec 12)
  -- Figure (08_figures_callers.md)
  | figCommit (t : Tenant)
  | figRebuildDone
  | stepFire (i : StepId)
  | stepDispatch
  | programStart (k : CallerId)
  -- Caller instructions (R213), run by logical Caller `k`
  | nop (k : CallerId)
  | add (k : CallerId) (rd ra rb : GReg)
  | sub (k : CallerId) (rd ra rb : GReg)
  | and (k : CallerId) (rd ra rb : GReg)
  | or (k : CallerId) (rd ra rb : GReg)
  | xor (k : CallerId) (rd ra rb : GReg)
  | shl (k : CallerId) (rd ra rb : GReg)
  | shr (k : CallerId) (rd ra rb : GReg)
  | sar (k : CallerId) (rd ra rb : GReg)
  | mul (k : CallerId) (rd ra rb : GReg)
  | addi (k : CallerId) (rd ra : GReg) (imm : BitVec 18)
  | andi (k : CallerId) (rd ra : GReg) (imm : BitVec 18)
  | ori (k : CallerId) (rd ra : GReg) (imm : BitVec 18)
  | lui (k : CallerId) (rd : GReg) (imm : BitVec 18)
  | shli (k : CallerId) (rd ra : GReg) (imm : BitVec 18)
  | shri (k : CallerId) (rd ra : GReg) (imm : BitVec 18)
  | ld (k : CallerId) (rd ra : GReg) (imm : BitVec 14)
  | st (k : CallerId) (rd ra : GReg) (imm : BitVec 14)
  | ldc (k : CallerId) (rd ra : GReg) (imm : BitVec 14)
  | rds (k : CallerId) (rd : GReg) (imm : BitVec 14)
  | wrs (k : CallerId) (ra : GReg) (imm : BitVec 14)
  | beq (k : CallerId) (ra rb : GReg) (off : BitVec 18)
  | bne (k : CallerId) (ra rb : GReg) (off : BitVec 18)
  | blt (k : CallerId) (ra rb : GReg) (off : BitVec 18)
  | bltu (k : CallerId) (ra rb : GReg) (off : BitVec 18)
  | jmp (k : CallerId) (target : BitVec 14)
  | call (k : CallerId) (target : BitVec 14)
  | ret (k : CallerId)
  | endProgram (k : CallerId)
  | slot (k : CallerId) (rd : GReg) (imm : BitVec 14)
  | slotGrant
  | rel (k : CallerId) (ra : GReg)
  | slotRelease (i : SlotId)
  | keep (k : CallerId) (ra rb : GReg)
  | adopt (k : CallerId) (rd ra : GReg)
  | keptSlotRelease (i : SlotId)
  | useSlot (k : CallerId) (ra : GReg)
  | claim (k : CallerId) (rd ra rb : GReg)
  | field (k : CallerId) (ra rb : GReg)
  | glide (k : CallerId) (rd ra rb : GReg)
  | segl (k : CallerId) (rd ra : GReg)
  | seam (k : CallerId) (rd ra : GReg)
  | spos (k : CallerId) (rd ra : GReg)
  | send (k : CallerId) (rd ra : GReg) (imm : BitVec 14)
  | listen (k : CallerId) (ra rb : GReg)
  | recv (k : CallerId) (rd ra : GReg) (imm : BitVec 14)
  | push (k : CallerId) (rd ra rb : GReg)
  | pop (k : CallerId) (rd ra : GReg)
  | waitc (k : CallerId) (ra : GReg) (imm : BitVec 14)
  | waitcReached (k : CallerId)
  | waita (k : CallerId) (ra : GReg)
  | waitaReached (k : CallerId)
  | waitp (k : CallerId) (ra rb : GReg) (imm : BitVec 14)
  | waitpReached (k : CallerId)
  | cen (k : CallerId) (rd ra : GReg) (imm : BitVec 14)
  | bus (k : CallerId) (rd ra rb : GReg)
  | entry (k : CallerId) (imm : BitVec 14)
  | undefinedOpcode (k : CallerId) (op : BitVec 6)
  | programTimeout (k : CallerId)
  | lockstepMismatch (k : CallerId)
  | spareTakeover (k : CallerId)
  | hold (t : Tenant) (v : Bool)
  | bookAudit (t : Tenant)
  -- Hub (09_sensor_hub.md)
  | sampleIntake
  | messageApply (e : Engine)
  | stallDrop (e : Engine)
  | rateRefill (s : Fin 1024)
  | latchRecords (g : Fin 6)
  -- Queues and pool (10_queues_pool.md)
  | queuePop (t : Tenant) (q : QueueId)
  | queuePush (t : Tenant) (q : QueueId) (w : Word)
  | markerEntry (q : QueueId)
  | queueReset (t : Tenant) (q : QueueId)
  | poolAudit (t : Tenant)
  | markPassDone
  -- Host ports and Dumar (11_hosts_tenancy.md)
  | selectAssert (p : SpiPort)
  | laneWord (p : SpiPort) (w : Word)
  | streamFrame (p : SpiPort) (sent : Nat) (late : Option Nat)
  | selectRelease (p : SpiPort) (mosi : List Word) (part : Option (Nat × Word)) (miso : Nat) (late : Option Nat)
  | dumarNop (c : Ctx) (tag : Byte) (ws : List Word) (crc : Word)
  | hello (c : Ctx) (tag : Byte) (ws : List Word) (crc : Word)
  | bye (c : Ctx) (tag : Byte) (ws : List Word) (crc : Word)
  | rd (c : Ctx) (tag : Byte) (ws : List Word) (crc : Word)
  | wr (c : Ctx) (tag : Byte) (ws : List Word) (crc : Word)
  | rmw (c : Ctx) (tag : Byte) (ws : List Word) (crc : Word)
  | qread (c : Ctx) (tag : Byte) (ws : List Word) (crc : Word)
  | qwrite (c : Ctx) (tag : Byte) (ws : List Word) (crc : Word)
  | reelStart (c : Ctx) (tag : Byte) (ws : List Word) (crc : Word)
  | dumarReelData (c : Ctx) (tag : Byte) (ws : List Word) (crc : Word)
  | reelArm (c : Ctx) (tag : Byte) (ws : List Word) (crc : Word)
  | answerPush (c : Ctx)
  | h2Address (addr : BitVec 7) (isRead : Bool)
  | h2WriteByte (b : Byte)
  | h2ReadWord
  | h2Stop (repeated : Bool)
  | ackStart
  | inbandPulse (clash : Bool)
  | hostnCmd (t : Tenant) (w : Word)
  | hostnAns (t : Tenant)
  | reelAck (t : Tenant)
  -- Sensor buses (12_sensor_buses.md)
  | busTransactionStart (b : BusId) (sdaHeld : Bool) (freed : Bool)
  | busTransactionEnd (b : BusId) (w : BusWire)
  | addressRetry (b : BusId)
  | twoWireTimeout (b : BusId) (h : TwoWireHold)
  | pollDue (p : Fin 16)
  | edgeSource (k : Seg) (level : Bool)
  | busReset (t : Tenant) (b : BusId)
  -- Power, clocks, Tap (13_power_clocks_wake.md)
  | enter (t : Tenant)
  | bowAnswer (d : Dom) (delay : Option Nat)
  | bowDelayExpiry (d : Dom)
  | entrySwitch (retFail : List Dom)
  | clearLog (t : Tenant)
  | wakePin (x : Fin 8) (high : Bool)
  | timerWake
  | portWake (src : Fin 13)
  | switchReady
  | switchAttemptFail (d : Dom)
  | xrefQualified (edges : Nat)
  | pllLock
  | clockBudgetExpiry
  | clockRetry (ok : Bool)
  | xrefLoss (unlock : Bool)
  | reentry
  | crystalStart (ms : Nat)
  | crystalTimeout
  | srcSel (t : Tenant) (v : Bool)
  | rcTrim
  | bodyBiasUpdate (bias : Int) (vcoreMv : Nat)
  | retLost
  | supplyFall (vcore : Bool)
  | tapPing (k : Fin 2) (f : Int) (a : Nat) (ring : Bool)
  | learn (t : Tenant)
  | scrubRead (hits : List (Nat × Nat))
  -- Vault, tamper, life cycle, longevity (14_dependability_longevity.md)
  | load (t : Tenant)
  | promote (t : Tenant)
  | erase (t : Tenant)
  | wipe (t : Tenant)
  | tamper (r : TamperReading)
  | lcArm (t : Tenant) (target : Fin 4)
  | lcGo (t : Tenant) (target : Fin 4) (vaonMv : Nat)
  | lcProgramDone (powerFailed : Bool)
  | rebase (t : Tenant) (idx : BitVec 12)
  -- Windows and registers (15_memory_registers.md)
  | windowRead (t : Tenant) (a : BitVec 16) (stalled : Nat)
  | windowWrite (t : Tenant) (a : BitVec 16) (w : Word) (prev : Option Tenant) (stalled : Nat)
  | rcRead (t : Tenant) (a : BitVec 16)
  | registerWrite (t : Tenant) (a : BitVec 16) (w : Word)
  | sysReset (t : Tenant) (w : Word)
  -- TAP and test (16_balls_electrical_test.md)
  | extest
  | sample (cells : BitVec 162)
  | preload (cells : BitVec 162)
  | idcode
  | clamp
  | highz
  | segloop
  | testacc (acc : Option (BitVec 49))
  | bypass
  | testLogicReset
  | loopRun (ctrl : Half)
  | loopDone (mag : Nat) (phase : Int) (opened shorted clipped : Bool)
  | fuseProgram (cmd : Word) (vaonMv : Nat)
  | fuseRowDone (failed : Word)
  -- Further events
  | fieldCollapse (uid : BitVec 64)
  | tagPowerUp (k : TagKind)
  | vioBelow1v5 (hio below : Bool)
  | aonScrubber (page : Fin 16)
  | lcArmExpiry
  | thermalWarningEnd (n : Seg) (temp : Int)
  deriving DecidableEq, Repr

end Sys2Proof
end

