-- ==== Sys2Proof/Decode.lean ====
section
/-!
DEFINITION. The command that a word spells by the bits of spec/opcode_table.json. No row of the table has bits.
-/

-- One declaration after another: the package is compiled as one text under a memory limit.
set_option Elab.async false

namespace Sys2Proof

/-- The table gives no row any bits: its commands are events, frames and accesses. -/
def decodeTableWord (_nbits _w : Nat) : Option Instr := none

end Sys2Proof
end

