-- ==== Sys2Proof/Config.lean ====
section
/-!
DEFINITION. What an implementation fixes and the values that the spec leaves open. Each is a constant without a body: no
proof can see its value, and a statement that holds, holds for every value of it.
-/

-- One declaration after another: the package is compiled as one text under a memory limit.
set_option Elab.async false

namespace Sys2Proof.Config

/-- A fresh value at each number of the model's counter: for a value that the spec leaves open (notes/assumptions/3.md). -/
opaque freeValue : Nat → Nat

/-- ROUT of a segment at a temperature, in µΩ (R49 gives 1.0 Ω typically and 1.6 Ω at most). -/
opaque rout : Nat → Int → Nat

/-- A min-sum message magnitude after its scaling by 0.75: R167 gives no rounding. -/
opaque minSumScale : Nat → Nat

/-- A word of a tag's memory that nothing has written: the tag model's own (R121). By UID and address. -/
opaque tagWord : Nat → Nat → BitVec 16

/-- Whether a tag's model holds a readable word outside its identity block and writable region (R121). -/
opaque tagReadable : Nat → Nat → Bool

/-- What a tag answers to an authentication message: none where it cannot verify it (R136, R137; ISO/IEC 29167-10). -/
opaque authReply : Nat → Nat → List Byte → Option (List Byte)

/-- Whether a tag's response to a message of a kind is valid under a key (R137; ISO/IEC 29167-10). -/
opaque authValid : BitVec 128 → Nat → List Byte → List Byte → Bool

/-- What the standard tags under a service segment send back to a service frame, as the demodulator gives it: the data bits in order of
transmission, and the place of the first collision; none: no answer (R196 to R198). By the number of the exchange and the frame. -/
opaque cardReply : Nat → List Bool → Option (List Bool × Option Nat)

end Sys2Proof.Config
end

