-- ==== Sys2Proof/Machine/Bits.lean ====
section
/-!
DEFINITION. Bit fields, signed fields, byte order, saturating counts, checks over bytes and exact arithmetic, as the
spec's formats use them.
-/

-- One declaration after another: the package is compiled as one text under a memory limit.
set_option Elab.async false

namespace Sys2Proof.Machine

/-- The `w` bits of `v` from bit `lo`. -/
def bitsOf (v lo w : Nat) : Nat := (v >>> lo) % 2 ^ w

/-- Bit `i` of `v`, as a number. -/
def bitOf (v i : Nat) : Nat := bitsOf v i 1

/-- The field of `w` bits read as a two's complement number. -/
def signedOf (w v : Nat) : Int := if v % 2 ^ w < 2 ^ (w - 1) then (v % 2 ^ w : Nat) else (v % 2 ^ w : Nat) - (2 ^ w : Nat)

/-- The two's complement field of `w` bits for `i`. -/
def fieldOf (w : Nat) (i : Int) : Nat := (i % (2 ^ w : Nat)).toNat

/-- `b` as 0 or 1. -/
def flagOf (b : Bool) : Nat := if b then 1 else 0

/-- A counter of `w` bits that saturates. -/
def satAdd (w v k : Nat) : Nat := min (v + k) (2 ^ w - 1)

/-- `i` limited to `lo`…`hi`. -/
def clampInt (lo hi i : Int) : Int := max lo (min hi i)

/-- A signed value saturated to `w` bits. -/
def satSigned (w : Nat) (i : Int) : Int := clampInt (-(2 ^ (w - 1) : Nat)) ((2 ^ (w - 1) : Nat) - 1) i

/-- Bytes as a little-endian number, first byte in [7:0] (R15). -/
def leNat : List Byte → Nat
  | [] => 0
  | b :: bs => b.toNat + 256 * leNat bs

/-- Bytes as a big-endian number. -/
def beNat (bs : List Byte) : Nat := leNat bs.reverse

/-- `n` little-endian bytes of `v`. -/
def leBytes : Nat → Nat → List Byte
  | 0, _ => []
  | n + 1, v => BitVec.ofNat 8 v :: leBytes n (v / 256)

/-- `n` big-endian bytes of `v`. -/
def beBytes (n v : Nat) : List Byte := (leBytes n v).reverse

/-- `k` items of `l` from item `off`. -/
def slice {α : Type} (l : List α) (off k : Nat) : List α := (l.drop off).take k

/-- The little-endian field of `k` bytes at `off`. -/
def leAt (bs : List Byte) (off k : Nat) : Nat := leNat (slice bs off k)

/-- Groups of `k`, at most `n` of them. -/
def chunksN {α : Type} (k : Nat) : Nat → List α → List (List α)
  | 0, _ => []
  | n + 1, l => if l.isEmpty then [] else l.take k :: chunksN k n (l.drop k)

/-- The list in groups of `k`, the last perhaps shorter. -/
def chunks {α : Type} (k : Nat) (l : List α) : List (List α) := chunksN k l.length l

/-- 32-bit words of a byte list, each little-endian. -/
def wordsOf (bs : List Byte) : List Nat := (chunks 4 bs).map leNat

/-- How many bits of `v` are 1, among the low `w`. -/
def popCount (w v : Nat) : Nat := ((List.range w).filter fun i => v.testBit i).length

/-- The numbers of the bits that are 1, ascending. -/
def bitList (w v : Nat) : List Nat := (List.range w).filter fun i => v.testBit i

/-- `v` with bit `i` set or cleared. -/
def putBit (v i : Nat) (b : Bool) : Nat := if v.testBit i = b then v else if b then v + 2 ^ i else v - 2 ^ i

/-- `v` in the `w` bits from `lo`: what a field adds to its word. -/
def inField (lo w v : Nat) : Nat := (v % 2 ^ w) <<< lo

/-- The parity of the low `w` bits. -/
def parity (w v : Nat) : Nat := popCount w v % 2

/-- `a / b` rounded to the nearest whole number, halves up. -/
def roundDiv (a : Int) (b : Nat) : Int := (2 * a + (b : Int)) / (2 * (b : Int))

/-- `a / b` rounded up. -/
def ceilDiv (a b : Nat) : Nat := (a + b - 1) / b

/-- One byte through a CRC register whose shift runs toward the least significant bit. -/
def crcReflByte (poly : Nat) (c : Nat) (b : Byte) : Nat :=
  (List.range 8).foldl (fun c _ => if c % 2 = 1 then (c >>> 1) ^^^ poly else c >>> 1) (c ^^^ b.toNat)

/-- CRC-32C over bytes (R32). -/
def crc32c (bs : List Byte) : Nat := (bs.foldl (crcReflByte 0x82F63B78) 0xFFFFFFFF) ^^^ 0xFFFFFFFF

/-- One bit through a CRC register of `w` bits whose shift runs toward the most significant bit. -/
def crcBit (w poly c : Nat) (b : Bool) : Nat :=
  let top := bitOf c (w - 1) == 1
  let sh := (c * 2) % 2 ^ w
  if top == b then sh else sh ^^^ poly

/-- A CRC over bits, most significant first. -/
def crcBits (w poly init : Nat) (bs : List Bool) : Nat := bs.foldl (crcBit w poly) init

/-- The `w` bits of `v`, most significant first. -/
def msbBits (w v : Nat) : List Bool := (List.range w).map fun i => v.testBit (w - 1 - i)

/-- Bits, most significant first, as a number. -/
def msbNat (bs : List Bool) : Nat := bs.foldl (fun n b => 2 * n + flagOf b) 0

/-- The integer square root, by bits: the greatest `r < 2 ^ k` with `r * r ≤ n`. -/
def sqrtBits (n : Nat) : Nat → Nat → Nat
  | 0, r => r
  | k + 1, r => let t := r + 2 ^ k; sqrtBits n k (if t * t ≤ n then t else r)

/-- ⌊√n⌋ for n below 2⁶⁴. -/
def isqrt (n : Nat) : Nat := sqrtBits n 32 0

/-- The function's value at every index: a table of fixed length, item by item. -/
def vmap {α : Type} {n : Nat} (f : Fin n → α → α) (v : Vector α n) : Vector α n := Vector.ofFn fun i => f i v[i]

/-- One item changed. -/
def vupd {α : Type} {n : Nat} (v : Vector α n) (i : Fin n) (f : α → α) : Vector α n := v.set i (f v[i])

/-- The item numbered `i`, if there is one, changed. -/
def vupdN {α : Type} {n : Nat} (v : Vector α n) (i : Nat) (f : α → α) : Vector α n :=
  if h : i < n then vupd v ⟨i, h⟩ f else v

/-- The item numbered `i`, or `d`. -/
def vget {α : Type} {n : Nat} (v : Vector α n) (i : Nat) (d : α) : α := if h : i < n then v[i] else d

/-- The numbers below `n` that satisfy `p`. -/
def finsWhere {n : Nat} (p : Fin n → Bool) : List (Fin n) := (List.finRange n).filter p

/-- The least item that satisfies `p`, in list order. -/
def firstFin {n : Nat} (p : Fin n → Bool) : Option (Fin n) := (List.finRange n).find? p

/-- `l` with `x` put in order after all items not greater, by `lt`. -/
def insertBy {α : Type} (lt : α → α → Bool) (x : α) : List α → List α
  | [] => [x]
  | y :: ys => if lt x y then x :: y :: ys else y :: insertBy lt x ys

/-- A stable sort. -/
def sortBy {α : Type} (lt : α → α → Bool) (l : List α) : List α := l.reverse.foldl (fun acc x => insertBy (fun a b => lt a b || !lt b a) x acc) []

/-- A key and value list with the value at `k` replaced or added. -/
def assocPut {α : Type} (k : Nat) (v : α) (l : List (Nat × α)) : List (Nat × α) :=
  (k, v) :: l.filter fun p => p.1 != k

/-- The value at `k`. -/
def assocGet {α : Type} (k : Nat) (l : List (Nat × α)) : Option α := (l.find? fun p => p.1 == k).map (·.2)

/-- The list without key `k`. -/
def assocDel {α : Type} (k : Nat) (l : List (Nat × α)) : List (Nat × α) := l.filter fun p => p.1 != k

/-- A list sorted by key, one entry a key, none with the value `dflt k`: `v` written at `k`. -/
def sparsePut (dflt v k : Nat) : List (Nat × Nat) → List (Nat × Nat)
  | [] => if v = dflt then [] else [(k, v)]
  | (j, u) :: l =>
    if k < j then (if v = dflt then (j, u) :: l else (k, v) :: (j, u) :: l)
    else if k = j then (if v = dflt then l else (k, v) :: l)
    else (j, u) :: sparsePut dflt v k l

/-- The value at `k` of such a list. -/
def sparseGet (dflt k : Nat) : List (Nat × Nat) → Nat
  | [] => dflt
  | (j, u) :: l => if k = j then u else sparseGet dflt k l

end Sys2Proof.Machine
end

