-- ==== Sys2Proof/Machine/Crypto.lean ====
section
/-!
DEFINITION. SHA-256, ECDSA P-256 verification and AES-128, which R33 and R136 name. PRESUMED: the spec names the
algorithms and their public standards (FIPS 180-4, FIPS 186-4, FIPS 197) define them; notes/assumptions/7.md.
-/

-- One declaration after another: the package is compiled as one text under a memory limit.
set_option Elab.async false

namespace Sys2Proof.Machine

/-- The first 64 primes. -/
def primes64 : List Nat :=
  [2, 3, 5, 7, 11, 13, 17, 19, 23, 29, 31, 37, 41, 43, 47, 53, 59, 61, 67, 71, 73, 79, 83, 89, 97, 101, 103, 107, 109,
   113, 127, 131, 137, 139, 149, 151, 157, 163, 167, 173, 179, 181, 191, 193, 197, 199, 211, 223, 227, 229, 233, 239,
   241, 251, 257, 263, 269, 271, 277, 281, 283, 293, 307, 311]

/-- The integer cube root, by bits. -/
def cbrtBits (n : Nat) : Nat → Nat → Nat
  | 0, r => r
  | k + 1, r => let t := r + 2 ^ k; cbrtBits n k (if t * t * t ≤ n then t else r)

/-- SHA-256's round constants: the first 32 bits of the fractions of the cube roots of the primes. -/
def shaK : List Nat := primes64.map fun p => cbrtBits (p * 2 ^ 96) 36 0 % 2 ^ 32

/-- SHA-256's initial value: the same of the square roots of the first eight primes. -/
def shaH0 : List Nat := (primes64.take 8).map fun p => sqrtBits (p * 2 ^ 64) 38 0 % 2 ^ 32

def rotr32 (x n : Nat) : Nat := (x >>> n) ||| ((x <<< (32 - n)) % 2 ^ 32)

/-- The message schedule, newest word first. -/
def shaSchedule (ws : List Nat) : List Nat :=
  let step := fun (r : List Nat) (_ : Nat) =>
    let w15 := r.getD 14 0
    let w2 := r.getD 1 0
    let s0 := rotr32 w15 7 ^^^ rotr32 w15 18 ^^^ (w15 >>> 3)
    let s1 := rotr32 w2 17 ^^^ rotr32 w2 19 ^^^ (w2 >>> 10)
    ((r.getD 15 0 + s0 + r.getD 6 0 + s1) % 2 ^ 32) :: r
  ((List.range 48).foldl step ws.reverse).reverse

/-- The eight working words. -/
structure ShaState where
  a : Nat
  b : Nat
  c : Nat
  d : Nat
  e : Nat
  f : Nat
  g : Nat
  h : Nat

def shaRound (s : ShaState) (kw : Nat × Nat) : ShaState :=
  let s1 := rotr32 s.e 6 ^^^ rotr32 s.e 11 ^^^ rotr32 s.e 25
  let ch := (s.e &&& s.f) ^^^ ((s.e ^^^ 0xFFFFFFFF) &&& s.g)
  let t1 := s.h + s1 + ch + kw.1 + kw.2
  let s0 := rotr32 s.a 2 ^^^ rotr32 s.a 13 ^^^ rotr32 s.a 22
  let maj := (s.a &&& s.b) ^^^ (s.a &&& s.c) ^^^ (s.b &&& s.c)
  { a := (t1 + s0 + maj) % 2 ^ 32, b := s.a, c := s.b, d := s.c, e := (s.d + t1) % 2 ^ 32, f := s.e, g := s.f, h := s.g }

def shaBlock (hs : List Nat) (blk : List Byte) : List Nat :=
  let w := shaSchedule ((chunks 4 blk).map beNat)
  let s0 : ShaState := ⟨hs.getD 0 0, hs.getD 1 0, hs.getD 2 0, hs.getD 3 0, hs.getD 4 0, hs.getD 5 0, hs.getD 6 0, hs.getD 7 0⟩
  let s := (shaK.zip w).foldl shaRound s0
  (hs.zip [s.a, s.b, s.c, s.d, s.e, s.f, s.g, s.h]).map fun p => (p.1 + p.2) % 2 ^ 32

/-- SHA-256 of a byte string, as a 256-bit number. -/
def sha256 (m : List Byte) : Nat :=
  let pad := (119 - m.length % 64) % 64
  let m' := m ++ [0x80#8] ++ List.replicate pad 0#8 ++ beBytes 8 (8 * m.length)
  ((chunks 64 m').foldl shaBlock shaH0).foldl (fun n w => n * 2 ^ 32 + w) 0

/-! ### P-256 -/

def p256p : Nat := 2 ^ 256 - 2 ^ 224 + 2 ^ 192 + 2 ^ 96 - 1
def p256n : Nat := 0xFFFFFFFF00000000FFFFFFFFFFFFFFFFBCE6FAADA7179E84F3B9CAC2FC632551
def p256b : Nat := 0x5AC635D8AA3A93E7B3EBBD55769886BC651D06B0CC53B0F63BCE3C3E27D2604B
def p256gx : Nat := 0x6B17D1F2E12C4247F8BCE6E563A440F277037D812DEB33A0F4A13945D898C296
def p256gy : Nat := 0x4FE342E2FE1A7F9B8EE7EB4A7C0F9E162BCE33576B315ECECBB6406837BF51F5

/-- b ^ e mod m, over the low `k` bits of e, the most significant first. -/
def powMod (m b e : Nat) : Nat → Nat → Nat
  | 0, acc => acc
  | k + 1, acc => powMod m b e k (let sq := acc * acc % m; if e.testBit k then sq * b % m else sq)

/-- The inverse modulo a prime. -/
def invMod (m a : Nat) : Nat := powMod m (a % m) (m - 2) 256 1

/-- A point in Jacobian coordinates; z = 0 is the point at infinity. -/
structure Jac where
  x : Nat
  y : Nat
  z : Nat

def fieldSub (a b : Nat) : Nat := (a + p256p - b % p256p) % p256p

def jacDouble (q : Jac) : Jac :=
  if q.z = 0 then q
  else
    let p := p256p
    let zz := q.z * q.z % p
    let m := 3 * (fieldSub q.x zz * (q.x + zz)) % p
    let yy := q.y * q.y % p
    let s := 4 * q.x * yy % p
    let x := fieldSub (m * m % p) (2 * s)
    { x := x, y := fieldSub (m * fieldSub s x % p) (8 * (yy * yy % p)), z := 2 * q.y * q.z % p }

def jacAdd (a b : Jac) : Jac :=
  if a.z = 0 then b
  else if b.z = 0 then a
  else
    let p := p256p
    let za := a.z * a.z % p
    let zb := b.z * b.z % p
    let u1 := a.x * zb % p
    let u2 := b.x * za % p
    let s1 := a.y * b.z * zb % p
    let s2 := b.y * a.z * za % p
    if u1 = u2 then (if s1 = s2 then jacDouble a else ⟨0, 1, 0⟩)
    else
      let h := fieldSub u2 u1
      let r := fieldSub s2 s1
      let hh := h * h % p
      let hhh := hh * h % p
      let v := u1 * hh % p
      let x := fieldSub (fieldSub (r * r % p) hhh) (2 * v)
      { x := x, y := fieldSub (r * fieldSub v x % p) (s1 * hhh), z := a.z * b.z * h % p }

/-- k · q, over the low `n` bits of k. -/
def jacMul (k : Nat) (q : Jac) : Nat → Jac → Jac
  | 0, acc => acc
  | n + 1, acc => jacMul k q n (let d := jacDouble acc; if k.testBit n then jacAdd d q else d)

/-- The public key is a point of the curve. -/
def p256OnCurve (x y : Nat) : Bool :=
  decide (x < p256p) && decide (y < p256p) && (y * y % p256p == (x * x * x + (p256p - 3) * x + p256b) % p256p)

/-- ECDSA P-256 verification of the hash `e` (R33). -/
def p256Verify (qx qy r s e : Nat) : Bool :=
  if r = 0 ∨ s = 0 ∨ r ≥ p256n ∨ s ≥ p256n ∨ p256OnCurve qx qy = false then false
  else
    let w := invMod p256n s
    let inf : Jac := ⟨0, 1, 0⟩
    let q := jacAdd (jacMul (e * w % p256n) ⟨p256gx, p256gy, 1⟩ 256 inf) (jacMul (r * w % p256n) ⟨qx, qy, 1⟩ 256 inf)
    if q.z = 0 then false
    else
      let zi := invMod p256p q.z
      (q.x * zi * zi % p256p) % p256n == r

/-! ### AES-128 -/

/-- Multiplication by x in AES's field. -/
def aesXtime (b : Nat) : Nat := if b < 128 then b * 2 else (b * 2 ^^^ 0x11B)

/-- Multiplication in AES's field. -/
def aesMul (a b : Nat) : Nat :=
  ((List.range 8).foldl (fun (acc : Nat × Nat) i => (if b.testBit i then acc.1 ^^^ acc.2 else acc.1, aesXtime acc.2)) (0, a)).1

/-- The inverse, a²⁵⁴, with 0 to 0. -/
def aesInv (a : Nat) : Nat :=
  let a2 := aesMul a a
  let a3 := aesMul a2 a
  let a6 := aesMul a3 a3
  let a12 := aesMul a6 a6
  let a15 := aesMul a12 a3
  let a30 := aesMul a15 a15
  let a60 := aesMul a30 a30
  let a120 := aesMul a60 a60
  let a126 := aesMul a120 a6
  let a127 := aesMul a126 a
  aesMul a127 a127

def rotl8 (x n : Nat) : Nat := ((x <<< n) ||| (x >>> (8 - n))) % 256

/-- The S-box. -/
def aesSbox (a : Nat) : Nat :=
  let b := aesInv a
  b ^^^ rotl8 b 1 ^^^ rotl8 b 2 ^^^ rotl8 b 3 ^^^ rotl8 b 4 ^^^ 0x63

def xorBytes (a b : List Nat) : List Nat := (a.zip b).map fun p => p.1 ^^^ p.2

/-- The next round key of 16 bytes. -/
def aesNextKey (k : List Nat) (rcon : Nat) : List Nat :=
  let t := (slice k 13 3 ++ slice k 12 1).map aesSbox
  let t := (t.getD 0 0 ^^^ rcon) :: t.drop 1
  let w0 := xorBytes (slice k 0 4) t
  let w1 := xorBytes (slice k 4 4) w0
  let w2 := xorBytes (slice k 8 4) w1
  w0 ++ w1 ++ w2 ++ xorBytes (slice k 12 4) w2

def aesShiftRows (s : List Nat) : List Nat :=
  (List.range 16).map fun i => s.getD ((i + 4 * (i % 4)) % 16) 0

def aesMixColumn (c : List Nat) : List Nat :=
  (List.range 4).map fun i =>
    aesXtime (c.getD i 0) ^^^ (aesXtime (c.getD ((i + 1) % 4) 0) ^^^ c.getD ((i + 1) % 4) 0) ^^^
      c.getD ((i + 2) % 4) 0 ^^^ c.getD ((i + 3) % 4) 0

/-- Rounds 1 to `n`, of ten. -/
def aesRounds : Nat → Nat → List Nat → List Nat → List Nat
  | 0, _, _, s => s
  | n + 1, rcon, k, s =>
    let k' := aesNextKey k rcon
    let t := aesShiftRows (s.map aesSbox)
    let t := if n = 0 then t else ((chunks 4 t).map aesMixColumn).flatten
    aesRounds n (aesXtime rcon) k' (xorBytes t k')

/-- AES-128 encryption of a block of 16 bytes. -/
def aesEncrypt (key blk : List Byte) : List Byte :=
  let k := key.map BitVec.toNat
  (aesRounds 10 1 k (xorBytes (blk.map BitVec.toNat) k)).map (BitVec.ofNat 8)

end Sys2Proof.Machine
end

