-- ==== Sys2Proof/Machine/State.lean ====
section
/-!
DEFINITION. The state of the block: every register, memory, queue, counter, mode and pin that the spec gives it, and the
queue of commands that wait. INVENTORY.md lists each with its rule and its reset value.
-/

-- One declaration after another: the package is compiled as one text under a memory limit.
set_option Elab.async false

namespace Sys2Proof.Machine

/-- No command of the block ends in a fault: the spec gives every one an effect, so this type has no constructor. -/
inductive Fault where
  deriving DecidableEq, Repr

/-- Why a command is rejected. -/
inductive Refusal where
  /-- Raised by an arm of exec whose command has no meaning in this model yet; safe: nothing is claimed of it. -/
  | notModelled (mnemonic : String)
  deriving DecidableEq, Repr

/-- What a command answers. -/
abbrev Out (σ : Type) := Host.Outcome σ Fault Refusal

/-- The types of a register field (R5). No field of the map is W1S. -/
inductive RegType where
  | rw | ro | rc | w1c | wo | rs
  deriving DecidableEq, Repr

/-- A register field, in `count` copies `stride` words apart: the place, the width and the reset value of each. -/
structure Row where
  base : Nat
  stride : Nat
  count : Nat
  lo : Nat
  width : Nat
  reset : Nat
  rstep : Nat
  ty : RegType
  deriving DecidableEq, Repr

/-- The states of a power domain (R318); `held` is an entry of R327 or a wake that waits on R334 or R394. -/
inductive DomState where
  | off | on | retain | held
  deriving DecidableEq, Repr

/-! ### Clock (01_one_revolution.md R9, 04_tempo_angle.md R95) -/

structure Clock where
  /-- CCLK cycles into the present tick. -/
  cclk : Fin 8
  /-- TEMPO_TIME, in ticks. -/
  time : BitVec 64
  /-- The 48-bit count of ACLK cycles in AON. -/
  aclk : BitVec 48
  /-- The way to the next ACLK cycle, in 1/27,120,000 cycle (R95, R96). -/
  aclkFrac : Nat
  deriving DecidableEq, Repr

/-! ### The Reel (02_reel.md) -/

/-- A RING entry (R20). -/
structure RingDef where
  ring : Nat
  flags : Nat
  kp : Nat
  segCount : Nat
  segMask : Nat
  origin : Nat
  refTag : Nat
  maxRpm : Nat
  deriving DecidableEq, Repr

/-- An XBAR entry (R22). -/
structure XbarDef where
  mode : Nat
  first : Nat
  width : Nat
  deriving DecidableEq, Repr

/-- A DEC entry (R24). -/
structure DecDef where
  role : Nat
  share : Nat
  lanes : Nat
  deriving DecidableEq, Repr

/-- A watched-channel record (R26). -/
structure WatchDef where
  chan : Nat
  slot : Nat
  flags : Nat
  deriving DecidableEq, Repr

/-- A slot record (R26): its 64 configuration bytes are R237's. -/
structure SlotDef where
  index : Nat
  engine : Nat
  kind : Nat
  cfg : List Byte
  deriving DecidableEq, Repr

/-- The HUB section (R26). -/
structure HubDef where
  periodMs : Nat
  mask : Nat
  watch : List WatchDef
  slots : List SlotDef
  deriving DecidableEq, Repr

/-- A QMAP entry (R27). -/
structure QDef where
  owner : Nat
  source : Nat
  flags : Nat
  threshold : Nat
  limit : Nat
  deriving DecidableEq, Repr

/-- A TENANT entry (R28). -/
structure TenantDef where
  tenant : Nat
  port : Nat
  addr : Nat
  hint : Nat
  chFirst : Nat
  chCount : Nat
  figFirst : Nat
  figCount : Nat
  credits : Nat
  flags : Nat
  dumarMax : Nat
  deriving DecidableEq, Repr

/-- A POWER entry (R30). -/
structure PowerDef where
  dom : Nat
  policy : Nat
  delayMax : Nat
  deriving DecidableEq, Repr

/-- A PINS entry (R31). -/
structure PinDef where
  group : Nat
  function : Nat
  options : Nat
  deriving DecidableEq, Repr

/-- A checked Reel: what its header and its eight sections set (R17 to R31). -/
structure Reel where
  format : Nat
  signed : Bool
  serial : Nat
  /-- SEC_CRC of the RING section in force (R343). -/
  ringCrc : Nat
  ring : List RingDef
  xbar : List XbarDef
  dec : List DecDef
  hub : HubDef
  qmap : List QDef
  tenants : List TenantDef
  tapMs : Nat
  power : List PowerDef
  pins : List PinDef
  deriving DecidableEq, Repr

/-- The ring whose boundary an armed Reel waits for (R42). -/
inductive Arm where
  | ring (r : Nat)
  | any
  deriving DecidableEq, Repr

/-- The loader (R36 to R47). Its state number and its results stand in the REEL registers. -/
structure ReelState where
  active : Option Reel
  staged : Option Reel
  /-- The Reel on whose settings carried operations complete (R44). -/
  outgoing : Option Reel
  /-- The staged copy, in the order received. -/
  bytes : List Byte
  /-- TOTAL_LEN once the header has passed its checks (R38). -/
  total : Option Nat
  armed : Option Arm
  /-- The tick of the last swap, while carried operations remain (R44). -/
  swapTick : Option Nat
  /-- The staged bytes come from flash: primary image false, alternate true (R40). -/
  boot : Option Bool
  /-- MEM02-MEM03 were Off: the Reel that becomes active next rebuilds the census (R195). -/
  rebuildDue : Bool
  /-- The REEL cause of T0's request (R297). -/
  irq : Bool
  deriving DecidableEq, Repr

/-! ### Field (03_field_segments.md) -/

/-- The owner of a claim record (R66): a scoreboard slot, a tuning run (R51) or a loopback run (R404). -/
inductive ClaimOwner where
  | slot (n : Nat)
  | tune
  | loop
  deriving DecidableEq, Repr

/-- A ramp (R59): from level `a0` to `a1` over `n` carrier cycles, `k` of them done. -/
structure Ramp where
  /-- Its start boundary, from which cycle k = 0 runs, has come (R61, R65). -/
  begun : Bool
  a0 : Nat
  a1 : Nat
  k : Nat
  n : Nat
  deriving DecidableEq, Repr

/-- What is held for a grant (R65): a ramp to a commanded level, the ramp to the fill amplitude (R75) under an extension in
half segments, or a Glide from segment `o`. -/
inductive StartKind where
  | level
  | fill (ext : Nat)
  | glide (o : Nat)
  deriving DecidableEq, Repr

/-- A ramp or Glide held for its grant (R65): the slot, the commanded level, what it is, and the carrier cycle of the start
boundary that was asked for. -/
structure HeldStart where
  slot : Nat
  level : Nat
  kind : StartKind
  due : Nat
  deriving DecidableEq, Repr

/-- What a driver holds beside its registers. SEGn_STATUS.STATE, HELD and TARGET stand in the FLD registers. -/
structure SegState where
  owner : Option ClaimOwner
  /-- The unmodulated code that its ramp or its command gives in the present carrier cycle, and the code applied: as much of
  it as the held tokens cover (R56). -/
  want : Nat
  level : Nat
  /-- The applied code is less than that. -/
  clamped : Bool
  ramp : Option Ramp
  /-- The other segment of a running Glide. -/
  partner : Option Nat
  heldStart : Option HeldStart
  /-- The level is the fill amplitude, for an extension of this many half segments; 0: it is the commanded one (R75). -/
  ext : Nat
  /-- The phase latched for a Glide (R62). -/
  phase : Option Nat
  /-- The effective phase from the latest carrier-cycle boundary on (R49, R57). -/
  phaseNow : Nat
  /-- REINSTATE waits for the boundary of its ring (R72). -/
  reinstate : Bool
  /-- The SA of the Step's tag that the level follows (R75). -/
  tag : Option Nat
  /-- Carrier cycles of the present DRIVE interval (R71). -/
  driveCycles : Nat
  /-- The tick since which its carrier, a Glide's pair taken as one, has been steady (R216). -/
  steady : Nat
  deriving DecidableEq, Repr

/-- A queued claim (R66, R67), with the CCLK cycle of its arrival. -/
structure Claim where
  seg : Nat
  owner : ClaimOwner
  tokens : Nat
  prio : Nat
  cycle : Nat
  caller : Nat
  deriving DecidableEq, Repr

structure FieldState where
  segs : Vector SegState 24
  claims : List Claim
  deriving DecidableEq, Repr

/-! ### Tempo (04_tempo_angle.md) -/

/-- The states of an estimator's track. -/
inductive TrackState where
  | off | wait | inVote | outVote
  deriving DecidableEq, Repr

/-- An estimator's track (R83, R87): angles in units of 2⁻⁴⁰ revolution. -/
structure Track where
  st : TrackState
  angle : Nat
  speed : Int
  /-- Angle and tick of the last two marks, newest first. -/
  marks : List (Nat × Nat)
  /-- The way still open to the next expected mark; none: no mark has set a limit. -/
  room : Option Nat
  /-- The tick since which the track is held at its limit. -/
  heldSince : Option Nat
  stalled : Bool
  /-- Consecutive charged votes without agreement, and votes agreed while OUT. -/
  missed : Nat
  agreed : Nat
  deriving DecidableEq, Repr

/-- The tooth count of a keyphasor (R84). -/
structure Tooth where
  /-- The position counted from the zero mark, once the gap has been found. -/
  pos : Option Nat
  lastTick : Option Nat
  /-- The interval before the last accepted edge, and the tooth interval that follows from it: half of one across the gap. -/
  lastInt : Nat
  expect : Nat
  accepted : Nat
  deriving DecidableEq, Repr

/-- The ring's model from a tick on: its fraction with its sub-fraction bits then, its INC and the correction still to apply. -/
structure ModelPiece where
  tick : Nat
  sub : Nat
  inc : Int
  slew : Int
  deriving DecidableEq, Repr

structure RingState where
  /-- 40-bit count, 24-bit fraction, 16 sub-fraction bits (R81). -/
  phase : BitVec 80
  inc : Int
  /-- The correction still to apply, in 2⁻⁴⁰ revolution (R89). -/
  slew : Int
  /-- The fraction crossed 0 in the direction of rotation and its boundary is still to come. -/
  wrapped : Bool
  /-- The tick at which the Reel created the ring. -/
  created : Nat
  /-- The tick at which the angle last advanced (R90). -/
  lastAdv : Nat
  /-- Keyphasor, transit, detune. -/
  tracks : Vector Track 3
  /-- The voted estimator of the latest vote. -/
  voted : Option (Fin 3)
  /-- Three tracks agreed in it. -/
  three : Bool
  tooth : Tooth
  /-- The detune signature: bin and segment as 24 × bin + segment, magnitude, phase (R86). -/
  sig : List (Nat × Nat × Int)
  /-- Complete revolutions recorded in it, and whether the present one has been recorded from its start. -/
  sigRevs : Nat
  sigOpen : Bool
  /-- The tick of the last mark of a voted estimator (R98). -/
  votedMark : Option Nat
  /-- A reversal that the Reel does not admit made the angle invalid, until the vote agrees on forward rotation (R91). -/
  reversed : Bool
  /-- The tick of the last Revolution boundary, and an invalid angle that waits for the tick after it (R94). -/
  boundaryAt : Option Nat
  invalidDue : Bool
  /-- The fraction at the previous tick, for Steps passed (R206). -/
  prevFrac : Nat
  /-- The fraction of the last firing of this revolution (R208). -/
  lastFire : Option Nat
  /-- No Step fires until the last firing angle is passed again (R208). -/
  skipBack : Bool
  /-- The fraction from which a forward reseat jumped, its passed Steps still to be dealt with (R208). -/
  reseatFrom : Option Nat
  /-- Tick of the last reseat, speed step, reversal or invalid period (R235). -/
  disturbed : Option Nat
  /-- The model's latest changes, newest first, for its angle at the tick of a mark (R89). -/
  pieces : List ModelPiece
  deriving DecidableEq, Repr

structure TempoState where
  rings : Vector RingState 4
  /-- The HI word of TEMPO_DAY_NEXT held until LO commits (R104). -/
  dayHold : Option Word
  periodNext : Option Nat
  /-- A PERIOD_MS that applies from the end of the present Period (R45). -/
  periodNew : Option Nat
  deriving DecidableEq, Repr

/-! ### Air and tags (05_jenuri_air.md) -/

/-- The states of a tag (R124). -/
inductive TagMode where
  | ready | quiet | assigned | secure
  deriving DecidableEq, Repr

/-- A DATA block that a tag keeps until it is acknowledged (R123): `tick` is the newest set's sampling instant. -/
structure TagBlock where
  seq : Nat
  sets : List (List Half)
  tick : Nat
  spacing : Nat
  sent : Bool
  deriving DecidableEq, Repr

/-- A tag in the field. Banks list the words written; others are the tag model's own. -/
structure Tag where
  kind : TagKind
  mode : TagMode
  powered : Bool
  sa : Nat
  offset : Nat
  /-- Generation 1 to 3, rate and Z in service, self-clocked option. -/
  gen : Nat
  rate : Nat
  z64 : Bool
  self : Bool
  bank : List (Nat × Half)
  /-- The number of the active bank. -/
  bankNo : Nat
  pendingBank : Option (List (Nat × Half))
  commits : Nat
  blocks : List TagBlock
  nextSeq : Nat
  /-- A block numbered 0xFF has been sent since SETGEN (R123). -/
  sentFF : Bool
  overflow : Bool
  deriving DecidableEq, Repr

/-- An uplink frame that a tag sends (R116 to R118): ticks of its first preamble symbol and of its end. -/
structure Reply where
  uid : Nat
  ring : Nat
  sa : Nat
  ty : Nat
  payload : List Half
  gen : Nat
  rate : Nat
  z64 : Bool
  self : Bool
  hold : Nat
  start : Nat
  stop : Nat
  deriving DecidableEq, Repr

/-- The sequence of a downlink bit period (R106). `full` is a pause for the whole of it, in the service coding of ISO/IEC 15693
(R198). -/
inductive DownSeq where
  | x | y | z | full
  deriving DecidableEq, Repr

/-- A downlink frame sent by a slot's SEND (R106 to R108, R216). -/
structure Downlink where
  slot : Nat
  segs : List Nat
  depth : Nat
  content : List Bool
  crc : Nat
  seqs : List DownSeq
  /-- The carrier cycles of a bit period: 16 in Jenuri (R106), the service coding's own in a service job (R197, R198). -/
  period : Nat
  /-- Carrier cycle, counted in ticks, of the first bit period, and the command's end. -/
  start : Nat
  stop : Nat
  deriving DecidableEq, Repr

/-- The outcomes of a write (R133). -/
inductive WriteOutcome where
  | none | unknown | done
  deriving DecidableEq, Repr

/-- The step of a write that was sent last (R132). -/
inductive WriteStep where
  | prepare | commit | confirm
  deriving DecidableEq, Repr

/-- A write in progress on the tag of a short address (R133, R134), with its token. -/
structure WriteRec where
  sa : Nat
  step : WriteStep
  token : Nat
  /-- TYPE of the reply to that step, once received. -/
  last : Option Nat
  /-- The step is a CONFIRM sent again for a write whose outcome is W_UNKNOWN, and the passes since that brought no CONFIRMED (R134). -/
  retry : Bool
  passes : Nat
  outcome : Option WriteOutcome
  deriving DecidableEq, Repr

/-- An authentication in progress with the tag of a short address (R136, R137): its KeyID, and the message sent last. -/
structure AuthRun where
  sa : Nat
  key : Nat
  msg : Nat
  message : List Byte
  deriving DecidableEq, Repr

structure AirState where
  tags : List Tag
  replies : List Reply
  downlinks : List Downlink
  writes : List WriteRec
  auths : List AuthRun
  deriving DecidableEq, Repr

/-! ### Lanes and decoders (06_receive_decode.md) -/

/-- A candidate held by a searcher (R151): the tick of its first symbol, its path and its strength in 0.25 dB. -/
structure Cand where
  tick : Nat
  fc16 : Bool
  strength : Nat
  /-- Its symbols so far, from its first one on: a value and the count of clipped samples a branch (R144, R149). -/
  run : List (List (Cplx × Nat))
  /-- Its run is a hold block (R113). -/
  hold : Bool
  /-- An arrival behind a packet's header end, which may still collide; one that displaced the packet held before it (R154). -/
  behind : Bool
  captor : Bool
  deriving DecidableEq, Repr

/-- A seam crossing reported by a lane (R160). -/
structure Crossing where
  tick : Nat
  seam : Nat
  backward : Bool
  fill : Bool
  deriving DecidableEq, Repr

/-- A qualified packet (R151, R153, R154). `flags` are status bits of R174 met so far. -/
structure Packet where
  searcher : Nat
  gen : Nat
  first : Nat
  strength : Nat
  holds : Nat
  flags : Nat
  deriving DecidableEq, Repr

/-- A codeword in a lane buffer (R162, R169): its soft bits and, once decoded, its information bits and iterations. -/
structure LaneWord where
  llr : List Int
  /-- It has entered its core's queue. -/
  sent : Bool
  info : Option (List Bool)
  iters : Nat
  failed : Bool
  dispute : Bool
  /-- The checker has still to decode it (R170). -/
  checking : Bool
  deriving DecidableEq, Repr

/-- A reply window (R146). -/
structure RxWindow where
  slot : Nat
  first : Nat
  gen : Nat
  /-- Any generation's sync word is expected (R195). -/
  anyGen : Bool
  onbeat : Bool
  offset : Nat
  hold : Nat
  rate : Nat
  z64 : Bool
  /-- The tick that ends the command. -/
  cmdEnd : Nat
  /-- A TREE query's slot (R131). -/
  tree : Option Nat
  /-- The SA that the command went to. -/
  sa : Option Nat
  deriving DecidableEq, Repr

/-- A branch of a lane's chain (R149, R156): its channel, its gain estimate h in units of 2^-exp / 64 converter unit, its noise
variance, and the sum of its samples over the 64 carrier cycles before the run. -/
structure Branch where
  chan : Nat
  gain : Cplx
  var : Nat
  resid : Cplx
  deriving DecidableEq, Repr

/-- The signal chain of a lane for the packet that it receives (R149 to R161). -/
structure Chain where
  branches : List Branch
  /-- The number of binary places of the gains. -/
  exp : Nat
  /-- |h|² / σ² of the branches at the symbol end before the last, in a common unit. -/
  was : List Nat
  /-- For how many symbols the trailing branch's share has stayed below 1/64 (R159). -/
  low : Nat
  /-- Symbols received since the first preamble symbol, and the offset estimates added up over them, in Hz (R174, R175). -/
  syms : Nat
  offSum : Int
  /-- The linear Γ added up, as a fraction, and the symbols that count in it (R174). -/
  gamNum : Nat
  gamDen : Nat
  gamN : Nat
  /-- Soft bits after the sync word that no codeword has taken yet (R161). -/
  soft : List Int
  deriving DecidableEq, Repr

structure LaneState where
  win : Option RxWindow
  /-- Windows that wait for the delivery of the present one (R176). -/
  next : List RxWindow
  /-- The channels of the present window, in effective cover order. -/
  chans : List Nat
  /-- The noise variance of the ring's channels as measured before the window opened (R151). -/
  noise : List (Nat × Nat)
  chain : Chain
  cands : Vector (Option Cand) 2
  pkt : Option Packet
  /-- A held packet was displaced by an arrival that has not qualified (R154). -/
  displaced : Bool
  crossings : List Crossing
  words : List LaneWord
  bufFull : Bool
  /-- The frame record and payload that wait for RECV, with the slot of their window. -/
  record : Option (Nat × List Word × List Half)
  /-- It failed, and its role is still to be taken over (R148). -/
  failing : Bool
  /-- Its settings of the active Reel wait for the delivery of its windows (R44). -/
  resettle : Bool
  /-- Its share of a lane's windows taken under R350: the lane that it also serves for. -/
  shares : List Nat
  deriving DecidableEq, Repr

/-- What a core's run of a codeword gives: information bits, iterations, and success (R167, R168). -/
structure DecodeRun where
  bits : List Bool
  iters : Nat
  ok : Bool
  deriving DecidableEq, Repr

/-- A codeword in a core's queue: its lane and its place in the lane's buffer. -/
structure CoreJob where
  lane : Nat
  word : Nat
  /-- For the checker: the core that decoded it first, and its result (R171). -/
  first : Option (Nat × DecodeRun)
  deriving DecidableEq, Repr

structure CoreState where
  queue : List CoreJob
  /-- The 8-bit accumulator of R170. -/
  acc : Nat
  deriving DecidableEq, Repr

structure RxState where
  lanes : Vector LaneState 20
  cores : Vector CoreState 4
  /-- The core that a lane's codewords go to (R24, R169). -/
  route : Vector Nat 20
  deriving DecidableEq, Repr


/-! ### Census (07_census.md). The entries themselves stand in MEM02 and MEM03. -/

/-- What an exchange of a census job does (R183 to R189, R195, R412). Entries are named by index, tags by short address. -/
inductive JobStep where
  | tree (l pre : Nat)
  | assign (idx : Nat)
  | readId (idx : Nat)
  | setgen (idx : Nat)
  | pingUid (uid idx : Nat)
  | release (sa : Nat)
  | seed (sa gen tries pos : Nat)
  | scan (sa : Nat)
  | found (sa gen : Nat)
  | plan (idx plan : Nat)
  | retire (idx : Nat)
  | service
  deriving DecidableEq, Repr

/-- The exchanges of a service job (R197 to R199): those of ISO/IEC 14443-3 and -4, then those of ISO/IEC 15693, the
taking of requests, and none. -/
inductive SvcStep where
  | reqa | anticoll | select | rats | pps | block | deselect | halt
  | inventory | sysInfo | read | request | quiet
  | fetch | over
  deriving DecidableEq, Repr

/-- The block that the ISO-DEP exchange sends next (R197): INF, R(ACK), R(NAK), or S(WTX) with its multiplier. -/
inductive DepSay where
  | info | ack | nak
  | wtx (m : Nat)
  deriving DecidableEq, Repr

/-- How far a service job has come with the tags under its segment (R196 to R199). -/
structure Service where
  step : SvcStep
  /-- The cascade level, and the bits of its part of the UID that are known, in the order of transmission. -/
  level : Nat
  known : List Bool
  /-- The tag in service: its UID so far, ATQA, SAK and ATS, or its UID and DSFID. -/
  uid : List Nat
  atqa : List Nat
  sak : Nat
  ats : List Nat
  dsfid : Nat
  /-- DRI and DSI of PPS, the block number of ISO-DEP, and what is said next. -/
  rates : Nat × Nat
  bn : Nat
  say : DepSay
  tries : Nat
  /-- The request in progress, what it has still to send, and what has come back; the next block to be read. -/
  out : List Nat
  inn : List Nat
  next : Nat
  /-- Requests taken from CENSUS_JOB.QUEUE: KIND and bytes. -/
  reqs : List (Nat × List Nat)
  /-- Inventory masks that wait, as length and value, and tags found, each with its DSFID before its UID. -/
  masks : List (Nat × Nat)
  cards : List (List Nat)
  found : Nat
  done : Nat
  deriving DecidableEq, Repr

/-- The frame record of a job's lane: the lane, the slot of a TREE query, the status word, the header and the payload. -/
structure JobReply where
  lane : Nat
  slot : Nat
  status : Nat
  header : Nat
  payload : List Half
  /-- The channel with the largest share, and the lane's channels. -/
  chan : Nat
  chans : List Nat
  deriving DecidableEq, Repr

/-- The jobs (CENSUS_STATUS.JOB). -/
inductive JobKind where
  | walk | rebuild | serviceA | serviceV | entry
  deriving DecidableEq, Repr

/-- How far a job exchange has come. -/
inductive JobPhase where
  | place | queued | driving | listening | ended
  deriving DecidableEq, Repr

structure Job where
  kind : JobKind
  ring : Nat
  seg : Nat
  blocks : Nat
  phase : JobPhase
  /-- The exchange in progress and those that follow it. -/
  step : Option JobStep
  todo : List JobStep
  /-- Prefixes of the walk that wait, the next first (R186). -/
  stack : List (Nat × Nat)
  /-- Entries of an ENTRY job not yet served, or the SAs that a rebuild has still to scan. -/
  list : List Nat
  /-- Rings of a rebuild that follow. -/
  rings : List Nat
  assignedPass : Nat
  /-- A rebuild has come to its scan. -/
  scanning : Bool
  queries : Nat
  assigned : Nat
  replies : List JobReply
  /-- The scoreboard slot of the exchange. -/
  slot : Option Nat
  stop : Bool
  svc : Service
  deriving DecidableEq, Repr

/-- An entry that waits for the ENTRY job: index and the plan that SETPLAN names (R412). -/
structure EntryWait where
  idx : Nat
  plan : Option Nat
  /-- SETGEN is to be run again (R139, R191). -/
  regen : Bool
  deriving DecidableEq, Repr

structure CensusState where
  job : Option Job
  waits : List EntryWait
  /-- The ENTRY list is to be served. -/
  serve : Bool
  /-- Commands RETIRE and FREE that a kept slot or a job holds back: index, true for FREE, and FORCE (R200). -/
  held : List (Nat × Bool × Bool)
  /-- SAs that an ECC loss leaves to the next rebuild scan, each with its entry's ring (R200). -/
  scanAdd : List (Nat × Nat)
  /-- The last accepted block number, by short address (R123). -/
  bseq : List (Nat × Nat)
  /-- The checkpoint read back at a wake: ring, SA, position, generation (R194). -/
  seeds : List (Nat × Nat × Nat × Nat)
  /-- CAPS W1 of the entries whose tags have told it, by index. -/
  caps1 : List (Nat × Nat)
  deriving DecidableEq, Repr


/-! ### Figure, scoreboard and Callers (08_figures_callers.md) -/

/-- A fired Step or a census job's exchange in a fire queue (R209, R184), with its firing snapshot (R221). -/
structure Fire where
  job : Bool
  step : Nat
  words : List Nat
  tenant : Nat
  ring : Nat
  prio : Nat
  tick : Nat
  rev : Nat
  late : Bool
  reverse : Bool
  /-- The way from the tick's first fraction to ANGLE, and the fraction at the firing tick. -/
  way : Nat
  frac : Nat
  /-- The retired segments at the firing, whose windows the exchange keeps (R76), and the segment it hands to g4 (R211). -/
  mask : Nat
  g4 : Word
  deriving DecidableEq, Repr

/-- What a Caller waits for (CLk_STATUS.STATE, R213). -/
inductive CallerWait where
  | idle
  | run
  | time (target : Nat)
  | angle (frac : Nat)
  | point (sa frac cycles : Nat)
  | frame (lane rd addr : Nat)
  | slot (rd kind cycle : Nat)
  | bus (b rd addr : Nat)
  | job
  | takeOver (running : Bool)
  deriving DecidableEq, Repr

structure CallerState where
  st : CallerWait
  /-- The running or the last program's firing. -/
  fire : Option Fire
  regs : Vector Word 16
  pc : Nat
  cur : Option Nat
  /-- FLAGS of R220. -/
  flags : Nat
  queue : List Fire
  /-- Queues to which this run pushes no more (R264). -/
  cut : List Nat
  /-- Segments that its last program still drove at its end, whose ramps have to begin before the next entry (R217). -/
  falls : List Nat
  deriving DecidableEq, Repr

/-- The kinds of a scoreboard slot (R214). -/
inductive SlotKind where
  | air | decode | write | bus | job
  deriving DecidableEq, Repr

/-- A kept slot (R215): its SA and the passes that ended with no ADOPT. -/
structure Kept where
  sa : Nat
  passes : Nat
  deriving DecidableEq, Repr

/-- A busy scoreboard slot. -/
structure Slot where
  kind : SlotKind
  /-- The logical Caller whose program owns it; none: ended, kept, or the hub's polling. -/
  caller : Option Nat
  kept : Option Kept
  /-- The SA that a KEEP bound it to, until its release (R215). -/
  bound : Option Nat
  /-- The logical Caller whose program claimed or adopted it last (R223). -/
  home : Option Nat
  /-- REL or END asked for its release. -/
  rel : Bool
  /-- A bus transaction handed over for it has not ended. -/
  bus : Bool
  /-- It holds a hub poll (R214). -/
  hub : Bool
  /-- It is carried across a swap (R44). -/
  carried : Bool
  /-- The end tick of its last SEND. -/
  sent : Option Nat
  /-- The SA that it went to. -/
  target : Option Nat
  /-- The Step whose program claimed it. -/
  step : Option Nat
  /-- The SA of that Step. -/
  sa : Nat
  prio : Nat
  /-- The retired segments whose windows its operation keeps (R76). -/
  mask : Nat
  deriving DecidableEq, Repr

/-- A running index rebuild (R204): its tenant, the Steps that it adds, the CCLK cycle in which it started, and the index
before it. -/
structure Rebuild where
  tenant : Nat
  adds : List Nat
  cycle : Nat
  index : List Nat
  deriving DecidableEq, Repr

structure FigState where
  /-- Steps marked dirty. -/
  dirty : List Nat
  /-- Committed Steps that the index serves. -/
  index : List Nat
  rebuild : Option Rebuild
  /-- Fired Steps not yet sent, in the order of R207. -/
  due : List Fire
  /-- Steps that fired in the present revolution, by ring. -/
  fired : Vector (List Nat) 4
  /-- Steps whose exchange is repeated at the tag's next pass (R13, R71). -/
  again : List Nat
  slots : Vector (Option Slot) 256
  callers : Vector CallerState 8
  deriving DecidableEq, Repr


/-! ### Hub (09_sensor_hub.md). Watched entries, slot configurations and statistics banks stand in MEM06 to MEM09. -/

/-- A sample in the intake buffer: `tick` before T_OFS or LAT is taken off; the census entry of a tag sample. -/
structure Sample where
  chan : Nat
  raw : Nat
  tick : Int
  entry : Option Nat
  /-- The poll entry whose run it ends (R305). -/
  last : Option Nat := none
  deriving DecidableEq, Repr

/-- A message of the graph, on its way to a port of a slot (R237, R238). -/
structure Msg where
  level : Bool
  v : Int
  chan : Nat
  t : Nat
  a : Nat
  ring : Nat
  est : Bool
  inv : Bool
  sp : Option Nat
  supp : Nat
  hops : Nat
  slot : Nat
  port : Nat
  deriving DecidableEq, Repr

/-- What a primitive keeps from message to message (R241). -/
structure SlotRun where
  out : Bool
  input : Bool
  since : Nat
  lastT : Option Nat
  ports : Nat
  /-- Tokens taken from a RATE bucket, and the tick from which the next refill counts. -/
  taken : Nat
  refill : Nat
  supp : Nat
  count : Nat
  lastMsg : Option Msg
  deriving DecidableEq, Repr

structure EngineState where
  inbox : List Msg
  /-- Messages that wait for a full inbox (R239). -/
  out : List Msg
  /-- CCLK cycles spent since LOAD was last taken (R240). -/
  busy : Nat
  /-- CCLK cycles for which it has stood stalled (R239). -/
  stall : Nat
  deriving DecidableEq, Repr

structure HubState where
  intake : List Sample
  engines : Vector EngineState 4
  run : List (Nat × SlotRun)
  /-- Slots and watched entries that an ECC error disabled, until the next swap (R252). -/
  slotsOff : List Nat
  watchOff : List Nat
  /-- The stamps of each group's last latch: T and A. -/
  latchT : Vector Nat 6
  latchA : Vector Nat 6
  /-- Latched banks that became live since the present H2 read began (R102): key 2 × slot + bank, the 16 words. -/
  old : List (Nat × List Nat)
  /-- The same of the latches of CCLK cycle `nowCycle` alone, for single reads in it (R102). -/
  nowOld : List (Nat × List Nat)
  nowCycle : Nat
  deriving DecidableEq, Repr


/-! ### Queues (10_queues_pool.md) -/

/-- A queue word with its kind bit (R254). `run`: the Caller whose present run pushed it (R264). -/
structure QWord where
  w : Word
  marker : Bool
  run : Option Nat := none
  deriving DecidableEq, Repr

/-- A queue descriptor (R256). Its QnCFG fields and its event bits stand in the QUE registers. -/
structure Queue where
  /-- The words, head first. -/
  words : List QWord
  /-- Words already popped from the head cell, 0 to 3. -/
  head : Nat
  /-- It holds its reserved cell (R411). -/
  seated : Bool
  /-- The pending marker. -/
  mark : Option Word
  /-- The last word popped (R261). -/
  last : Option QWord
  deriving DecidableEq, Repr

structure QueState where
  q : Vector Queue 64
  /-- Cells on the free list (R269). -/
  free : Nat
  /-- Cells on no list, until a mark pass finds them (R268, R270). -/
  orphans : Nat
  /-- FREE fell below LOW; the record POOL_LOW is still to be raised. -/
  lowDue : Bool
  /-- FREE reached 0; the record POOL_EXHAUST is still to be raised. -/
  exhaustDue : Bool
  deriving DecidableEq, Repr


/-! ### Host ports (11_hosts_tenancy.md). The fields of the tenants' views stand in the HOST registers. -/

/-- An open Dumar session (R294 to R296). -/
structure Session where
  version : Nat
  features : Nat
  deriving DecidableEq, Repr

/-- A command received whole, that waits for room for its answer (R291). -/
structure HostCmd where
  op : Nat
  tag : Nat
  ws : List Word
  crc : Word
  /-- Fewer words came than LEN says. -/
  cut : Bool
  /-- The words that LEN announces. -/
  len : Nat
  /-- It holds a credit; none was free at its header. -/
  credit : Bool
  deriving DecidableEq, Repr

/-- An executed command's answer that waits to be pushed (R291). -/
structure HostAnswer where
  words : List Word
  /-- Its command holds a credit. -/
  credit : Bool
  /-- BYE: the session closes with it. -/
  closes : Bool
  deriving DecidableEq, Repr

/-- How a command header was met (R291, R292). -/
inductive Admit where
  | taken | noCredit | lost
  deriving DecidableEq, Repr

/-- A host context: T0 to T3, and T0's second one before a Reel (R272). -/
structure HostCtx where
  session : Option Session
  /-- The answer buffer. -/
  buf : List Word
  /-- Commands that wait for room, in order, and answers not yet pushed. -/
  wait : List HostCmd
  out : List HostAnswer
  /-- Free credits, and credits owed to a reduction (R46). -/
  free : Nat
  debt : Nat
  /-- Words received over HOSTn_CMD of the present command, and how its header was met. -/
  cmd : List Word
  head : Option Admit
  /-- Words still to come over HOSTn_CMD of a command refused for LENGTH: they are discarded (R288). -/
  drain : Nat
  /-- The session ends once the outstanding commands are answered (R296). -/
  ending : Bool
  deriving DecidableEq, Repr

/-- What a frame is (R275). -/
inductive FrameLane where
  | none | command | ignored
  | stream (q most : Nat)
  deriving DecidableEq, Repr

/-- An SPI port (R274 to R280). -/
structure SpiState where
  selected : Bool
  /-- The context of the present frame; none: the port carries no tenant. -/
  ctx : Option Nat
  lane : FrameLane
  /-- The status word of the present frame, and the words that MISO has carried after it. -/
  status : Word
  miso : List Word
  /-- What the next status word says of this frame: underrun, partial word, first resent word. -/
  under : Bool
  part : Bool
  first : Nat
  deriving DecidableEq, Repr

/-- The two-wire port (R281 to R285). -/
structure H2State where
  /-- The tenant addressed, while a transaction runs. -/
  tenant : Option Nat
  read : Bool
  /-- The last byte was acknowledged. -/
  ack : Bool
  ptr : Nat
  /-- Bytes of the pointer received in this transaction. -/
  ptrBytes : Nat
  /-- The page of the first data byte. -/
  page : Option Nat
  /-- A byte was refused at the page's end, and so is every later one. -/
  refused : Bool
  bytes : List Byte
  /-- The word last taken for a read, and the words taken in this transaction. -/
  data : Word
  burst : Nat
  /-- Microseconds for which the last in-band pulse held SDA low. -/
  pulse : Nat
  deriving DecidableEq, Repr

structure HostState where
  ctx : Vector HostCtx 5
  spi : Vector SpiState 2
  h2 : H2State
  /-- What the last direct read of each tenant returned. -/
  readBack : Vector Word 4
  /-- High words latched by a read of LO (R385): key 65,536 × tenant + address of HI. -/
  latches : List (Nat × Nat)
  deriving DecidableEq, Repr


/-! ### Sensor buses (12_sensor_buses.md) -/

/-- A transaction that waits or runs (R301, R305). -/
structure Txn where
  /-- The Caller, the register that takes the result and the data address; none: a poll. -/
  caller : Option (Nat × Nat × Nat)
  poll : Option Nat
  slot : Nat
  /-- The descriptor as read at the start. -/
  desc : List Nat
  /-- Where a poll's descriptor stands in SBUS_DESC. -/
  base : Nat
  tBus : Nat
  tries : Nat
  /-- It waits for GAP to end after an address NACK. -/
  retry : Bool
  /-- The bus had MULTI at its start: a transaction under way goes on with the options of the Reel that it began under (R45). -/
  multi : Bool
  deriving DecidableEq, Repr

structure SbusState where
  wait : Vector (List Txn) 4
  run : Vector (Option Txn) 4
  /-- The last rising edge of an input in PERIOD mode. -/
  rise : Vector (Option Nat) 24
  /-- The slot of a poll entry's run (R314). -/
  pollSlot : Vector (Option Nat) 16
  deriving DecidableEq, Repr

/-! ### Power (13_power_clocks_wake.md) -/

/-- The Tap's view of SEG0 or SEG12 (R337, R338). -/
structure TapView where
  /-- F and A of the last ping with a ring-down. -/
  last : Option (Int × Nat)
  /-- Consecutive pairs at or over the motion thresholds, and below both. -/
  moves : Nat
  stills : Nat
  /-- The next ping gives F_EMPTY. -/
  learn : Bool
  deriving DecidableEq, Repr

/-- A health record that AON holds until CORE is On: code, element, arguments. -/
structure HeldRecord where
  code : Nat
  elem : Nat
  a0 : Nat
  a1 : Nat
  deriving DecidableEq, Repr

/-- Ring-bound items read back at a wake, for the next Reel (R345): the RING section's CRC, T0, the rings of R98,
the ring phases and the checkpoint. -/
structure RingKept where
  crc : Nat
  t0 : Nat
  /-- The time stamp T1 that the wake loaded (R97, R99). -/
  t1 : Nat
  rings : List (List Byte)
  phases : List Nat
  seeds : List (Nat × Nat × Nat × Nat)
  deriving DecidableEq, Repr

structure PowerState where
  dom : Vector DomState 40
  /-- The entry set: domains that go Off and banks that go to Retain (R323). -/
  off : List Nat
  ret : List Nat
  /-- Domains that have accepted, until the entry ends (R326). -/
  accepted : List Nat
  /-- Domains whose answer is still due, and those whose delay runs (R324). -/
  asked : List Nat
  delaying : List Nat
  /-- Delays of each domain added up, in 16 µs (R324). -/
  delays : Vector Nat 40
  /-- Wake sources that fired during the entry (R332). -/
  met : Nat
  /-- Ramp groups of the wake still to come On, the first ramping (R321). -/
  groups : List (List Nat)
  /-- Failed attempts of the domains of the ramping group (R336). -/
  tries : List (Nat × Nat)
  /-- Domains that wait for XREF (R330, R334). -/
  clkWait : List Nat
  /-- An ENTER written during a wake (R332). -/
  enterHeld : Bool
  /-- The set of the last completed entry (R331). -/
  lastSet : Option (List Nat × List Nat)
  /-- The sources of the last wake. -/
  wokenBy : Nat
  /-- The ACLK count at DONE (R328). -/
  done : Option Nat
  /-- The Encore RAM, 4,096 bytes (R339), the pages that the last image uses, and its items that may be restored. -/
  encore : List Host.Cell
  pages : List Nat
  fresh : List Nat
  /-- ENTRY_SEQ. -/
  seq : Nat
  held : List HeldRecord
  /-- CORE came On, and Tempo is still to load the time stamp (R330). -/
  resync : Bool
  kept : Option RingKept
  /-- TEMPO_DAY_NEXT and PERIOD_NEXT through a sleep of CORE (R103). -/
  dayNext : Nat
  periodNext : Option Nat
  /-- The tick at which CCLK moved to the RC. -/
  rcSince : Nat
  /-- CCLK fell back to the RC since it last ran from XREF (R335). -/
  fellBack : Bool
  /-- XREF has been qualified and the PLL is trying to lock. -/
  xref : Bool
  /-- A start of the ACLK crystal is in progress (R333). -/
  xtalTry : Bool
  /-- The ACLK count of the last activity that puts a re-entry off (R331). -/
  busyAt : Nat
  /-- Banks lost in Retain (R336). -/
  lost : List Nat
  taps : Vector TapView 2
  /-- MOTION stood at some time since CORE went Off (R338). -/
  motion : Bool
  /-- VIOH, VIOS below 1.5 V (R394). -/
  vioLow : Vector Bool 2
  /-- The filtered levels of WAKE0 to WAKE7, high or low (R328). -/
  wakePins : Vector Bool 8
  deriving DecidableEq, Repr

/-! ### Health, longevity, Vault, life cycle (14_dependability_longevity.md) -/

/-- A word of a bank whose stored code has `bits` bits in error, one or two (R353, R354). -/
structure EccMark where
  bank : Nat
  word : Nat
  bits : Nat
  deriving DecidableEq, Repr

/-- What LONG_RESULT shows of an element, as of a Day latch (R374). -/
structure LongShown where
  days : Nat
  conf : Nat
  frozen : Bool
  sat : Bool
  deriving DecidableEq, Repr

/-- A longevity element of classes 0 to 4 (R360, R361). Metrics are in units of 2⁻⁶⁰. -/
structure Elem where
  /-- The metric at present. -/
  m : Nat
  /-- Day and metric, newest first, at most 32. -/
  window : List (Nat × Int)
  days : Nat
  conf : Nat
  /-- The slope in 2⁻²² a day, as item 6 keeps it. -/
  slope : Nat
  frozen : Bool
  /-- LONG_WARN stands raised for the present crossing (R363). -/
  warned : Bool
  /-- METRIC, SLOPE and CONF restored from item 6, until 8 new samples exist (R365). -/
  restored : Option (Nat × Nat × Nat)
  /-- The Encore copy of its slope saturated. -/
  sat : Bool
  /-- The snapshot of the last Day latch, and the one before it for reads in the boundary cycle (R373, R374). -/
  shown : LongShown
  before : LongShown
  deriving DecidableEq, Repr

/-- A record of the list of the last eight (R359). -/
structure LastRec where
  code : Nat
  elem : Nat
  sev : Nat
  day : Nat
  deriving DecidableEq, Repr

/-- What the monitor keeps of a census entry: W0, d0, its prediction at the last latch and whether LONG_WARN stands
raised (R361, R363). -/
structure TagBase where
  idx : Nat
  sa : Nat
  w0 : Nat
  d0 : Nat
  days : Nat
  conf : Nat
  warned : Bool
  deriving DecidableEq, Repr

structure Health where
  ecc : List EccMark
  fix : Vector (List Nat) 24
  bad : Vector (List Nat) 24
  scrubPos : Vector Nat 24
  /-- Drivers 0-23, coils 24-47, banks 48-71, die 72, crystal 73. -/
  elems : Vector Elem 74
  coilBase : Vector (Option Nat) 24
  /-- The day's RLOAD sum and count by segment. -/
  coilDay : Vector (Nat × Nat) 24
  /-- Segments whose next tuning run retakes R_base. -/
  rebase : List Nat
  xtalBase : Option Nat
  /-- A crystal start of this day. -/
  xtalDay : Option Nat
  /-- The day's corrected errors by bank. -/
  bankDay : Vector Nat 24
  tagBase : List TagBase
  /-- Records raised by CODE [7:4]. -/
  groups : Vector Nat 16
  uncorr : Nat
  tampers : Nat
  bookFaults : Nat
  /-- The last eight records, newest first. -/
  last : List LastRec
  /-- The records of R363 are still to be pushed. -/
  longDue : Bool
  /-- The CCLK cycle of the last Day latch, and the tags' predictions before it (R373). -/
  latchCycle : Nat
  tagBefore : List TagBase
  /-- LONG_QUERY has been written since reset. -/
  queried : Bool
  deriving DecidableEq, Repr

/-- A key slot (R366). -/
structure KeySlot where
  active : Option (BitVec 128)
  staged : Option (BitVec 128)
  tenants : Nat
  tam : Bool
  mam : Bool
  uses : Nat
  /-- Its CRC-32C holds. -/
  intact : Bool
  deriving DecidableEq, Repr

structure Vault where
  slots : List (Nat × KeySlot)
  /-- The four words last written to VAULT_KEY_DATA. -/
  data : Vector Word 4
  deriving DecidableEq, Repr

/-- Fuses as they stand, and as loaded at the last power-on reset (R7, R371, R406). -/
structure Fuses where
  /-- Rows 0-7 the key hash, row 8 SIG_REQUIRED and BOOT_FLASH, as programmed. -/
  rows : Vector Word 9
  keyHash : BitVec 256
  sigRequired : Bool
  bootFlash : Bool
  /-- The two bits of MAKE, FIELD and RETURN. -/
  make : Fin 4
  field : Fin 4
  ret : Fin 4
  /-- Order code E: true (R2). -/
  orderE : Bool
  deriving DecidableEq, Repr

/-- The life cycle's arming (R372). -/
structure LifeCycle where
  /-- Target of the arming write, its tick and its ACLK count. -/
  armed : Option (Nat × Nat × Nat)
  /-- The state whose bits are being programmed. -/
  programming : Option Nat
  deriving DecidableEq, Repr

/-! ### TAP and test (16_balls_electrical_test.md) -/

/-- The TAP's instructions (R401). -/
inductive TapInstr where
  | extest | sample | preload | idcode | clamp | highz | segloop | testacc | bypass
  deriving DecidableEq, Repr

/-- What a loopback run has measured, until its DONE shows it (R404). -/
structure LoopGot where
  pass : Bool
  opened : Bool
  shorted : Bool
  mag : Nat
  phase : Int
  deriving DecidableEq, Repr

/-- A loopback run in progress (R404). -/
structure LoopRun where
  seg : Nat
  ext : Bool
  amp : Nat
  tokens : Nat
  got : Option LoopGot
  deriving DecidableEq, Repr

structure TapState where
  ir : TapInstr
  /-- Functional operation is stopped (R403). -/
  stopped : Bool
  /-- The boundary register's update stage (R402). -/
  boundary : BitVec 162
  /-- What the boundary register last captured. -/
  captured : BitVec 162
  /-- The IDCODE, bypass or SEGLOOP register as Capture-DR last loaded it (R401, R404). -/
  dr : BitVec 48
  /-- The TESTACC register (R401). -/
  acc : BitVec 50
  loop : Option LoopRun
  fuseData : Word
  fuseRow : Nat
  /-- The row being programmed, and the bits asked for. -/
  fusing : Option (Nat × Word)
  deriving DecidableEq, Repr

/-- The block. -/
structure Dev where
  /-- Every register field whose value differs from its reset value: key 32 × address + low bit, rising (R383, R389). -/
  regs : List (Nat × Nat)
  /-- The SRAM word space as bytes, 4 × word + i; a byte not listed is 0 (R376, R320). -/
  sram : List Host.Cell
  /-- The model's own counter for free values. -/
  freeCtr : Nat
  clock : Clock
  reel : ReelState
  fld : FieldState
  tempo : TempoState
  air : AirState
  rx : RxState
  cen : CensusState
  fig : FigState
  hub : HubState
  que : QueState
  host : HostState
  sbus : SbusState
  pwr : PowerState
  health : Health
  vault : Vault
  fuses : Fuses
  lc : LifeCycle
  tap : TapState
  deriving DecidableEq, Repr

/-- The state: the commands that wait, first in first out, and the block. -/
structure State where
  pending : List Instr
  dev : Dev
  deriving DecidableEq, Repr


/-! ### Idle parts, and the block after power-on reset -/

/-- A driver that nothing uses. -/
def idleSeg : SegState :=
  { owner := none, want := 0, level := 0, clamped := false, ramp := none, partner := none, heldStart := none, ext := 0,
    phase := none, phaseNow := 0, reinstate := false, tag := none, driveCycles := 0, steady := 0 }

/-- A track at the creation of its ring. -/
def newTrack (on : Bool) : Track :=
  { st := if on then .wait else .off, angle := 0, speed := 0, marks := [], room := none, heldSince := none, stalled := false,
    missed := 0, agreed := 0 }

def newTooth : Tooth := { pos := none, lastTick := none, lastInt := 0, expect := 0, accepted := 0 }

/-- A ring that the Reel creates, with the estimators that it has. -/
def newRing (now : Nat) (kp tr de : Bool) : RingState :=
  { phase := 0, inc := 0, slew := 0, wrapped := false, created := now, lastAdv := now,
    tracks := Vector.ofFn fun i => newTrack (if i.val = 0 then kp else if i.val = 1 then tr else de),
    voted := none, three := false, tooth := newTooth, sig := [], sigRevs := 0, sigOpen := false, votedMark := none, reversed := false,
    boundaryAt := none, invalidDue := false, prevFrac := 0, lastFire := none, skipBack := false,
    reseatFrom := none, disturbed := none, pieces := [] }

/-- A signal chain before any symbol. -/
def newChain : Chain :=
  { branches := [], exp := 0, was := [], low := 0, syms := 0, offSum := 0, gamNum := 0, gamDen := 1, gamN := 0, soft := [] }

def idleLane : LaneState :=
  { win := none, next := [], chans := [], noise := [], chain := newChain, cands := Vector.ofFn fun _ => none, pkt := none, displaced := false,
    crossings := [], words := [], bufFull := false, record := none, failing := false, resettle := false, shares := [] }

def idleCore : CoreState := { queue := [], acc := 0 }

def idleCaller : CallerState :=
  { st := .idle, fire := none, regs := Vector.ofFn fun _ => 0, pc := 0, cur := none, flags := 0, queue := [], cut := [], falls := [] }

def idleEngine : EngineState := { inbox := [], out := [], busy := 0, stall := 0 }

def emptyQueue : Queue := { words := [], head := 0, seated := false, mark := none, last := none }

/-- A context with `n` credits and no session. -/
def newCtx (n : Nat) : HostCtx :=
  { session := none, buf := [], wait := [], out := [], free := n, debt := 0, cmd := [], head := none, drain := 0, ending := false }

def idleSpi : SpiState :=
  { selected := false, ctx := none, lane := .none, status := 0, miso := [], under := false, part := false, first := 0 }

def idleH2 : H2State :=
  { tenant := none, read := false, ack := false, ptr := 0, ptrBytes := 0, page := none, refused := false, bytes := [], data := 0,
    burst := 0, pulse := 0 }

def newTap : TapView := { last := none, moves := 0, stills := 0, learn := false }

/-- An element of the longevity monitor at its start. -/
def noPrediction : LongShown := { days := 0xFFFF, conf := 0, frozen := false, sat := false }

def newElem : Elem :=
  { shown := noPrediction, before := noPrediction, m := 0, window := [], days := 0xFFFF, conf := 0, slope := 0, frozen := false, warned := false, restored := none, sat := false }

/-- The ports before a Reel: T0's contexts on H0 and H1 with 4 credits each (R272). -/
def resetHost : HostState :=
  { ctx := Vector.ofFn fun i => newCtx (if i.val = 0 ∨ i.val = 4 then 4 else 0), spi := Vector.ofFn fun _ => idleSpi, h2 := idleH2,
    readBack := Vector.ofFn fun _ => 0, latches := [] }

def resetSbus : SbusState :=
  { wait := Vector.ofFn fun _ => [], run := Vector.ofFn fun _ => none, rise := Vector.ofFn fun _ => none,
    pollSlot := Vector.ofFn fun _ => none }

/-- Every domain On (PWR_STATE_A to PWR_STATE_C), with those of XREF waiting for it (R330). -/
def resetPower : PowerState :=
  { dom := Vector.ofFn fun i => if 13 ≤ i.val ∧ i.val ≤ 15 then .off else .on
    off := [], ret := [], accepted := [], asked := [], delaying := [], delays := Vector.ofFn fun _ => 0, met := 0, groups := [], tries := [],
    clkWait := [5, 6, 7, 8, 4, 3, 2, 12], enterHeld := false, lastSet := none, wokenBy := 0, done := none, encore := [], pages := [], fresh := [], seq := 0,
    held := [], resync := false, kept := none, dayNext := 0, periodNext := none, rcSince := 0, fellBack := false, xref := false, xtalTry := true,
    busyAt := 0, lost := [], taps := Vector.ofFn fun _ => newTap, motion := false, vioLow := Vector.ofFn fun _ => false,
    wakePins := Vector.ofFn fun _ => true }

def resetHealth : Health :=
  { ecc := [], fix := Vector.ofFn fun _ => [], bad := Vector.ofFn fun _ => [], scrubPos := Vector.ofFn fun _ => 0,
    elems := Vector.ofFn fun _ => newElem, coilBase := Vector.ofFn fun _ => none, coilDay := Vector.ofFn fun _ => (0, 0),
    rebase := [], xtalBase := none, xtalDay := none, bankDay := Vector.ofFn fun _ => 0, tagBase := [],
    groups := Vector.ofFn fun _ => 0, uncorr := 0, tampers := 0, bookFaults := 0, last := [], longDue := false,
    latchCycle := 0, tagBefore := [], queried := false }

/-- Fuses of a part as it leaves the wafer, order code E (notes/assumptions/6.md). -/
def blankFuses : Fuses :=
  { rows := Vector.ofFn fun _ => 0, keyHash := 0, sigRequired := false, bootFlash := false, make := 0, field := 0, ret := 0, orderE := true }

def resetTap : TapState :=
  { ir := .idcode, stopped := false, boundary := 0, captured := 0, dr := 0, acc := 0, loop := none, fuseData := 0, fuseRow := 0, fusing := none }

/-- The block right after power-on reset: no register differs from its reset value, and no memory holds anything but 0. -/
def resetDev : Dev :=
  { regs := []
    sram := []
    freeCtr := 0
    clock := { cclk := 0, time := 0, aclk := 0, aclkFrac := 0 }
    reel := { active := none, staged := none, outgoing := none, bytes := [], total := none, armed := none, swapTick := none,
              boot := none, rebuildDue := false, irq := false }
    fld := { segs := Vector.ofFn fun _ => idleSeg, claims := [] }
    tempo := { rings := Vector.ofFn fun _ => newRing 0 false false false, dayHold := none, periodNext := none, periodNew := none }
    air := { tags := [], replies := [], downlinks := [], writes := [], auths := [] }
    rx := { lanes := Vector.ofFn fun _ => idleLane, cores := Vector.ofFn fun _ => idleCore, route := Vector.ofFn fun _ => 0 }
    cen := { job := none, waits := [], serve := false, held := [], scanAdd := [], bseq := [], seeds := [], caps1 := [] }
    fig := { dirty := [], index := [], rebuild := none, due := [], fired := Vector.ofFn fun _ => [], again := [],
             slots := Vector.ofFn fun _ => none, callers := Vector.ofFn fun _ => idleCaller }
    hub := { intake := [], engines := Vector.ofFn fun _ => idleEngine, run := [], slotsOff := [], watchOff := [],
             latchT := Vector.ofFn fun _ => 0, latchA := Vector.ofFn fun _ => 0, old := [], nowOld := [], nowCycle := 0 }
    que := { q := Vector.ofFn fun _ => emptyQueue, free := 65536, orphans := 0, lowDue := false, exhaustDue := false }
    host := resetHost
    sbus := resetSbus
    pwr := resetPower
    health := resetHealth
    vault := { slots := [], data := Vector.ofFn fun _ => 0 }
    fuses := blankFuses
    lc := { armed := none, programming := none }
    tap := resetTap }


/-- The machine right after reset: nothing waits. -/
def State.reset : State := { pending := [], dev := resetDev }

end Sys2Proof.Machine
end

