-- ==== Sys2Proof/Machine/ReelFormat.lean ====
section
/-!
DEFINITION. The Reel's binary format and its checks (02_reel.md R15 to R41, R408, R409).
A check is a list of findings in the order in which the spec makes them; the first that fails gives code and offset.
-/

-- One declaration after another: the package is compiled as one text under a memory limit.
set_option Elab.async false

namespace Sys2Proof.Machine

/-- A refusal: its code (R41), the section type and the byte offset. -/
structure ReelErr where
  code : Nat
  sec : Nat
  off : Nat
  deriving DecidableEq, Repr

/-- A finding: where, the code it raises, and whether it holds. -/
structure Finding where
  off : Nat
  code : Nat
  ok : Bool

def firstBad (sec : Nat) (fs : List Finding) : Except ReelErr Unit :=
  match fs.find? (fun f => !f.ok) with
  | some f => .error ⟨f.code, sec, f.off⟩
  | none => .ok ()

/-! ### Codes of R41 -/
abbrev errMagic : Nat := 0x01
abbrev errFormat : Nat := 0x02
abbrev errHdrCrc : Nat := 0x03
abbrev errLength : Nat := 0x04
abbrev errPart : Nat := 0x05
abbrev errSecOrder : Nat := 0x06
abbrev errSecCrc : Nat := 0x07
abbrev errSecUnknown : Nat := 0x08
abbrev errSecMissing : Nat := 0x09
abbrev errSigMissing : Nat := 0x0A
abbrev errSigKey : Nat := 0x0B
abbrev errSigBad : Nat := 0x0C
abbrev errFlags : Nat := 0x15

/-- The code of a section's own rule: RING_CONFLICT 0x0D to PINS 0x14 (R41). -/
def secCode (ty : Nat) : Nat := ty + 0x0C

/-- A reserved range: each of its bytes is 0 (R408), at the first byte that is not. -/
def reservedAt (bs : List Byte) (base off n : Nat) : List Finding :=
  (List.range n).map fun i => ⟨base + off + i, errFlags, leAt bs (off + i) 1 == 0⟩

/-- The bits of a field of `n` bytes outside `defined` are 0 (R408), at the byte that holds the first that is not. -/
def undefinedAt (bs : List Byte) (base off n defined : Nat) : List Finding :=
  (List.range n).map fun i =>
    ⟨base + off + i, errFlags, leAt bs (off + i) 1 &&& (255 - (defined >>> (8 * i)) % 256) == 0⟩

/-! ### Header (R17, R38) -/

def hdrLen (bs : List Byte) : Nat := leAt bs 5 1
def hdrFormat (bs : List Byte) : Nat := leAt bs 4 1
def hdrSecCount (bs : List Byte) : Nat := leAt bs 6 2
def hdrTotal (bs : List Byte) : Nat := leAt bs 8 4
def hdrSerial (bs : List Byte) : Nat := leAt bs 16 4
def hdrFlags (bs : List Byte) : Nat := leAt bs 20 4
def hdrSigOffset (bs : List Byte) : Nat := leAt bs 24 4
def hdrPartial (bs : List Byte) : Bool := hdrFlags bs % 2 == 1
def hdrSigned (bs : List Byte) : Bool := (hdrFlags bs).testBit 1

/-- The length of a header of the format. -/
def formatHdrLen (f : Nat) : Nat := if f = 1 then 32 else 64

/-- What is checked when 8 bytes have arrived (R38). -/
def headFindings8 (bs : List Byte) : List Finding :=
  [⟨0, errMagic, leAt bs 0 4 == 0x4C524B5A⟩,
   ⟨4, errFormat, hdrFormat bs == 1 || hdrFormat bs == 2⟩,
   ⟨5, errFormat, hdrLen bs == formatHdrLen (hdrFormat bs)⟩]

/-- What is checked when HDR_LEN bytes have arrived, in R38's order. -/
def headFindings (bs : List Byte) : List Finding :=
  let n := hdrLen bs
  let f1 := hdrFormat bs == 1
  let so := hdrSigOffset bs
  let total := hdrTotal bs
  [⟨n - 4, errHdrCrc, leAt bs (n - 4) 4 == crc32c (bs.take (n - 4))⟩,
   ⟨12, errPart, leAt bs 12 4 == 0x244000B1 || leAt bs 12 4 == 0x24400000⟩]
  ++ undefinedAt bs 0 20 4 (if f1 then 0 else 3) ++
  [⟨24, errFlags, if f1 then so == 0 else hdrSigned bs == (so != 0)⟩]
  ++ (if f1 then [] else reservedAt bs 0 28 4 ++ reservedAt bs 0 44 16)
  ++ [⟨6, errSecOrder, 1 ≤ hdrSecCount bs && hdrSecCount bs ≤ 8⟩,
      ⟨8, errLength, total % 4 == 0 && total ≤ 262144 && n + 16 * hdrSecCount bs ≤ total⟩,
      ⟨24, errLength, !hdrSigned bs || so + 136 == total⟩]

def checkHeader (bs : List Byte) : Except ReelErr Unit := do
  firstBad 0 (headFindings8 bs)
  firstBad 0 (headFindings bs)

/-- Where the sections end: at the trailer of a signed Reel, else at TOTAL_LEN. -/
def sectionsEnd (bs : List Byte) : Nat := if hdrSigned bs then hdrSigOffset bs else hdrTotal bs

/-! ### Entries -/

/-- A RING entry. Bits [31:24] of SEG_MASK and ORIGIN, which R20 does not give, are ignored (DESIGN CHOICE, notes/assumptions/14.md). -/
def parseRing (bs : List Byte) : RingDef :=
  { ring := leAt bs 0 1, flags := leAt bs 1 1, kp := leAt bs 2 1, segCount := leAt bs 3 1,
    segMask := leAt bs 4 4 % 2 ^ 24, origin := leAt bs 8 4 % 2 ^ 24, refTag := leAt bs 12 2, maxRpm := leAt bs 14 2 }

/-- R20, R21: one RING entry after the entries `prev`. -/
def ringFindings (fmt base : Nat) (prev : List RingDef) (bs : List Byte) : List Finding :=
  let e := parseRing bs
  let c := secCode 1
  let noKp := e.kp == 0xFF
  let est := e.flags.testBit 2 || e.flags.testBit 3
  [⟨base, c, e.ring < 4⟩,
   ⟨base, c, prev.all fun p => p.ring != e.ring⟩,
   ⟨base + 1, errFlags, if fmt = 1 then e.flags < 16 else e.flags < 32⟩,
   ⟨base + 2, c, e.kp < 8 || noKp⟩,
   ⟨base + 2, c, noKp || prev.all fun p => p.kp != e.kp⟩,
   ⟨base + 2, c, !noKp || est⟩,
   ⟨base + 3, c, 1 ≤ e.segCount && e.segCount ≤ 24⟩,
   ⟨base + 4, c, popCount 24 e.segMask == e.segCount⟩,
   ⟨base + 4, c, prev.all fun p => p.segMask &&& e.segMask == 0⟩,
   ⟨base + 12, c, if noKp then e.refTag < 4096 else e.refTag == 0xFFFF⟩,
   ⟨base + 14, c, 1 ≤ e.maxRpm && e.maxRpm ≤ 30000⟩]
  ++ (if fmt = 1 then [] else reservedAt bs base 16 4)

def parseXbar (bs : List Byte) : XbarDef := { mode := leAt bs 1 1, first := leAt bs 2 1, width := leAt bs 3 1 }

/-- R22 and what R23 finds inside XBAR: entry `i` of 20. -/
def xbarFindings (base i : Nat) (prev : List XbarDef) (bs : List Byte) : List Finding :=
  let e := parseXbar bs
  let c := secCode 2
  let n := fun m => ((prev ++ [e]).filter fun x => x.mode == m).length
  [⟨base, c, leAt bs 0 1 == i⟩,
   ⟨base + 1, c, e.mode ≤ 2⟩,
   ⟨base + 1, c, n 1 ≤ 18⟩,
   ⟨base + 1, c, n 2 ≤ 2⟩,
   ⟨base + 1, c, i != 19 || n 2 == 2⟩,
   ⟨base + 2, c, e.mode != 1 || e.first < 24⟩,
   ⟨base + 3, c, e.mode != 1 || (1 ≤ e.width && e.width ≤ 3)⟩]

/-- A DEC entry. Bits [31:20] of LANES, which R24 does not give, are ignored (DESIGN CHOICE, notes/assumptions/14.md). -/
def parseDec (bs : List Byte) : DecDef :=
  { role := leAt bs 1 1, share := leAt bs 2 1, lanes := leAt bs 4 4 % 2 ^ 20 }

/-- R24 and what R25 finds inside DEC: entry `i` of four. -/
def decFindings (base i : Nat) (prev : List DecDef) (bs : List Byte) : List Finding :=
  let e := parseDec bs
  let c := secCode 3
  let checkers := ((prev ++ [e]).filter fun x => x.role == 1).length
  [⟨base, c, leAt bs 0 1 == i⟩,
   ⟨base + 1, c, e.role ≤ 1⟩,
   ⟨base + 1, c, checkers ≤ 1⟩,
   ⟨base + 1, c, i != 3 || checkers == 1⟩,
   ⟨base + 2, c, if e.role = 1 then 1 ≤ e.share else e.share == 0⟩]
  ++ reservedAt bs base 3 1 ++
  [⟨base + 4, c, e.role != 1 || e.lanes == 0⟩]

def parseQ (bs : List Byte) : QDef :=
  let o := leAt bs 1 1
  if o = 0xFF then { owner := o, source := 0, flags := 0, threshold := 0, limit := 0 }
  else { owner := o, source := leAt bs 2 1, flags := leAt bs 3 1, threshold := leAt bs 4 2, limit := leAt bs 6 2 }

/-- R27: entry `i` of 64. An unused queue's other fields are not checked. -/
def qFindings (base i : Nat) (bs : List Byte) : List Finding :=
  let e := parseQ bs
  let c := secCode 5
  let unused := e.owner == 0xFF
  [⟨base, c, leAt bs 0 1 == i⟩,
   ⟨base + 1, c, e.owner < 4 || unused⟩,
   ⟨base + 2, c, unused || e.source ≤ 4⟩,
   ⟨base + 3, errFlags, leAt bs 3 1 < 4⟩,
   ⟨base + 4, c, unused || 1 ≤ e.threshold⟩,
   ⟨base + 6, c, e.limit != 1⟩]

/-- A TENANT entry. Bits [31:19] of CH_FIRST, which R28 does not give, are ignored (DESIGN CHOICE, notes/assumptions/14.md). -/
def parseTenant (fmt : Nat) (bs : List Byte) : TenantDef :=
  { tenant := leAt bs 0 1, port := leAt bs 1 1, addr := leAt bs 2 1, hint := leAt bs 3 1,
    chFirst := leAt bs 4 4 % 2 ^ 19, chCount := leAt bs 8 4, figFirst := leAt bs 12 2, figCount := leAt bs 14 2,
    credits := leAt bs 16 2, flags := leAt bs 18 2, dumarMax := if fmt = 1 then 0x11 else leAt bs 24 1 }

/-- Two ranges share a number. -/
def rangesMeet (a n b m : Nat) : Bool := n != 0 && m != 0 && a < b + m && b < a + n

/-- R28, R29: one TENANT entry after the entries `prev`; `last` says that it ends the section. -/
def tenantFindings (fmt base : Nat) (last : Bool) (prev : List TenantDef) (bs : List Byte) : List Finding :=
  let e := parseTenant fmt bs
  let c := secCode 6
  let onPort := fun p => (prev.filter fun x => x.port == p).length
  let h2 := e.port == 2
  [⟨base, c, e.tenant < 4⟩,
   ⟨base, c, prev.all fun p => p.tenant != e.tenant⟩,
   ⟨base, c, !last || (prev ++ [e]).any fun p => p.tenant == 0⟩,
   ⟨base + 1, c, e.port ≤ 2⟩,
   ⟨base + 1, c, if h2 then onPort 2 < 2 else onPort e.port == 0⟩,
   ⟨base + 2, c, if h2 then 0x08 ≤ e.addr && e.addr ≤ 0x77 else e.addr == 0⟩,
   ⟨base + 2, c, !h2 || prev.all fun p => p.port != 2 || p.addr != e.addr⟩,
   ⟨base + 3, c, e.hint < 4⟩,
   ⟨base + 3, c, prev.all fun p => p.hint != e.hint⟩,
   ⟨base + 8, c, e.chCount ≤ 262400⟩,
   ⟨base + 8, c, e.chCount == 0 || e.chFirst + e.chCount ≤ 0x40100⟩,
   ⟨base + 8, c, prev.all fun p => !rangesMeet p.chFirst p.chCount e.chFirst e.chCount⟩,
   ⟨base + 14, c, e.figCount ≤ 16384⟩,
   ⟨base + 14, c, e.figCount == 0 || e.figFirst + e.figCount ≤ 16384⟩,
   ⟨base + 14, c, prev.all fun p => !rangesMeet p.figFirst p.figCount e.figFirst e.figCount⟩,
   ⟨base + 16, c, 1 ≤ e.credits && e.credits ≤ 64⟩]
  ++ undefinedAt bs base 18 2 3
  ++ reservedAt bs base 20 4
  ++ (if fmt = 1 then [] else
      ⟨base + 24, c, e.dumarMax == 0x10 || e.dumarMax == 0x11 || e.dumarMax == 0x20⟩ :: reservedAt bs base 25 7)

def parsePower (bs : List Byte) : PowerDef := { dom := leAt bs 0 1, policy := leAt bs 1 1, delayMax := leAt bs 2 1 }

/-- The domain IDs of the POWER entries, in order (R30). -/
def powerDoms : List Nat := (List.range 12).map (· + 1) ++ (List.range 24).map (· + 16)

/-- R30: the entry for domain `dom`. -/
def powerFindings (base dom : Nat) (bs : List Byte) : List Finding :=
  let e := parsePower bs
  let c := secCode 7
  [⟨base, c, e.dom == dom⟩,
   ⟨base + 1, c, e.policy ≤ 3⟩,
   ⟨base + 1, c, e.policy != 2 || 16 ≤ dom⟩,
   ⟨base + 1, c, e.policy != 3 || dom < 16 || dom == 36 || dom == 37⟩,
   ⟨base + 2, c, e.delayMax ≤ 250⟩]
  ++ reservedAt bs base 3 1

def parsePin (bs : List Byte) : PinDef := { group := leAt bs 0 1, function := leAt bs 1 1, options := leAt bs 2 2 }

def pinGroupOk (g : Nat) : Bool := g < 0x10 || (0x20 ≤ g && g ≤ 0x23) || g == 0x30 || g == 0x31 || (0x40 ≤ g && g ≤ 0x47)

/-- The defined OPTIONS bits of a group (R31). -/
def pinOptionBits (g : Nat) : Nat :=
  if g < 0x10 then 2 else if g = 0x20 ∨ g = 0x21 then 4 else if g = 0x22 ∨ g = 0x23 then 16 else 0

/-- R31: one PINS entry after `prev`, the last of the section or not. With boot from flash fused on, S3 is enabled: it may
neither be set disabled nor be left at its default. -/
def pinFindings (boot last : Bool) (base : Nat) (prev : List PinDef) (bs : List Byte) : List Finding :=
  let e := parsePin bs
  let c := secCode 8
  [⟨base, c, pinGroupOk e.group⟩,
   ⟨base, c, prev.all fun p => p.group != e.group⟩,
   ⟨base, c, !boot || !last || (prev ++ [e]).any fun p => p.group == 0x23⟩,
   ⟨base + 1, c, if e.group < 0x10 then e.function ≤ 2 else e.function ≤ 1⟩,
   ⟨base + 1, c, !boot || e.group != 0x23 || e.function == 1⟩]
  ++ undefinedAt bs base 2 2 (2 ^ pinOptionBits e.group - 1) ++
  [⟨base + 2, c, !(e.group == 0x20 || e.group == 0x21) || e.options % 4 ≤ 2⟩,
   ⟨base + 2, c, !(e.group == 0x22 || e.group == 0x23) || 8 ≤ e.options % 256⟩]

/-! ### HUB (R26, R229, R237, R241) -/

/-- A watched-channel record. Bits [31:19] of its channel ID, which R26 does not give, are ignored (DESIGN CHOICE,
notes/assumptions/14.md). -/
def parseWatch (bs : List Byte) : WatchDef := { chan := leAt bs 0 4 % 2 ^ 19, slot := leAt bs 4 2, flags := leAt bs 6 2 }
def parseSlot (bs : List Byte) : SlotDef :=
  { index := leAt bs 0 2, engine := leAt bs 2 1, kind := leAt bs 3 1, cfg := bs.drop 4 }

/-- The offsets of the PARAMS bytes that R241 gives a kind: ranges of first offset and length. -/
def kindParams (kind : Nat) : List (Nat × Nat) :=
  match kind with
  | 1 => [(16, 5)]
  | 2 => [(16, 8)]
  | 3 => [(16, 3)]
  | 4 => [(16, 2), (20, 4)]
  | 5 => [(16, 1)]
  | 6 => [(16, 8)]
  | 7 => [(16, 2)]
  | _ => []

/-- The values R241 gives a kind's parameters. -/
def kindRanges (base kind : Nat) (cfg : List Byte) : List Finding :=
  let c := secCode 4
  match kind with
  | 1 => [⟨base + 20, c, leAt cfg 20 1 ≤ 1⟩]
  | 3 => [⟨base + 16, c, leAt cfg 16 1 ≤ 2⟩]
  | 4 => [⟨base + 16, c, 1 ≤ leAt cfg 16 2⟩, ⟨base + 20, c, 1 ≤ leAt cfg 20 4⟩]
  | 5 => [⟨base + 16, c, leAt cfg 16 1 ≤ 4⟩]
  | 6 => [⟨base + 19, c, leAt cfg 19 1 ≤ 3⟩]
  | _ => []

/-- A link: its reserved bits, and when it is valid a slot that is present (R26, R237). -/
def linkFindings (base : Nat) (present : List Nat) (link : Nat) : List Finding :=
  [⟨base + 1, errFlags, bitsOf link 12 3 == 0⟩,
   ⟨base, secCode 4, !link.testBit 15 || present.contains (link % 1024)⟩]

/-- A slot's configuration in byte order, its parameters and the reserved bytes among them (R409, R241). -/
def cfgFindings (base kind : Nat) (present : List Nat) (cfg : List Byte) : List Finding :=
  let c := secCode 4
  let given := kindParams kind
  linkFindings base present (leAt cfg 0 2) ++ linkFindings (base + 2) present (leAt cfg 2 2)
  ++ [⟨base + 4, c, leAt cfg 4 1 < 64 || leAt cfg 4 1 == 0xFF⟩,
      ⟨base + 5, c, leAt cfg 5 1 < 6 || leAt cfg 5 1 == 0xFF⟩]
  ++ undefinedAt cfg base 6 2 15
  ++ reservedAt cfg base 12 4
  ++ sortBy (fun a b => decide (a.off < b.off)) (kindRanges base kind cfg
      ++ ((List.range 48).map (· + 16)).flatMap fun o =>
          if given.any (fun p => p.1 ≤ o && o < p.1 + p.2) then [] else reservedAt cfg base o 1)

def watchFindings (base : Nat) (present : List Nat) (bs : List Byte) : List Finding :=
  let e := parseWatch bs
  let c := secCode 4
  [⟨base, c, e.chan ≤ 0x400FF⟩,
   ⟨base + 4, c, present.contains e.slot⟩]
  ++ undefinedAt bs base 6 2 (2 ^ 11 - 1)

def slotFindings (base mask : Nat) (present prev : List Nat) (bs : List Byte) : List Finding :=
  let e := parseSlot bs
  let c := secCode 4
  [⟨base, c, e.index < 1024⟩,
   ⟨base, c, !prev.contains e.index⟩,
   ⟨base + 2, c, e.engine < 4 && mask.testBit e.engine⟩]
  ++ cfgFindings (base + 4) e.kind present e.cfg

/-- The HUB body's parts: preamble, watched records, slot records. -/
def hubParts (body : List Byte) : List (List Byte) × List (List Byte) :=
  let nw := leAt body 2 2
  let ns := leAt body 4 2
  (chunksN 8 nw (body.drop 16), chunksN 68 ns (body.drop (16 + 8 * nw)))

def hubFindings (base : Nat) (body : List Byte) : List Finding :=
  let c := secCode 4
  let (ws, ss) := hubParts body
  let idx := ss.map fun b => leAt b 0 2
  let mask := leAt body 6 1
  [⟨base, c, 1 ≤ leAt body 0 2⟩, ⟨base + 2, c, leAt body 2 2 ≤ 16384⟩, ⟨base + 4, c, leAt body 4 2 ≤ 1024⟩,
   ⟨base + 6, c, mask < 16⟩]
  ++ reservedAt body base 7 9
  ++ (ws.zipIdx.flatMap fun p => watchFindings (base + 16 + 8 * p.2) idx p.1)
  ++ (ss.zipIdx.flatMap fun p => slotFindings (base + 16 + 8 * ws.length + 68 * p.2) mask idx (idx.take p.2) p.1)

def parseHub (body : List Byte) : HubDef :=
  let (ws, ss) := hubParts body
  { periodMs := leAt body 0 2, mask := leAt body 6 1, watch := ws.map parseWatch, slots := ss.map parseSlot }

/-! ### Sections (R18, R409) -/

/-- A section as it stands in the stream: its type, the offset of its body, the body. -/
structure Section where
  ty : Nat
  off : Nat
  body : List Byte

/-- The size of an entry by section type and format. -/
def entrySize (fmt ty : Nat) : Nat :=
  match ty with
  | 1 => if fmt = 1 then 16 else 20
  | 3 => 8
  | 5 => 8
  | 6 => if fmt = 1 then 24 else 32
  | _ => 4

/-- COUNT agrees with BODY_LEN and the fixed numbers of entries (R409, R20 to R31). -/
def countOk (fmt ty count : Nat) (body : List Byte) : Bool :=
  let len := body.length
  let fits := len == count * entrySize fmt ty
  match ty with
  | 1 => fits && 1 ≤ count && count ≤ 4
  | 2 => fits && count == 20
  | 3 => fits && count == 4
  | 4 => 16 ≤ len && count == leAt body 2 2 + leAt body 4 2 && len == 16 + 8 * leAt body 2 2 + 68 * leAt body 4 2
  | 5 => fits && count == 64
  | 6 => fits && 1 ≤ count && count ≤ 4
  | 7 => count == 36 && len == 4 + 36 * 4
  | _ => fits && 1 ≤ count && count ≤ 64

/-- Findings entry by entry, each with the entries before it. -/
def eachEntry (off size : Nat) (es : List (List Byte)) (f : Nat → Nat → List (List Byte) → List Byte → List Finding) : List Finding :=
  es.zipIdx.flatMap fun p => f (off + size * p.2) p.2 (es.take p.2) p.1

/-- The fields of the entries in byte order (R409 5). -/
def bodyFindings (boot : Bool) (fmt : Nat) (s : Section) : List Finding :=
  let sz := entrySize fmt s.ty
  let es := chunks sz s.body
  match s.ty with
  | 1 => eachEntry s.off sz es fun base _ prev bs => ringFindings fmt base (prev.map parseRing) bs
  | 2 => eachEntry s.off sz es fun base i prev bs => xbarFindings base i (prev.map parseXbar) bs
  | 3 => eachEntry s.off sz es fun base i prev bs => decFindings base i (prev.map parseDec) bs
  | 4 => hubFindings s.off s.body
  | 5 => eachEntry s.off sz es fun base i _ bs => qFindings base i bs
  | 6 => eachEntry s.off sz es fun base i prev bs =>
      tenantFindings fmt base (i + 1 == es.length) (prev.map (parseTenant fmt)) bs
  | 7 => ⟨s.off, secCode 7, 16 ≤ leAt s.body 0 2⟩ :: reservedAt s.body s.off 2 2 ++
      eachEntry (s.off + 4) 4 (chunks 4 (s.body.drop 4)) fun base i _ bs => powerFindings base (powerDoms.getD i 0) bs
  | _ => eachEntry s.off sz es fun base i prev bs => pinFindings boot (i + 1 == es.length) base (prev.map parsePin) bs

/-- One section at `off`, after a section of type `last` (R409). -/
def checkSection (boot : Bool) (bs : List Byte) (off last : Nat) : Except ReelErr Section := do
  let stop := sectionsEnd bs
  let ty := leAt bs off 1
  let len := leAt bs (off + 4) 4
  firstBad 0 [⟨off, errLength, off + 16 ≤ stop⟩]
  let body := slice bs (off + 16) len
  firstBad ty
    [⟨off + 4, errLength, len % 4 == 0 && off + 16 + len ≤ stop⟩,
     ⟨off + 12, errSecCrc, leAt bs (off + 12) 4 == crc32c (slice bs off 12 ++ body)⟩,
     ⟨off, errSecUnknown, 1 ≤ ty && ty ≤ 8⟩,
     ⟨off + 1, errSecUnknown, leAt bs (off + 1) 1 == 1⟩,
     ⟨off, errSecOrder, last < ty⟩,
     ⟨off + 8, secCode ty, countOk (hdrFormat bs) ty (leAt bs (off + 8) 4) body⟩]
  firstBad ty (reservedAt bs 0 (off + 2) 2)
  let s : Section := ⟨ty, off + 16, body⟩
  firstBad ty (bodyFindings boot (hdrFormat bs) s)
  pure s

/-- `n` sections from `off`, and that they end where they must (R409). Where no section is at hand, ERR_SEC is 0: too few bytes for
a section's header, and a wrong end of the sections (DESIGN CHOICE, notes/assumptions/14.md). -/
def checkSections (boot : Bool) (bs : List Byte) : Nat → Nat → Nat → Except ReelErr (List Section)
  | 0, off, _ => do
    firstBad 0 [⟨off, errLength, off == sectionsEnd bs⟩]
    pure []
  | n + 1, off, last => do
    let s ← checkSection boot bs off last
    let rest ← checkSections boot bs n (off + 16 + s.body.length) s.ty
    pure (s :: rest)

/-! ### Signature (R33, R34) -/

/-- The fuses a Reel is checked against (R34, R40). -/
structure ReelFuses where
  keyHash : Nat
  sigRequired : Bool
  bootFlash : Bool

/-- The signature stage. REEL_ERR_OFFSET of SIG_MISSING is TOTAL_LEN, where a trailer would end (DESIGN CHOICE,
notes/assumptions/14.md). -/
def checkSignature (f : ReelFuses) (bs : List Byte) : Except ReelErr Unit :=
  if hdrSigned bs then
    let so := hdrSigOffset bs
    let key := slice bs (so + 8) 64
    firstBad 0
      [⟨so, errSigBad, leAt bs so 4 == 0x32474953⟩,
       ⟨so + 4, errSigBad, leAt bs (so + 4) 4 == 1⟩,
       ⟨so + 8, errSigKey, f.keyHash != 0 && sha256 key == f.keyHash⟩,
       ⟨so + 72, errSigBad, p256Verify (beNat (key.take 32)) (beNat (key.drop 32)) (beNat (slice bs (so + 72) 32))
          (beNat (slice bs (so + 104) 32)) (sha256 (bs.take so))⟩]
  else firstBad 0 [⟨hdrTotal bs, errSigMissing, !(f.keyHash != 0 && f.sigRequired)⟩]

/-! ### The merged Reel -/

/-- What no active Reel holds: used only where a Reel carries all eight sections. -/
def emptyReel : Reel :=
  { format := 1, signed := false, serial := 0, ringCrc := 0, ring := [], xbar := [], dec := [],
    hub := { periodMs := 0, mask := 0, watch := [], slots := [] }, qmap := [], tenants := [], tapMs := 0, power := [], pins := [] }

/-- One checked section put over a Reel (R19). -/
def mergeSection (fmt : Nat) (r : Reel) (s : Section) : Reel :=
  let es := chunks (entrySize fmt s.ty) s.body
  match s.ty with
  | 1 => { r with ring := es.map parseRing }
  | 2 => { r with xbar := es.map parseXbar }
  | 3 => { r with dec := es.map parseDec }
  | 4 => { r with hub := parseHub s.body }
  | 5 => { r with qmap := es.map parseQ }
  | 6 => { r with tenants := es.map (parseTenant fmt) }
  | 7 => { r with tapMs := leAt s.body 0 2, power := (chunks 4 (s.body.drop 4)).map parsePower }
  | _ => { r with pins := es.map parsePin }

def mergeReel (bs : List Byte) (ss : List Section) (active : Option Reel) : Reel :=
  let r0 := if hdrPartial bs then active.getD emptyReel else emptyReel
  let r := ss.foldl (mergeSection (hdrFormat bs)) r0
  let crc := match ss.find? fun s => s.ty == 1 with
    | some s => leAt bs (s.off - 4) 4
    | none => r0.ringCrc
  { r with ringCrc := crc, format := hdrFormat bs, signed := hdrSigned bs, serial := hdrSerial bs }

/-- The function of a pin group, its default 0 (R31). -/
def Reel.pinFunction (r : Reel) (g : Nat) : Nat := ((r.pins.find? fun p => p.group == g).map (·.function)).getD 0
def Reel.pinOptions (r : Reel) (g : Nat) : Nat := ((r.pins.find? fun p => p.group == g).map (·.options)).getD 0

/-- The ring that a segment belongs to. -/
def Reel.ringOfSeg (r : Reel) (n : Nat) : Option RingDef := r.ring.find? fun x => x.segMask.testBit n

/-- Whether the Reel uses a domain (R30). -/
def Reel.usesDom (r : Reel) (d : Nat) : Bool :=
  if d = 1 ∨ d = 2 ∨ d = 10 then true
  else if 5 ≤ d ∧ d ≤ 8 then r.ring.any fun x => (x.segMask >>> (6 * (d - 5))) % 64 != 0
  else if d = 3 ∨ d = 4 then r.xbar.any fun x => x.mode != 0
  else if d = 9 then !r.hub.watch.isEmpty || !r.hub.slots.isEmpty
  else if d = 11 then
    r.ring.any (fun x => x.kp < 8)
      || r.pins.any fun p => (0x20 ≤ p.group && p.group ≤ 0x23 && p.function == 1) || (0x40 ≤ p.group && p.function == 1)
          || (p.group < 0x10 && p.function != 0)
  else false

/-- Conditions between sections (R39 5): findings by section type and entry, in section order. -/
def mergedFindings (r : Reel) : List (Nat × Nat × Bool) :=
  let tenantOf := fun t => r.tenants.find? fun x => x.tenant == t
  (r.xbar.zipIdx.flatMap fun p =>
    let g := r.ringOfSeg p.1.first
    [(2, p.2, p.1.mode != 1 || g.isSome),
     (2, p.2, p.1.mode != 1 || (g.map fun x => decide (p.1.width ≤ x.segCount)).getD true)])
  ++ ((List.range 20).map fun l =>
    let m := ((r.xbar[l]?).map (·.mode)).getD 0
    (3, 3, m == 0 || (r.dec.filter fun d => d.role == 0 && d.lanes.testBit l).length == 1))
  ++ (r.qmap.zipIdx.flatMap fun p =>
    let t := tenantOf p.1.owner
    let used := p.1.owner != 0xFF
    [(5, p.2, !used || t.isSome),
     (5, p.2, !(used && p.1.flags.testBit 0) || (t.map fun x => x.port != 2).getD true),
     (5, p.2, !(used && p.1.source == 3) || (t.map fun x => x.flags.testBit 0).getD true)])
  ++ (r.power.zipIdx.map fun p => (7, p.2, p.1.policy != 3 || !r.usesDom p.1.dom))
  ++ (r.pins.zipIdx.map fun p =>
      (8, p.2, !(0x40 ≤ p.1.group && p.1.function == 1) || r.ring.all fun x => x.kp + 0x40 != p.1.group))

/-- REEL_ERR_OFFSET of a refusal of the consistency stage: the first byte of an entry that the stream carries, else the end of the
sections (DESIGN CHOICE, notes/assumptions/14.md). -/
def entryOffset (bs : List Byte) (ss : List Section) (ty i : Nat) : Nat :=
  match ss.find? fun s => s.ty == ty with
  | some s => s.off + (if ty = 7 then 4 else 0) + entrySize (hdrFormat bs) ty * i
  | none => sectionsEnd bs

def checkMerged (bs : List Byte) (ss : List Section) (r : Reel) : Except ReelErr Unit :=
  match (mergedFindings r).find? fun x => !x.2.2 with
  | some (ty, i, _) => .error ⟨secCode ty, ty, entryOffset bs ss ty i⟩
  | none => .ok ()

/-- All checks of R39, in order: the merged Reel, or the first failure. A PARTIAL Reel refused with SEC_MISSING since no Reel is active
names no section: ERR_SEC is 0 (DESIGN CHOICE, notes/assumptions/14.md). -/
def checkReel (f : ReelFuses) (active : Option Reel) (bs : List Byte) : Except ReelErr Reel := do
  checkHeader bs
  let ss ← checkSections f.bootFlash bs (hdrSecCount bs) (hdrLen bs) 0
  if hdrPartial bs then firstBad 0 [⟨sectionsEnd bs, errSecMissing, active.isSome⟩]
  else
    match ((List.range 8).map (· + 1)).find? fun ty => ss.all fun s => s.ty != ty with
    | some ty => .error ⟨errSecMissing, ty, sectionsEnd bs⟩
    | none => pure ()
  checkSignature f bs
  let r := mergeReel bs ss active
  checkMerged bs ss r
  pure r

end Sys2Proof.Machine
end

