-- ==== Sys2Proof/Machine/Registers.lean ====
section
/-!
DEFINITION. The register fields, from the register tables of the spec's chapters (R48, R80, R104, R177, R201, R228, R253,
R271, R300, R317, R346, R347, R348, R374, R375, R391, R404, R406): place, width, type and reset value of each.
A field whose Reset column says Reel or Fuse stands at 0 here until a Reel or the fuses set it (notes/assumptions/2.md).
The temperature thresholds stand at order code E's (notes/assumptions/6.md).
A Row is base, stride, copies, low bit, width, reset, reset step between copies, type.
-/

-- One declaration after another: the package is compiled as one text under a memory limit.
set_option Elab.async false

namespace Sys2Proof.Machine

/-! REEL_CTRL (02_reel.md R48) -/
def REEL_CTRL_START : Row := ⟨0x800, 1, 1, 0, 1, 0, 0, .wo⟩
def REEL_CTRL_ARM : Row := ⟨0x800, 1, 1, 1, 1, 0, 0, .wo⟩
def REEL_CTRL_DISARM : Row := ⟨0x800, 1, 1, 2, 1, 0, 0, .wo⟩
def REEL_CTRL_ANY : Row := ⟨0x800, 1, 1, 3, 1, 0, 0, .wo⟩
def REEL_CTRL_RING : Row := ⟨0x800, 1, 1, 4, 2, 0, 0, .wo⟩
/-! REEL_STATUS (02_reel.md R48) -/
def REEL_STATUS_STATE : Row := ⟨0x801, 1, 1, 0, 3, 0, 0, .ro⟩
def REEL_STATUS_ACTIVE : Row := ⟨0x801, 1, 1, 3, 1, 0, 0, .ro⟩
def REEL_STATUS_SIGNED : Row := ⟨0x801, 1, 1, 4, 1, 0, 0, .ro⟩
def REEL_STATUS_BOOT_SRC : Row := ⟨0x801, 1, 1, 5, 1, 0, 0, .ro⟩
def REEL_STATUS_WAIT_ANGLE : Row := ⟨0x801, 1, 1, 6, 1, 0, 0, .ro⟩
def REEL_STATUS_FORMAT : Row := ⟨0x801, 1, 1, 7, 1, 0, 0, .ro⟩
def REEL_STATUS_ERR : Row := ⟨0x801, 1, 1, 8, 8, 0, 0, .ro⟩
def REEL_STATUS_ERR_SEC : Row := ⟨0x801, 1, 1, 16, 8, 0, 0, .ro⟩
def REEL_STATUS_SWAP_DONE : Row := ⟨0x801, 1, 1, 24, 1, 0, 0, .w1c⟩
def REEL_STATUS_CARRY_ABORT : Row := ⟨0x801, 1, 1, 25, 1, 0, 0, .w1c⟩
def REEL_STATUS_SEQ_ERR : Row := ⟨0x801, 1, 1, 26, 1, 0, 0, .w1c⟩
/-! REEL_COUNT (02_reel.md R48) -/
def REEL_COUNT_BYTES : Row := ⟨0x802, 1, 1, 0, 19, 0, 0, .ro⟩
/-! REEL_ERR_OFFSET (02_reel.md R48) -/
def REEL_ERR_OFFSET_OFFSET : Row := ⟨0x803, 1, 1, 0, 19, 0, 0, .ro⟩
/-! REEL_ACTIVE_SERIAL (02_reel.md R48) -/
def REEL_ACTIVE_SERIAL_SERIAL : Row := ⟨0x804, 1, 1, 0, 32, 0, 0, .ro⟩
/-! REEL_STAGED_SERIAL (02_reel.md R48) -/
def REEL_STAGED_SERIAL_SERIAL : Row := ⟨0x805, 1, 1, 0, 32, 0, 0, .ro⟩
/-! REEL_SWAP_LO (02_reel.md R48) -/
def REEL_SWAP_LO_STAMP : Row := ⟨0x806, 1, 1, 0, 32, 0, 0, .rs⟩
/-! REEL_SWAP_HI (02_reel.md R48) -/
def REEL_SWAP_HI_STAMP : Row := ⟨0x807, 1, 1, 0, 32, 0, 0, .rs⟩
/-! REEL_CARRY (02_reel.md R48) -/
def REEL_CARRY_LIMIT : Row := ⟨0x808, 1, 1, 0, 16, 0x2000, 0, .rw⟩
/-! REEL_CARRIED (02_reel.md R48) -/
def REEL_CARRIED_CARRIED : Row := ⟨0x809, 1, 1, 0, 9, 0, 0, .rs⟩
def REEL_CARRIED_ABORTED : Row := ⟨0x809, 1, 1, 16, 9, 0, 0, .rs⟩
/-! REEL_REFUSALS (02_reel.md R48) -/
def REEL_REFUSALS_COUNT : Row := ⟨0x80a, 1, 1, 0, 16, 0, 0, .rc⟩
/-! REEL_BOOT (02_reel.md R48) -/
def REEL_BOOT_FLASH_EN : Row := ⟨0x80b, 1, 1, 0, 1, 0, 0, .ro⟩
def REEL_BOOT_ALT_TRIED : Row := ⟨0x80b, 1, 1, 1, 1, 0, 0, .ro⟩
def REEL_BOOT_ALT_USED : Row := ⟨0x80b, 1, 1, 2, 1, 0, 0, .ro⟩
/-! REEL_CAPS (02_reel.md R48) -/
def REEL_CAPS_FORMATS : Row := ⟨0x80c, 1, 1, 0, 2, 3, 0, .ro⟩
def REEL_CAPS_KEY_FUSED : Row := ⟨0x80c, 1, 1, 2, 1, 0, 0, .ro⟩
def REEL_CAPS_SIG_REQUIRED : Row := ⟨0x80c, 1, 1, 3, 1, 0, 0, .ro⟩
/-! REEL_DATA (02_reel.md R48) -/
def REEL_DATA_WORD : Row := ⟨0x810, 1, 16, 0, 32, 0, 0, .wo⟩

def rowsREEL : List Row :=
  [REEL_CTRL_START, REEL_CTRL_ARM, REEL_CTRL_DISARM, REEL_CTRL_ANY, REEL_CTRL_RING, REEL_STATUS_STATE,
   REEL_STATUS_ACTIVE, REEL_STATUS_SIGNED, REEL_STATUS_BOOT_SRC, REEL_STATUS_WAIT_ANGLE, REEL_STATUS_FORMAT,
   REEL_STATUS_ERR, REEL_STATUS_ERR_SEC, REEL_STATUS_SWAP_DONE, REEL_STATUS_CARRY_ABORT, REEL_STATUS_SEQ_ERR,
   REEL_COUNT_BYTES, REEL_ERR_OFFSET_OFFSET, REEL_ACTIVE_SERIAL_SERIAL, REEL_STAGED_SERIAL_SERIAL,
   REEL_SWAP_LO_STAMP, REEL_SWAP_HI_STAMP, REEL_CARRY_LIMIT, REEL_CARRIED_CARRIED, REEL_CARRIED_ABORTED,
   REEL_REFUSALS_COUNT, REEL_BOOT_FLASH_EN, REEL_BOOT_ALT_TRIED, REEL_BOOT_ALT_USED, REEL_CAPS_FORMATS,
   REEL_CAPS_KEY_FUSED, REEL_CAPS_SIG_REQUIRED, REEL_DATA_WORD]

/-! SEGn_CTRL (03_field_segments.md R80) -/
def SEG_CTRL_RAMP : Row := ⟨0xa00, 32, 24, 0, 7, 0x20, 0, .rw⟩
def SEG_CTRL_ASK_DEPTH : Row := ⟨0xa00, 32, 24, 7, 7, 0xa, 0, .rw⟩
def SEG_CTRL_ASK_EDGE : Row := ⟨0xa00, 32, 24, 14, 2, 0, 0, .rw⟩
def SEG_CTRL_TUNE : Row := ⟨0xa00, 32, 24, 16, 1, 0, 0, .wo⟩
def SEG_CTRL_REINSTATE : Row := ⟨0xa00, 32, 24, 17, 1, 0, 0, .wo⟩
/-! SEGn_AMP (03_field_segments.md R80) -/
def SEG_AMP_TARGET : Row := ⟨0xa01, 32, 24, 0, 8, 0, 0, .ro⟩
def SEG_AMP_LEVEL : Row := ⟨0xa01, 32, 24, 8, 8, 0, 0, .ro⟩
/-! SEGn_PHASE (03_field_segments.md R80) -/
def SEG_PHASE_PHASE : Row := ⟨0xa02, 32, 24, 0, 6, 0, 0, .ro⟩
def SEG_PHASE_CAL : Row := ⟨0xa02, 32, 24, 8, 6, 0, 0, .rw⟩
/-! SEGn_STATUS (03_field_segments.md R80) -/
def SEG_STATUS_STATE : Row := ⟨0xa03, 32, 24, 0, 4, 0, 0, .ro⟩
def SEG_STATUS_HELD : Row := ⟨0xa03, 32, 24, 4, 7, 0, 0, .ro⟩
def SEG_STATUS_OWNER : Row := ⟨0xa03, 32, 24, 12, 8, 0, 0, .ro⟩
def SEG_STATUS_RETIRED : Row := ⟨0xa03, 32, 24, 20, 1, 0, 0, .ro⟩
def SEG_STATUS_FILLING : Row := ⟨0xa03, 32, 24, 21, 1, 0, 0, .ro⟩
def SEG_STATUS_WARN : Row := ⟨0xa03, 32, 24, 22, 1, 0, 0, .ro⟩
/-! SEGn_FAULT (03_field_segments.md R80) -/
def SEG_FAULT_OPEN : Row := ⟨0xa04, 32, 24, 0, 1, 0, 0, .w1c⟩
def SEG_FAULT_SHORT : Row := ⟨0xa04, 32, 24, 1, 1, 0, 0, .w1c⟩
def SEG_FAULT_THERM : Row := ⟨0xa04, 32, 24, 2, 1, 0, 0, .w1c⟩
def SEG_FAULT_CLAMP : Row := ⟨0xa04, 32, 24, 3, 1, 0, 0, .w1c⟩
def SEG_FAULT_GLIDE_ABORT : Row := ⟨0xa04, 32, 24, 4, 1, 0, 0, .w1c⟩
def SEG_FAULT_LATE : Row := ⟨0xa04, 32, 24, 5, 1, 0, 0, .w1c⟩
def SEG_FAULT_FILL_SHORT : Row := ⟨0xa04, 32, 24, 6, 1, 0, 0, .w1c⟩
/-! SEGn_CAL (03_field_segments.md R80) -/
def SEG_CAL_FSP : Row := ⟨0xa05, 32, 24, 0, 12, 0, 0, .rw⟩
def SEG_CAL_AMAX : Row := ⟨0xa05, 32, 24, 12, 8, 0, 0, .ro⟩
/-! SEGn_MEAS (03_field_segments.md R80) -/
def SEG_MEAS_IMAG : Row := ⟨0xa06, 32, 24, 0, 12, 0, 0, .rs⟩
def SEG_MEAS_IPH : Row := ⟨0xa06, 32, 24, 12, 12, 0, 0, .rs⟩
/-! SEGn_LOAD (03_field_segments.md R80) -/
def SEG_LOAD_RLOAD : Row := ⟨0xa07, 32, 24, 0, 12, 0, 0, .ro⟩
def SEG_LOAD_VDRV_CAL : Row := ⟨0xa07, 32, 24, 16, 13, 0, 0, .rw⟩
/-! SEGn_TUNE (03_field_segments.md R80) -/
def SEG_TUNE_TUNE_AMP : Row := ⟨0xa08, 32, 24, 0, 8, 0x20, 0, .rw⟩
def SEG_TUNE_DONE : Row := ⟨0xa08, 32, 24, 8, 1, 0, 0, .ro⟩
def SEG_TUNE_FAIL : Row := ⟨0xa08, 32, 24, 9, 1, 0, 0, .ro⟩
/-! SEGn_TEMP (03_field_segments.md R80) -/
def SEG_TEMP_TEMP : Row := ⟨0xa09, 32, 24, 0, 9, 0, 0, .ro⟩
def SEG_TEMP_WARN : Row := ⟨0xa09, 32, 24, 16, 8, 0x82, 0, .rw⟩
def SEG_TEMP_FAULT : Row := ⟨0xa09, 32, 24, 24, 8, 0x91, 0, .rw⟩
/-! SEGn_WIN_START (03_field_segments.md R80) -/
def SEG_WIN_START_FRACTION : Row := ⟨0xa0a, 32, 24, 0, 24, 0, 0, .ro⟩
/-! SEGn_WIN_END (03_field_segments.md R80) -/
def SEG_WIN_END_FRACTION : Row := ⟨0xa0b, 32, 24, 0, 24, 0, 0, .ro⟩
/-! SEGn_FILL (03_field_segments.md R80) -/
def SEG_FILL_GAIN1 : Row := ⟨0xa0c, 32, 24, 0, 6, 0x18, 0, .rw⟩
def SEG_FILL_GAIN2 : Row := ⟨0xa0c, 32, 24, 8, 6, 0x20, 0, .rw⟩
def SEG_FILL_FILL_PRED : Row := ⟨0xa0c, 32, 24, 16, 1, 0, 0, .ro⟩
def SEG_FILL_FILL_SUCC : Row := ⟨0xa0c, 32, 24, 17, 1, 0, 0, .ro⟩
/-! SEGn_OPEN (03_field_segments.md R80) -/
def SEG_OPEN_OPEN_PCT : Row := ⟨0xa0d, 32, 24, 0, 7, 0x19, 0, .rw⟩
/-! FLD_BUDGET (03_field_segments.md R80) -/
def FLD_BUDGET_FREE : Row := ⟨0xa18, 1, 1, 0, 10, 0x258, 0, .ro⟩
def FLD_BUDGET_CLAIMED : Row := ⟨0xa18, 1, 1, 16, 10, 0, 0, .ro⟩
/-! FLD_PEND (03_field_segments.md R80) -/
def FLD_PEND_WAITING : Row := ⟨0xa19, 1, 1, 0, 9, 0, 0, .ro⟩
def FLD_PEND_HEAD_TOKENS : Row := ⟨0xa19, 1, 1, 16, 7, 0, 0, .ro⟩
/-! FLD_PEAK (03_field_segments.md R80) -/
def FLD_PEAK_PEAK : Row := ⟨0xa1a, 1, 1, 0, 10, 0, 0, .rc⟩
/-! FLD_RETIRED (03_field_segments.md R80) -/
def FLD_RETIRED_SEG : Row := ⟨0xa1b, 1, 1, 0, 24, 0, 0, .ro⟩
/-! FLD_VDRV (03_field_segments.md R80) -/
def FLD_VDRV_VDRV : Row := ⟨0xa1c, 1, 1, 0, 13, 0, 0, .ro⟩
def FLD_VDRV_LOW : Row := ⟨0xa1c, 1, 1, 16, 1, 0, 0, .ro⟩
/-! FLD_RING_PHASE (03_field_segments.md R80) -/
def FLD_RING_PHASE_RING_A : Row := ⟨0xa1d, 1, 1, 0, 6, 0, 0, .rw⟩
def FLD_RING_PHASE_RING_B : Row := ⟨0xa1d, 1, 1, 8, 6, 0, 0, .rw⟩
def FLD_RING_PHASE_RING_C : Row := ⟨0xa1d, 1, 1, 16, 6, 0, 0, .rw⟩
def FLD_RING_PHASE_RING_D : Row := ⟨0xa1d, 1, 1, 24, 6, 0, 0, .rw⟩
/-! FLD_EVENTS (03_field_segments.md R80) -/
def FLD_EVENTS_RETIRE : Row := ⟨0xa1e, 1, 1, 0, 1, 0, 0, .w1c⟩
def FLD_EVENTS_RING_GAP : Row := ⟨0xa1e, 1, 1, 1, 1, 0, 0, .w1c⟩
def FLD_EVENTS_VDRV_LOW : Row := ⟨0xa1e, 1, 1, 2, 1, 0, 0, .w1c⟩
def FLD_EVENTS_CLAIM_REFUSED : Row := ⟨0xa1e, 1, 1, 3, 1, 0, 0, .w1c⟩
def FLD_EVENTS_REINSTATED : Row := ⟨0xa1e, 1, 1, 4, 1, 0, 0, .w1c⟩
/-! FLD_LATE (03_field_segments.md R80) -/
def FLD_LATE_COUNT : Row := ⟨0xa1f, 1, 1, 0, 16, 0, 0, .rc⟩

def rowsFLD : List Row :=
  [SEG_CTRL_RAMP, SEG_CTRL_ASK_DEPTH, SEG_CTRL_ASK_EDGE, SEG_CTRL_TUNE, SEG_CTRL_REINSTATE, SEG_AMP_TARGET,
   SEG_AMP_LEVEL, SEG_PHASE_PHASE, SEG_PHASE_CAL, SEG_STATUS_STATE, SEG_STATUS_HELD, SEG_STATUS_OWNER,
   SEG_STATUS_RETIRED, SEG_STATUS_FILLING, SEG_STATUS_WARN, SEG_FAULT_OPEN, SEG_FAULT_SHORT, SEG_FAULT_THERM,
   SEG_FAULT_CLAMP, SEG_FAULT_GLIDE_ABORT, SEG_FAULT_LATE, SEG_FAULT_FILL_SHORT, SEG_CAL_FSP, SEG_CAL_AMAX,
   SEG_MEAS_IMAG, SEG_MEAS_IPH, SEG_LOAD_RLOAD, SEG_LOAD_VDRV_CAL, SEG_TUNE_TUNE_AMP, SEG_TUNE_DONE,
   SEG_TUNE_FAIL, SEG_TEMP_TEMP, SEG_TEMP_WARN, SEG_TEMP_FAULT, SEG_WIN_START_FRACTION, SEG_WIN_END_FRACTION,
   SEG_FILL_GAIN1, SEG_FILL_GAIN2, SEG_FILL_FILL_PRED, SEG_FILL_FILL_SUCC, SEG_OPEN_OPEN_PCT, FLD_BUDGET_FREE,
   FLD_BUDGET_CLAIMED, FLD_PEND_WAITING, FLD_PEND_HEAD_TOKENS, FLD_PEAK_PEAK, FLD_RETIRED_SEG, FLD_VDRV_VDRV,
   FLD_VDRV_LOW, FLD_RING_PHASE_RING_A, FLD_RING_PHASE_RING_B, FLD_RING_PHASE_RING_C, FLD_RING_PHASE_RING_D,
   FLD_EVENTS_RETIRE, FLD_EVENTS_RING_GAP, FLD_EVENTS_VDRV_LOW, FLD_EVENTS_CLAIM_REFUSED, FLD_EVENTS_REINSTATED,
   FLD_LATE_COUNT]

/-! TEMPO_TIME_LO (04_tempo_angle.md R104) -/
def TEMPO_TIME_LO_TICKS : Row := ⟨0x900, 1, 1, 0, 32, 0, 0, .ro⟩
/-! TEMPO_TIME_HI (04_tempo_angle.md R104) -/
def TEMPO_TIME_HI_TICKS : Row := ⟨0x901, 1, 1, 0, 32, 0, 0, .ro⟩
/-! TEMPO_VOTE (04_tempo_angle.md R104) -/
def TEMPO_VOTE_ANG_TOL : Row := ⟨0x902, 1, 1, 0, 16, 0x4000, 0, .rw⟩
def TEMPO_VOTE_SPD_TOL : Row := ⟨0x902, 1, 1, 16, 8, 0x14, 0, .rw⟩
def TEMPO_VOTE_OUT_VOTES : Row := ⟨0x902, 1, 1, 24, 4, 4, 0, .rw⟩
def TEMPO_VOTE_READMIT : Row := ⟨0x902, 1, 1, 28, 4, 4, 0, .rw⟩
/-! TEMPO_SLEW (04_tempo_angle.md R104) -/
def TEMPO_SLEW_RESEAT : Row := ⟨0x903, 1, 1, 0, 12, 0x100, 0, .rw⟩
def TEMPO_SLEW_SLEW_SHIFT : Row := ⟨0x903, 1, 1, 16, 4, 3, 0, .rw⟩
/-! TEMPO_STILL (04_tempo_angle.md R104) -/
def TEMPO_STILL_STILL_MS : Row := ⟨0x904, 1, 1, 0, 16, 0x3e8, 0, .rw⟩
def TEMPO_STILL_STEP_PCT : Row := ⟨0x904, 1, 1, 16, 8, 0x19, 0, .rw⟩
/-! TEMPO_PERIOD (04_tempo_angle.md R104) -/
def TEMPO_PERIOD_PERIOD_MS : Row := ⟨0x905, 1, 1, 0, 16, 0, 0, .ro⟩
/-! TEMPO_DAY_NEXT_LO (04_tempo_angle.md R104) -/
def TEMPO_DAY_NEXT_LO_TICKS : Row := ⟨0x906, 1, 1, 0, 32, 0x8fb24000, 0, .rw⟩
/-! TEMPO_DAY_NEXT_HI (04_tempo_angle.md R104) -/
def TEMPO_DAY_NEXT_HI_TICKS : Row := ⟨0x907, 1, 1, 0, 32, 0x221, 0, .rw⟩
/-! TEMPO_ACLK_RATIO (04_tempo_angle.md R104) -/
def TEMPO_ACLK_RATIO_RATIO : Row := ⟨0x908, 1, 1, 0, 32, 0x33ba300, 0, .ro⟩
/-! TEMPO_SYNC (04_tempo_angle.md R104) -/
def TEMPO_SYNC_ERR : Row := ⟨0x909, 1, 1, 0, 16, 0, 0, .ro⟩
def TEMPO_SYNC_RC_CLOCK : Row := ⟨0x909, 1, 1, 16, 1, 0, 0, .ro⟩
def TEMPO_SYNC_RESYNC : Row := ⟨0x909, 1, 1, 17, 1, 0, 0, .w1c⟩
/-! TEMPO_LATCH_SEQ (04_tempo_angle.md R104) -/
def TEMPO_LATCH_SEQ_PERIOD_SEQ : Row := ⟨0x90a, 1, 1, 0, 16, 0, 0, .ro⟩
def TEMPO_LATCH_SEQ_DAY_SEQ : Row := ⟨0x90a, 1, 1, 16, 16, 0, 0, .ro⟩
/-! TEMPO_MISSED (04_tempo_angle.md R104) -/
def TEMPO_MISSED_PERIOD_MISSED : Row := ⟨0x90b, 1, 1, 0, 16, 0, 0, .ro⟩
def TEMPO_MISSED_DAY_MISSED : Row := ⟨0x90b, 1, 1, 16, 8, 0, 0, .ro⟩
/-! TEMPO_EVENTS (04_tempo_angle.md R104) -/
def TEMPO_EVENTS_INVALID : Row := ⟨0x90c, 1, 1, 0, 4, 0, 0, .w1c⟩
def TEMPO_EVENTS_RESEAT : Row := ⟨0x90c, 1, 1, 4, 4, 0, 0, .w1c⟩
def TEMPO_EVENTS_SPEED_STEP : Row := ⟨0x90c, 1, 1, 8, 4, 0, 0, .w1c⟩
def TEMPO_EVENTS_EST_OUT : Row := ⟨0x90c, 1, 1, 12, 4, 0, 0, .w1c⟩
def TEMPO_EVENTS_DAY_REJECT : Row := ⟨0x90c, 1, 1, 16, 1, 0, 0, .w1c⟩
/-! TEMPO_RINGx_ANG_LO (04_tempo_angle.md R104) -/
def RING_ANG_LO_STAMP : Row := ⟨0x910, 16, 4, 0, 32, 0, 0, .ro⟩
/-! TEMPO_RINGx_ANG_HI (04_tempo_angle.md R104) -/
def RING_ANG_HI_STAMP : Row := ⟨0x911, 16, 4, 0, 32, 0, 0, .ro⟩
/-! TEMPO_RINGx_SPEED (04_tempo_angle.md R104) -/
def RING_SPEED_INC : Row := ⟨0x912, 16, 4, 0, 32, 0, 0, .ro⟩
/-! TEMPO_RINGx_RPM (04_tempo_angle.md R104) -/
def RING_RPM_RPM : Row := ⟨0x913, 16, 4, 0, 16, 0, 0, .ro⟩
/-! TEMPO_RINGx_STATUS (04_tempo_angle.md R104) -/
def RING_STATUS_VALID : Row := ⟨0x914, 16, 4, 0, 1, 0, 0, .ro⟩
def RING_STATUS_STILL : Row := ⟨0x914, 16, 4, 1, 1, 0, 0, .ro⟩
def RING_STATUS_REVERSE : Row := ⟨0x914, 16, 4, 2, 1, 0, 0, .ro⟩
def RING_STATUS_OVERSPEED : Row := ⟨0x914, 16, 4, 3, 1, 0, 0, .ro⟩
def RING_STATUS_PROVISIONAL : Row := ⟨0x914, 16, 4, 4, 1, 0, 0, .ro⟩
def RING_STATUS_UNVOTED : Row := ⟨0x914, 16, 4, 5, 1, 0, 0, .ro⟩
def RING_STATUS_NO_ANCHOR : Row := ⟨0x914, 16, 4, 6, 1, 0, 0, .ro⟩
def RING_STATUS_ARMED : Row := ⟨0x914, 16, 4, 7, 1, 0, 0, .ro⟩
def RING_STATUS_COUNT_EST : Row := ⟨0x914, 16, 4, 8, 1, 0, 0, .w1c⟩
/-! TEMPO_RINGx_EST (04_tempo_angle.md R104) -/
def RING_EST_KP : Row := ⟨0x915, 16, 4, 0, 2, 0, 0, .ro⟩
def RING_EST_TRANSIT : Row := ⟨0x915, 16, 4, 2, 2, 0, 0, .ro⟩
def RING_EST_DETUNE : Row := ⟨0x915, 16, 4, 4, 2, 0, 0, .ro⟩
def RING_EST_STALLED : Row := ⟨0x915, 16, 4, 6, 3, 0, 0, .ro⟩
/-! TEMPO_RINGx_KPCFG (04_tempo_angle.md R104) -/
def RING_KPCFG_EDGE : Row := ⟨0x916, 16, 4, 0, 1, 0, 0, .rw⟩
def RING_KPCFG_FILTER : Row := ⟨0x916, 16, 4, 1, 7, 8, 0, .rw⟩
def RING_KPCFG_TEETH : Row := ⟨0x916, 16, 4, 8, 10, 1, 0, .rw⟩
/-! TEMPO_RINGx_SEQ (04_tempo_angle.md R104) -/
def RING_SEQ_REV_SEQ : Row := ⟨0x917, 16, 4, 0, 16, 0, 0, .ro⟩
def RING_SEQ_KPREJ : Row := ⟨0x917, 16, 4, 16, 8, 0, 0, .rc⟩
def RING_SEQ_OUTS : Row := ⟨0x917, 16, 4, 24, 8, 0, 0, .rc⟩

def rowsTEMPO : List Row :=
  [TEMPO_TIME_LO_TICKS, TEMPO_TIME_HI_TICKS, TEMPO_VOTE_ANG_TOL, TEMPO_VOTE_SPD_TOL, TEMPO_VOTE_OUT_VOTES,
   TEMPO_VOTE_READMIT, TEMPO_SLEW_RESEAT, TEMPO_SLEW_SLEW_SHIFT, TEMPO_STILL_STILL_MS, TEMPO_STILL_STEP_PCT,
   TEMPO_PERIOD_PERIOD_MS, TEMPO_DAY_NEXT_LO_TICKS, TEMPO_DAY_NEXT_HI_TICKS, TEMPO_ACLK_RATIO_RATIO,
   TEMPO_SYNC_ERR, TEMPO_SYNC_RC_CLOCK, TEMPO_SYNC_RESYNC, TEMPO_LATCH_SEQ_PERIOD_SEQ, TEMPO_LATCH_SEQ_DAY_SEQ,
   TEMPO_MISSED_PERIOD_MISSED, TEMPO_MISSED_DAY_MISSED, TEMPO_EVENTS_INVALID, TEMPO_EVENTS_RESEAT,
   TEMPO_EVENTS_SPEED_STEP, TEMPO_EVENTS_EST_OUT, TEMPO_EVENTS_DAY_REJECT, RING_ANG_LO_STAMP, RING_ANG_HI_STAMP,
   RING_SPEED_INC, RING_RPM_RPM, RING_STATUS_VALID, RING_STATUS_STILL, RING_STATUS_REVERSE, RING_STATUS_OVERSPEED,
   RING_STATUS_PROVISIONAL, RING_STATUS_UNVOTED, RING_STATUS_NO_ANCHOR, RING_STATUS_ARMED, RING_STATUS_COUNT_EST,
   RING_EST_KP, RING_EST_TRANSIT, RING_EST_DETUNE, RING_EST_STALLED, RING_KPCFG_EDGE, RING_KPCFG_FILTER,
   RING_KPCFG_TEETH, RING_SEQ_REV_SEQ, RING_SEQ_KPREJ, RING_SEQ_OUTS]

/-! LNn_CFG (06_receive_decode.md R177) -/
def LN_CFG_MODE : Row := ⟨0xd00, 32, 20, 0, 2, 0, 0, .ro⟩
def LN_CFG_FIRST : Row := ⟨0xd00, 32, 20, 2, 5, 0, 0, .ro⟩
def LN_CFG_WIDTH : Row := ⟨0xd00, 32, 20, 7, 2, 0, 0, .ro⟩
def LN_CFG_TRK : Row := ⟨0xd00, 32, 20, 9, 3, 3, 0, .rw⟩
def LN_CFG_ROLE_OF : Row := ⟨0xd00, 32, 20, 12, 5, 0, 0, .ro⟩
/-! LNn_DET (06_receive_decode.md R177) -/
def LN_DET_THRESH : Row := ⟨0xd01, 32, 20, 0, 8, 0x28, 0, .rw⟩
def LN_DET_CAPTURE : Row := ⟨0xd01, 32, 20, 8, 8, 0x24, 0, .rw⟩
def LN_DET_QUAL : Row := ⟨0xd01, 32, 20, 16, 5, 0xf, 0, .rw⟩
/-! LNn_STATE (06_receive_decode.md R177) -/
def LN_STATE_STATE : Row := ⟨0xd02, 32, 20, 0, 3, 0, 0, .ro⟩
def LN_STATE_SEARCH : Row := ⟨0xd02, 32, 20, 3, 2, 0, 0, .ro⟩
def LN_STATE_GEN : Row := ⟨0xd02, 32, 20, 5, 2, 0, 0, .ro⟩
/-! LNn_SHARE (06_receive_decode.md R177) -/
def LN_SHARE_S0 : Row := ⟨0xd03, 32, 20, 0, 8, 0, 0, .ro⟩
def LN_SHARE_S1 : Row := ⟨0xd03, 32, 20, 8, 8, 0, 0, .ro⟩
def LN_SHARE_S2 : Row := ⟨0xd03, 32, 20, 16, 8, 0, 0, .ro⟩
def LN_SHARE_GAMMA : Row := ⟨0xd03, 32, 20, 24, 8, 0, 0, .ro⟩
/-! LNn_FRAME0 (06_receive_decode.md R177) -/
def LN_FRAME0_WORD : Row := ⟨0xd04, 32, 20, 0, 32, 0, 0, .rs⟩
/-! LNn_FRAME1 (06_receive_decode.md R177) -/
def LN_FRAME1_WORD : Row := ⟨0xd05, 32, 20, 0, 32, 0, 0, .rs⟩
/-! LNn_FRAME2 (06_receive_decode.md R177) -/
def LN_FRAME2_WORD : Row := ⟨0xd06, 32, 20, 0, 32, 0, 0, .rs⟩
/-! LNn_FRAME3 (06_receive_decode.md R177) -/
def LN_FRAME3_WORD : Row := ⟨0xd07, 32, 20, 0, 32, 0, 0, .rs⟩
/-! LNn_FRAME4 (06_receive_decode.md R177) -/
def LN_FRAME4_WORD : Row := ⟨0xd08, 32, 20, 0, 32, 0, 0, .rs⟩
/-! LNn_FRAME5 (06_receive_decode.md R177) -/
def LN_FRAME5_WORD : Row := ⟨0xd09, 32, 20, 0, 32, 0, 0, .rs⟩
/-! LNn_CNT_A (06_receive_decode.md R177) -/
def LN_CNT_A_FRAMES : Row := ⟨0xd0a, 32, 20, 0, 16, 0, 0, .rc⟩
def LN_CNT_A_FALSE_DET : Row := ⟨0xd0a, 32, 20, 16, 16, 0, 0, .rc⟩
/-! LNn_CNT_B (06_receive_decode.md R177) -/
def LN_CNT_B_CAPTURED : Row := ⟨0xd0b, 32, 20, 0, 8, 0, 0, .rc⟩
def LN_CNT_B_COLLIDED : Row := ⟨0xd0b, 32, 20, 8, 8, 0, 0, .rc⟩
def LN_CNT_B_DET_BUSY : Row := ⟨0xd0b, 32, 20, 16, 8, 0, 0, .rc⟩
def LN_CNT_B_DEC_WAIT : Row := ⟨0xd0b, 32, 20, 24, 8, 0, 0, .rc⟩
/-! SNSk_CFG (06_receive_decode.md R177) -/
def SNS_CFG_SPH : Row := ⟨0xf80, 4, 24, 0, 6, 0, 0, .rw⟩
def SNS_CFG_CANCEL_EN : Row := ⟨0xf80, 4, 24, 6, 1, 1, 0, .rw⟩
/-! SNSk_CANCEL (06_receive_decode.md R177) -/
def SNS_CANCEL_CI : Row := ⟨0xf81, 4, 24, 0, 12, 0, 0, .ro⟩
def SNS_CANCEL_CQ : Row := ⟨0xf81, 4, 24, 16, 12, 0, 0, .ro⟩
/-! SNSk_LEVEL (06_receive_decode.md R177) -/
def SNS_LEVEL_RESID : Row := ⟨0xf82, 4, 24, 0, 12, 0, 0, .ro⟩
def SNS_LEVEL_CLIP : Row := ⟨0xf82, 4, 24, 16, 16, 0, 0, .rc⟩
/-! SNSk_STATUS (06_receive_decode.md R177) -/
def SNS_STATUS_OVER : Row := ⟨0xf83, 4, 24, 0, 1, 0, 0, .w1c⟩
def SNS_STATUS_EXCLUDED : Row := ⟨0xf83, 4, 24, 1, 1, 0, 0, .ro⟩
/-! LANE_SPARE (06_receive_decode.md R177) -/
def LANE_SPARE_SPARE0 : Row := ⟨0xfe0, 1, 1, 0, 5, 0, 0, .ro⟩
def LANE_SPARE_USED0 : Row := ⟨0xfe0, 1, 1, 5, 1, 0, 0, .ro⟩
def LANE_SPARE_SPARE1 : Row := ⟨0xfe0, 1, 1, 8, 5, 0, 0, .ro⟩
def LANE_SPARE_USED1 : Row := ⟨0xfe0, 1, 1, 13, 1, 0, 0, .ro⟩
/-! LANE_FAILED (06_receive_decode.md R177) -/
def LANE_FAILED_LANE : Row := ⟨0xfe1, 1, 1, 0, 20, 0, 0, .ro⟩
/-! LANE_EVENTS (06_receive_decode.md R177) -/
def LANE_EVENTS_LANE_FAIL : Row := ⟨0xfe2, 1, 1, 0, 1, 0, 0, .w1c⟩
def LANE_EVENTS_SPARE_USED : Row := ⟨0xfe2, 1, 1, 1, 1, 0, 0, .w1c⟩
def LANE_EVENTS_NO_SPARE : Row := ⟨0xfe2, 1, 1, 2, 1, 0, 0, .w1c⟩

def rowsLANE : List Row :=
  [LN_CFG_MODE, LN_CFG_FIRST, LN_CFG_WIDTH, LN_CFG_TRK, LN_CFG_ROLE_OF, LN_DET_THRESH, LN_DET_CAPTURE,
   LN_DET_QUAL, LN_STATE_STATE, LN_STATE_SEARCH, LN_STATE_GEN, LN_SHARE_S0, LN_SHARE_S1, LN_SHARE_S2,
   LN_SHARE_GAMMA, LN_FRAME0_WORD, LN_FRAME1_WORD, LN_FRAME2_WORD, LN_FRAME3_WORD, LN_FRAME4_WORD, LN_FRAME5_WORD,
   LN_CNT_A_FRAMES, LN_CNT_A_FALSE_DET, LN_CNT_B_CAPTURED, LN_CNT_B_COLLIDED, LN_CNT_B_DET_BUSY,
   LN_CNT_B_DEC_WAIT, SNS_CFG_SPH, SNS_CFG_CANCEL_EN, SNS_CANCEL_CI, SNS_CANCEL_CQ, SNS_LEVEL_RESID,
   SNS_LEVEL_CLIP, SNS_STATUS_OVER, SNS_STATUS_EXCLUDED, LANE_SPARE_SPARE0, LANE_SPARE_USED0, LANE_SPARE_SPARE1,
   LANE_SPARE_USED1, LANE_FAILED_LANE, LANE_EVENTS_LANE_FAIL, LANE_EVENTS_SPARE_USED, LANE_EVENTS_NO_SPARE]

/-! DEC_CTRL (06_receive_decode.md R177) -/
def DEC_CTRL_MAX_ITER : Row := ⟨0x1000, 1, 1, 0, 6, 0x20, 0, .rw⟩
def DEC_CTRL_MM_LIMIT : Row := ⟨0x1000, 1, 1, 8, 4, 2, 0, .rw⟩
/-! DEC_STATUS (06_receive_decode.md R177) -/
def DEC_STATUS_CHECKER : Row := ⟨0x1001, 1, 1, 0, 2, 0, 0, .ro⟩
def DEC_STATUS_CHECKING : Row := ⟨0x1001, 1, 1, 2, 1, 0, 0, .ro⟩
def DEC_STATUS_FAILED : Row := ⟨0x1001, 1, 1, 3, 4, 0, 0, .ro⟩
def DEC_STATUS_TAKEN_FOR : Row := ⟨0x1001, 1, 1, 7, 2, 0, 0, .ro⟩
def DEC_STATUS_SPARED : Row := ⟨0x1001, 1, 1, 9, 1, 0, 0, .ro⟩
/-! DEC_EVENTS (06_receive_decode.md R177) -/
def DEC_EVENTS_MISMATCH : Row := ⟨0x1002, 1, 1, 0, 1, 0, 0, .w1c⟩
def DEC_EVENTS_DISPUTE : Row := ⟨0x1002, 1, 1, 1, 1, 0, 0, .w1c⟩
def DEC_EVENTS_SPARED : Row := ⟨0x1002, 1, 1, 2, 1, 0, 0, .w1c⟩
def DEC_EVENTS_CHECKER_FAIL : Row := ⟨0x1002, 1, 1, 3, 1, 0, 0, .w1c⟩
/-! DECk_CW (06_receive_decode.md R177) -/
def DECC_CW_COUNT : Row := ⟨0x1010, 8, 4, 0, 32, 0, 0, .ro⟩
/-! DECk_ITER (06_receive_decode.md R177) -/
def DECC_ITER_COUNT : Row := ⟨0x1011, 8, 4, 0, 32, 0, 0, .ro⟩
/-! DECk_FAIL (06_receive_decode.md R177) -/
def DECC_FAIL_COUNT : Row := ⟨0x1012, 8, 4, 0, 16, 0, 0, .rc⟩
def DECC_FAIL_CHECK_SKIP : Row := ⟨0x1012, 8, 4, 16, 16, 0, 0, .rc⟩
/-! DECk_MISMATCH (06_receive_decode.md R177) -/
def DECC_MISMATCH_COUNT : Row := ⟨0x1013, 8, 4, 0, 4, 0, 0, .ro⟩
/-! DECk_STATUS (06_receive_decode.md R177) -/
def DECC_STATUS_ROLE : Row := ⟨0x1014, 8, 4, 0, 2, 0, 0, .ro⟩
def DECC_STATUS_QUEUE : Row := ⟨0x1014, 8, 4, 2, 3, 0, 0, .ro⟩
def DECC_STATUS_BUSY : Row := ⟨0x1014, 8, 4, 5, 1, 0, 0, .ro⟩

def rowsDEC : List Row :=
  [DEC_CTRL_MAX_ITER, DEC_CTRL_MM_LIMIT, DEC_STATUS_CHECKER, DEC_STATUS_CHECKING, DEC_STATUS_FAILED,
   DEC_STATUS_TAKEN_FOR, DEC_STATUS_SPARED, DEC_EVENTS_MISMATCH, DEC_EVENTS_DISPUTE, DEC_EVENTS_SPARED,
   DEC_EVENTS_CHECKER_FAIL, DECC_CW_COUNT, DECC_ITER_COUNT, DECC_FAIL_COUNT, DECC_FAIL_CHECK_SKIP,
   DECC_MISMATCH_COUNT, DECC_STATUS_ROLE, DECC_STATUS_QUEUE, DECC_STATUS_BUSY]

/-! CENSUS_CMD (07_census.md R201) -/
def CENSUS_CMD_OP : Row := ⟨0x1100, 1, 1, 0, 4, 0, 0, .wo⟩
def CENSUS_CMD_RING : Row := ⟨0x1100, 1, 1, 4, 2, 0, 0, .wo⟩
def CENSUS_CMD_FORCE : Row := ⟨0x1100, 1, 1, 6, 1, 0, 0, .wo⟩
def CENSUS_CMD_ARG : Row := ⟨0x1100, 1, 1, 8, 13, 0, 0, .wo⟩
def CENSUS_CMD_PLAN : Row := ⟨0x1100, 1, 1, 21, 4, 0, 0, .wo⟩
def CENSUS_CMD_SEG : Row := ⟨0x1100, 1, 1, 25, 5, 0, 0, .wo⟩
/-! CENSUS_JOB (07_census.md R201) -/
def CENSUS_JOB_CALLER : Row := ⟨0x1101, 1, 1, 0, 3, 7, 0, .rw⟩
def CENSUS_JOB_PRIO : Row := ⟨0x1101, 1, 1, 4, 4, 0, 0, .rw⟩
def CENSUS_JOB_AMP : Row := ⟨0x1101, 1, 1, 8, 8, 0x80, 0, .rw⟩
def CENSUS_JOB_QUEUE : Row := ⟨0x1101, 1, 1, 16, 6, 0, 0, .rw⟩
/-! CENSUS_STATUS (07_census.md R201) -/
def CENSUS_STATUS_JOB : Row := ⟨0x1102, 1, 1, 0, 3, 0, 0, .ro⟩
def CENSUS_STATUS_RING : Row := ⟨0x1102, 1, 1, 3, 2, 0, 0, .ro⟩
def CENSUS_STATUS_DEPTH : Row := ⟨0x1102, 1, 1, 5, 6, 0, 0, .ro⟩
def CENSUS_STATUS_STACK : Row := ⟨0x1102, 1, 1, 12, 12, 0, 0, .ro⟩
def CENSUS_STATUS_PASS : Row := ⟨0x1102, 1, 1, 24, 8, 0, 0, .ro⟩
/-! CENSUS_COUNT_A (07_census.md R201) -/
def CENSUS_COUNT_A_LOW : Row := ⟨0x1103, 1, 1, 0, 14, 0, 0, .ro⟩
def CENSUS_COUNT_A_HIGH : Row := ⟨0x1103, 1, 1, 16, 14, 0, 0, .ro⟩
/-! CENSUS_COUNT_B (07_census.md R201) -/
def CENSUS_COUNT_B_LOW : Row := ⟨0x1104, 1, 1, 0, 14, 0, 0, .ro⟩
def CENSUS_COUNT_B_HIGH : Row := ⟨0x1104, 1, 1, 16, 14, 0, 0, .ro⟩
/-! CENSUS_COUNT_C (07_census.md R201) -/
def CENSUS_COUNT_C_LOW : Row := ⟨0x1105, 1, 1, 0, 14, 0, 0, .ro⟩
def CENSUS_COUNT_C_HIGH : Row := ⟨0x1105, 1, 1, 16, 14, 0x2000, 0, .ro⟩
/-! CENSUS_WALK (07_census.md R201) -/
def CENSUS_WALK_QUERIES : Row := ⟨0x1106, 1, 1, 0, 16, 0, 0, .rs⟩
def CENSUS_WALK_ASSIGNED : Row := ⟨0x1106, 1, 1, 16, 13, 0, 0, .rs⟩
/-! CENSUS_POS (07_census.md R201) -/
def CENSUS_POS_POS_N : Row := ⟨0x1107, 1, 1, 0, 4, 8, 0, .rw⟩
def CENSUS_POS_TOL : Row := ⟨0x1107, 1, 1, 8, 16, 0x100, 0, .rw⟩
/-! CENSUS_MISS (07_census.md R201) -/
def CENSUS_MISS_MISS_LIMIT : Row := ⟨0x1108, 1, 1, 0, 4, 8, 0, .rw⟩
def CENSUS_MISS_DISC_RPM : Row := ⟨0x1108, 1, 1, 16, 10, 0x3c, 0, .rw⟩
/-! CENSUS_RINGx_SA (07_census.md R201) -/
def CENSUS_RING_SA_FIRST : Row := ⟨0x1109, 1, 4, 0, 12, 0, 1024, .rw⟩
def CENSUS_RING_SA_LAST : Row := ⟨0x1109, 1, 4, 16, 12, 0x3ff, 1024, .rw⟩
/-! CENSUS_ERR_A (07_census.md R201) -/
def CENSUS_ERR_A_UNKNOWN_SA : Row := ⟨0x110d, 1, 1, 0, 16, 0, 0, .rc⟩
def CENSUS_ERR_A_CROSS_RING : Row := ⟨0x110d, 1, 1, 16, 16, 0, 0, .rc⟩
/-! CENSUS_ERR_B (07_census.md R201) -/
def CENSUS_ERR_B_PLAN_MISMATCH : Row := ⟨0x110e, 1, 1, 0, 8, 0, 0, .rc⟩
def CENSUS_ERR_B_UID_MISMATCH : Row := ⟨0x110e, 1, 1, 8, 8, 0, 0, .rc⟩
def CENSUS_ERR_B_TABLE_FULL : Row := ⟨0x110e, 1, 1, 16, 8, 0, 0, .rc⟩
def CENSUS_ERR_B_SA_FULL : Row := ⟨0x110e, 1, 1, 24, 8, 0, 0, .rc⟩
/-! CENSUS_EVENTS (07_census.md R201) -/
def CENSUS_EVENTS_WALK_DONE : Row := ⟨0x110f, 1, 1, 0, 1, 0, 0, .w1c⟩
def CENSUS_EVENTS_WALK_ABORT : Row := ⟨0x110f, 1, 1, 1, 1, 0, 0, .w1c⟩
def CENSUS_EVENTS_DUPLICATE : Row := ⟨0x110f, 1, 1, 2, 1, 0, 0, .w1c⟩
def CENSUS_EVENTS_LOST : Row := ⟨0x110f, 1, 1, 3, 1, 0, 0, .w1c⟩
def CENSUS_EVENTS_REBUILT : Row := ⟨0x110f, 1, 1, 4, 1, 0, 0, .w1c⟩
def CENSUS_EVENTS_WRITE_UNRESOLVED : Row := ⟨0x110f, 1, 1, 5, 1, 0, 0, .w1c⟩
def CENSUS_EVENTS_RANGE_ERR : Row := ⟨0x110f, 1, 1, 6, 1, 0, 0, .w1c⟩
def CENSUS_EVENTS_CMD_REFUSED : Row := ⟨0x110f, 1, 1, 7, 1, 0, 0, .w1c⟩
def CENSUS_EVENTS_POS_TRUSTED : Row := ⟨0x110f, 1, 1, 8, 1, 0, 0, .w1c⟩
def CENSUS_EVENTS_SERVICE_DONE : Row := ⟨0x110f, 1, 1, 9, 1, 0, 0, .w1c⟩
def CENSUS_EVENTS_RETIRED_SEEN : Row := ⟨0x110f, 1, 1, 10, 1, 0, 0, .w1c⟩
def CENSUS_EVENTS_ASSIGN_FAIL : Row := ⟨0x110f, 1, 1, 11, 1, 0, 0, .w1c⟩
def CENSUS_EVENTS_PLAN_REJECT : Row := ⟨0x110f, 1, 1, 12, 1, 0, 0, .w1c⟩
/-! CENSUS_LOOKUP (07_census.md R201) -/
def CENSUS_LOOKUP_SA : Row := ⟨0x1110, 1, 1, 0, 12, 0, 0, .rw⟩
def CENSUS_LOOKUP_INDEX : Row := ⟨0x1110, 1, 1, 16, 13, 0, 0, .ro⟩
def CENSUS_LOOKUP_HIT : Row := ⟨0x1110, 1, 1, 29, 1, 0, 0, .ro⟩
/-! CENSUS_REBUILD (07_census.md R201) -/
def CENSUS_REBUILD_SEEDED : Row := ⟨0x1111, 1, 1, 0, 13, 0, 0, .ro⟩
def CENSUS_REBUILD_FOUND : Row := ⟨0x1111, 1, 1, 16, 13, 0, 0, .ro⟩
def CENSUS_REBUILD_SCAN : Row := ⟨0x1111, 1, 1, 29, 1, 0, 0, .ro⟩

def rowsCENSUS : List Row :=
  [CENSUS_CMD_OP, CENSUS_CMD_RING, CENSUS_CMD_FORCE, CENSUS_CMD_ARG, CENSUS_CMD_PLAN, CENSUS_CMD_SEG,
   CENSUS_JOB_CALLER, CENSUS_JOB_PRIO, CENSUS_JOB_AMP, CENSUS_JOB_QUEUE, CENSUS_STATUS_JOB, CENSUS_STATUS_RING,
   CENSUS_STATUS_DEPTH, CENSUS_STATUS_STACK, CENSUS_STATUS_PASS, CENSUS_COUNT_A_LOW, CENSUS_COUNT_A_HIGH,
   CENSUS_COUNT_B_LOW, CENSUS_COUNT_B_HIGH, CENSUS_COUNT_C_LOW, CENSUS_COUNT_C_HIGH, CENSUS_WALK_QUERIES,
   CENSUS_WALK_ASSIGNED, CENSUS_POS_POS_N, CENSUS_POS_TOL, CENSUS_MISS_MISS_LIMIT, CENSUS_MISS_DISC_RPM,
   CENSUS_RING_SA_FIRST, CENSUS_RING_SA_LAST, CENSUS_ERR_A_UNKNOWN_SA, CENSUS_ERR_A_CROSS_RING,
   CENSUS_ERR_B_PLAN_MISMATCH, CENSUS_ERR_B_UID_MISMATCH, CENSUS_ERR_B_TABLE_FULL, CENSUS_ERR_B_SA_FULL,
   CENSUS_EVENTS_WALK_DONE, CENSUS_EVENTS_WALK_ABORT, CENSUS_EVENTS_DUPLICATE, CENSUS_EVENTS_LOST,
   CENSUS_EVENTS_REBUILT, CENSUS_EVENTS_WRITE_UNRESOLVED, CENSUS_EVENTS_RANGE_ERR, CENSUS_EVENTS_CMD_REFUSED,
   CENSUS_EVENTS_POS_TRUSTED, CENSUS_EVENTS_SERVICE_DONE, CENSUS_EVENTS_RETIRED_SEEN, CENSUS_EVENTS_ASSIGN_FAIL,
   CENSUS_EVENTS_PLAN_REJECT, CENSUS_LOOKUP_SA, CENSUS_LOOKUP_INDEX, CENSUS_LOOKUP_HIT, CENSUS_REBUILD_SEEDED,
   CENSUS_REBUILD_FOUND, CENSUS_REBUILD_SCAN]

/-! FIG_CTRL (08_figures_callers.md R228) -/
def FIG_CTRL_SKIP_MAX : Row := ⟨0x1200, 1, 1, 0, 16, 0x800, 0, .rw⟩
/-! FIG_COMMIT (08_figures_callers.md R228) -/
def FIG_COMMIT_COMMIT : Row := ⟨0x1201, 1, 1, 0, 1, 0, 0, .wo⟩
/-! FIG_STATUS (08_figures_callers.md R228) -/
def FIG_STATUS_BUSY : Row := ⟨0x1202, 1, 1, 0, 1, 0, 0, .ro⟩
def FIG_STATUS_PENDING : Row := ⟨0x1202, 1, 1, 1, 4, 0, 0, .ro⟩
def FIG_STATUS_DIRTY : Row := ⟨0x1202, 1, 1, 16, 15, 0, 0, .ro⟩
/-! FIG_EVENTS (08_figures_callers.md R228) -/
def FIG_EVENTS_OVERRUN : Row := ⟨0x1203, 1, 1, 0, 1, 0, 0, .w1c⟩
def FIG_EVENTS_SKIPPED : Row := ⟨0x1203, 1, 1, 1, 1, 0, 0, .w1c⟩
def FIG_EVENTS_ENTRY_FAULT : Row := ⟨0x1203, 1, 1, 2, 1, 0, 0, .w1c⟩
def FIG_EVENTS_DARK : Row := ⟨0x1203, 1, 1, 3, 1, 0, 0, .w1c⟩
def FIG_EVENTS_COMMIT_REJECT : Row := ⟨0x1203, 1, 1, 4, 1, 0, 0, .w1c⟩
def FIG_EVENTS_LOST : Row := ⟨0x1203, 1, 1, 5, 1, 0, 0, .w1c⟩
/-! FIG_RINGx (08_figures_callers.md R228) -/
def FIG_RING_NEXT : Row := ⟨0x1204, 1, 4, 0, 14, 0, 0, .ro⟩
def FIG_RING_WAITING : Row := ⟨0x1204, 1, 4, 14, 1, 0, 0, .ro⟩
def FIG_RING_COUNT : Row := ⟨0x1204, 1, 4, 16, 15, 0, 0, .ro⟩
/-! FIG_CNT_A (08_figures_callers.md R228) -/
def FIG_CNT_A_FIRED : Row := ⟨0x1208, 1, 1, 0, 32, 0, 0, .ro⟩
/-! FIG_CNT_B (08_figures_callers.md R228) -/
def FIG_CNT_B_OVERRUN : Row := ⟨0x1209, 1, 1, 0, 8, 0, 0, .rc⟩
def FIG_CNT_B_SKIPPED : Row := ⟨0x1209, 1, 1, 8, 8, 0, 0, .rc⟩
def FIG_CNT_B_LATE : Row := ⟨0x1209, 1, 1, 16, 8, 0, 0, .rc⟩
def FIG_CNT_B_DROPPED : Row := ⟨0x1209, 1, 1, 24, 8, 0, 0, .rc⟩
/-! SB_COUNT (08_figures_callers.md R228) -/
def SB_COUNT_FREE : Row := ⟨0x1210, 1, 1, 0, 9, 0x100, 0, .ro⟩
def SB_COUNT_BUSY : Row := ⟨0x1210, 1, 1, 16, 9, 0, 0, .ro⟩
/-! SB_KIND_A (08_figures_callers.md R228) -/
def SB_KIND_A_LOW : Row := ⟨0x1211, 1, 1, 0, 9, 0, 0, .ro⟩
def SB_KIND_A_HIGH : Row := ⟨0x1211, 1, 1, 16, 9, 0, 0, .ro⟩
/-! SB_KIND_B (08_figures_callers.md R228) -/
def SB_KIND_B_LOW : Row := ⟨0x1212, 1, 1, 0, 9, 0, 0, .ro⟩
def SB_KIND_B_HIGH : Row := ⟨0x1212, 1, 1, 16, 9, 0, 0, .ro⟩
/-! SB_KIND_C (08_figures_callers.md R228) -/
def SB_KIND_C_LOW : Row := ⟨0x1213, 1, 1, 0, 9, 0, 0, .ro⟩
def SB_KIND_C_HIGH : Row := ⟨0x1213, 1, 1, 16, 9, 0, 0, .ro⟩
/-! SB_CTRL (08_figures_callers.md R228) -/
def SB_CTRL_RESERVE : Row := ⟨0x1214, 1, 1, 0, 9, 0x10, 0, .rw⟩
/-! SB_PEAK (08_figures_callers.md R228) -/
def SB_PEAK_PEAK : Row := ⟨0x1215, 1, 1, 0, 9, 0, 0, .rc⟩
def SB_PEAK_WAITING : Row := ⟨0x1215, 1, 1, 16, 9, 0, 0, .ro⟩
/-! BOOK_AUDIT (08_figures_callers.md R228) -/
def BOOK_AUDIT_RUN : Row := ⟨0x1218, 1, 1, 0, 1, 0, 0, .wo⟩
def BOOK_AUDIT_BUSY : Row := ⟨0x1218, 1, 1, 1, 1, 0, 0, .ro⟩
def BOOK_AUDIT_TOKENS_OK : Row := ⟨0x1218, 1, 1, 2, 1, 1, 0, .ro⟩
def BOOK_AUDIT_SLOTS_OK : Row := ⟨0x1218, 1, 1, 3, 1, 1, 0, .ro⟩
def BOOK_AUDIT_CREDITS_OK : Row := ⟨0x1218, 1, 1, 4, 1, 1, 0, .ro⟩
def BOOK_AUDIT_SEQ : Row := ⟨0x1218, 1, 1, 16, 16, 0, 0, .ro⟩
/-! BOOK_ERR (08_figures_callers.md R228) -/
def BOOK_ERR_TOKENS : Row := ⟨0x1219, 1, 1, 0, 8, 0, 0, .rc⟩
def BOOK_ERR_SLOTS : Row := ⟨0x1219, 1, 1, 8, 8, 0, 0, .rc⟩
def BOOK_ERR_CREDITS : Row := ⟨0x1219, 1, 1, 16, 8, 0, 0, .rc⟩
/-! BOOK_CREDITt (08_figures_callers.md R228) -/
def BOOK_CREDIT_FREE : Row := ⟨0x121c, 1, 4, 0, 7, 0, 0, .ro⟩
def BOOK_CREDIT_OUTSTANDING : Row := ⟨0x121c, 1, 4, 8, 7, 0, 0, .ro⟩
def BOOK_CREDIT_DEBT : Row := ⟨0x121c, 1, 4, 16, 7, 0, 0, .ro⟩
def BOOK_CREDIT_TOTAL : Row := ⟨0x121c, 1, 4, 24, 7, 0, 0, .ro⟩
/-! CALL_CTRL (08_figures_callers.md R228) -/
def CALL_CTRL_LIMIT : Row := ⟨0x1220, 1, 1, 0, 16, 0x1000, 0, .rw⟩
def CALL_CTRL_HOLD : Row := ⟨0x1220, 1, 1, 16, 1, 0, 0, .rw⟩
/-! CALL_STATUS (08_figures_callers.md R228) -/
def CALL_STATUS_IDLE : Row := ⟨0x1221, 1, 1, 0, 8, 0xff, 0, .ro⟩
def CALL_STATUS_ALL_IDLE : Row := ⟨0x1221, 1, 1, 8, 1, 1, 0, .ro⟩
/-! CALL_PAIR (08_figures_callers.md R228) -/
def CALL_PAIR_FAILED : Row := ⟨0x1222, 1, 1, 0, 9, 0, 0, .ro⟩
def CALL_PAIR_SPARE_FOR : Row := ⟨0x1222, 1, 1, 9, 4, 0xf, 0, .ro⟩
/-! CALL_EVENTS (08_figures_callers.md R228) -/
def CALL_EVENTS_MISMATCH : Row := ⟨0x1223, 1, 1, 0, 1, 0, 0, .w1c⟩
def CALL_EVENTS_SPARED : Row := ⟨0x1223, 1, 1, 1, 1, 0, 0, .w1c⟩
def CALL_EVENTS_NO_SPARE : Row := ⟨0x1223, 1, 1, 2, 1, 0, 0, .w1c⟩
def CALL_EVENTS_TIMEOUT : Row := ⟨0x1223, 1, 1, 3, 1, 0, 0, .w1c⟩
def CALL_EVENTS_FAULT : Row := ⟨0x1223, 1, 1, 4, 1, 0, 0, .w1c⟩
def CALL_EVENTS_LOST : Row := ⟨0x1223, 1, 1, 5, 1, 0, 0, .w1c⟩
def CALL_EVENTS_END_DRIVE : Row := ⟨0x1223, 1, 1, 6, 1, 0, 0, .w1c⟩
/-! CALL_FAULT (08_figures_callers.md R228) -/
def CALL_FAULT_PC : Row := ⟨0x1224, 1, 1, 0, 14, 0, 0, .rs⟩
def CALL_FAULT_CALLER : Row := ⟨0x1224, 1, 1, 14, 3, 0, 0, .rs⟩
def CALL_FAULT_CAUSE : Row := ⟨0x1224, 1, 1, 17, 3, 0, 0, .rs⟩
/-! CLk_STATUS (08_figures_callers.md R228) -/
def CL_STATUS_STATE : Row := ⟨0x1230, 4, 8, 0, 3, 0, 0, .ro⟩
def CL_STATUS_PAIR : Row := ⟨0x1230, 4, 8, 3, 4, 0, 1, .ro⟩
def CL_STATUS_QUEUED : Row := ⟨0x1230, 4, 8, 7, 3, 0, 0, .ro⟩
def CL_STATUS_PC : Row := ⟨0x1230, 4, 8, 10, 14, 0, 0, .ro⟩
/-! CLk_STEP (08_figures_callers.md R228) -/
def CL_STEP_STEP : Row := ⟨0x1231, 4, 8, 0, 14, 0, 0, .ro⟩
def CL_STEP_TENANT : Row := ⟨0x1231, 4, 8, 16, 2, 0, 0, .ro⟩
/-! CLk_HELD (08_figures_callers.md R228) -/
def CL_HELD_TOKENS : Row := ⟨0x1232, 4, 8, 0, 10, 0, 0, .ro⟩
def CL_HELD_SLOTS : Row := ⟨0x1232, 4, 8, 16, 9, 0, 0, .ro⟩
/-! CLk_COUNT (08_figures_callers.md R228) -/
def CL_COUNT_PROGRAMS : Row := ⟨0x1233, 4, 8, 0, 24, 0, 0, .ro⟩
def CL_COUNT_ABORTS : Row := ⟨0x1233, 4, 8, 24, 8, 0, 0, .rc⟩

def rowsCALL : List Row :=
  [FIG_CTRL_SKIP_MAX, FIG_COMMIT_COMMIT, FIG_STATUS_BUSY, FIG_STATUS_PENDING, FIG_STATUS_DIRTY,
   FIG_EVENTS_OVERRUN, FIG_EVENTS_SKIPPED, FIG_EVENTS_ENTRY_FAULT, FIG_EVENTS_DARK, FIG_EVENTS_COMMIT_REJECT,
   FIG_EVENTS_LOST, FIG_RING_NEXT, FIG_RING_WAITING, FIG_RING_COUNT, FIG_CNT_A_FIRED, FIG_CNT_B_OVERRUN,
   FIG_CNT_B_SKIPPED, FIG_CNT_B_LATE, FIG_CNT_B_DROPPED, SB_COUNT_FREE, SB_COUNT_BUSY, SB_KIND_A_LOW,
   SB_KIND_A_HIGH, SB_KIND_B_LOW, SB_KIND_B_HIGH, SB_KIND_C_LOW, SB_KIND_C_HIGH, SB_CTRL_RESERVE, SB_PEAK_PEAK,
   SB_PEAK_WAITING, BOOK_AUDIT_RUN, BOOK_AUDIT_BUSY, BOOK_AUDIT_TOKENS_OK, BOOK_AUDIT_SLOTS_OK,
   BOOK_AUDIT_CREDITS_OK, BOOK_AUDIT_SEQ, BOOK_ERR_TOKENS, BOOK_ERR_SLOTS, BOOK_ERR_CREDITS, BOOK_CREDIT_FREE,
   BOOK_CREDIT_OUTSTANDING, BOOK_CREDIT_DEBT, BOOK_CREDIT_TOTAL, CALL_CTRL_LIMIT, CALL_CTRL_HOLD,
   CALL_STATUS_IDLE, CALL_STATUS_ALL_IDLE, CALL_PAIR_FAILED, CALL_PAIR_SPARE_FOR, CALL_EVENTS_MISMATCH,
   CALL_EVENTS_SPARED, CALL_EVENTS_NO_SPARE, CALL_EVENTS_TIMEOUT, CALL_EVENTS_FAULT, CALL_EVENTS_LOST,
   CALL_EVENTS_END_DRIVE, CALL_FAULT_PC, CALL_FAULT_CALLER, CALL_FAULT_CAUSE, CL_STATUS_STATE, CL_STATUS_PAIR,
   CL_STATUS_QUEUED, CL_STATUS_PC, CL_STEP_STEP, CL_STEP_TENANT, CL_HELD_TOKENS, CL_HELD_SLOTS, CL_COUNT_PROGRAMS,
   CL_COUNT_ABORTS]

/-! HUB_CTRL (09_sensor_hub.md R253) -/
def HUB_CTRL_INTAKE_EN : Row := ⟨0x1400, 1, 1, 0, 1, 1, 0, .rw⟩
def HUB_CTRL_STALL_MAX : Row := ⟨0x1400, 1, 1, 8, 8, 0x40, 0, .rw⟩
/-! HUB_STATUS (09_sensor_hub.md R253) -/
def HUB_STATUS_WATCHED : Row := ⟨0x1401, 1, 1, 0, 15, 0, 0, .ro⟩
def HUB_STATUS_SLOTS : Row := ⟨0x1401, 1, 1, 15, 11, 0, 0, .ro⟩
def HUB_STATUS_ENGINES : Row := ⟨0x1401, 1, 1, 26, 4, 0, 0, .ro⟩
def HUB_STATUS_BUSY : Row := ⟨0x1401, 1, 1, 30, 1, 0, 0, .ro⟩
/-! HUB_SAMPLES (09_sensor_hub.md R253) -/
def HUB_SAMPLES_COUNT : Row := ⟨0x1402, 1, 1, 0, 32, 0, 0, .ro⟩
/-! HUB_INTAKE (09_sensor_hub.md R253) -/
def HUB_INTAKE_UNWATCHED : Row := ⟨0x1403, 1, 1, 0, 16, 0, 0, .rc⟩
def HUB_INTAKE_DEFER : Row := ⟨0x1403, 1, 1, 16, 8, 0, 0, .rc⟩
def HUB_INTAKE_WIRED_DROP : Row := ⟨0x1403, 1, 1, 24, 8, 0, 0, .rc⟩
/-! HUB_FIFO (09_sensor_hub.md R253) -/
def HUB_FIFO_LEVEL : Row := ⟨0x1404, 1, 1, 0, 10, 0, 0, .ro⟩
def HUB_FIFO_PEAK : Row := ⟨0x1404, 1, 1, 16, 10, 0, 0, .rc⟩
/-! HUB_BANKSEL (09_sensor_hub.md R253) -/
def HUB_BANKSEL_LATCHED : Row := ⟨0x1405, 1, 1, 0, 6, 0, 0, .ro⟩
/-! HUB_ERR (09_sensor_hub.md R253) -/
def HUB_ERR_HOPS : Row := ⟨0x1406, 1, 1, 0, 8, 0, 0, .rc⟩
def HUB_ERR_TYPE_ERR : Row := ⟨0x1406, 1, 1, 8, 8, 0, 0, .rc⟩
def HUB_ERR_SWAP_DROP : Row := ⟨0x1406, 1, 1, 16, 8, 0, 0, .rc⟩
def HUB_ERR_ECC : Row := ⟨0x1406, 1, 1, 24, 8, 0, 0, .rc⟩
/-! HUB_QDROP (09_sensor_hub.md R253) -/
def HUB_QDROP_CUT : Row := ⟨0x1407, 1, 1, 0, 16, 0, 0, .rc⟩
def HUB_QDROP_MISROUTE : Row := ⟨0x1407, 1, 1, 16, 16, 0, 0, .rc⟩
/-! HUB_ANGLE (09_sensor_hub.md R253) -/
def HUB_ANGLE_EST : Row := ⟨0x1408, 1, 1, 0, 16, 0, 0, .rc⟩
def HUB_ANGLE_INVALID : Row := ⟨0x1408, 1, 1, 16, 16, 0, 0, .rc⟩
/-! HUB_ENGe (09_sensor_hub.md R253) -/
def HUB_ENG_LOAD : Row := ⟨0x1410, 1, 4, 0, 8, 0, 0, .ro⟩
def HUB_ENG_INBOX : Row := ⟨0x1410, 1, 4, 8, 9, 0, 0, .ro⟩
def HUB_ENG_STALL_DROP : Row := ⟨0x1410, 1, 4, 24, 8, 0, 0, .rc⟩
/-! HUB_EVTt (09_sensor_hub.md R253) -/
def HUB_EVT_COUNT : Row := ⟨0x1418, 1, 4, 0, 16, 0, 0, .rc⟩
def HUB_EVT_PEND : Row := ⟨0x1418, 1, 4, 16, 1, 0, 0, .w1c⟩
def HUB_EVT_MASK : Row := ⟨0x1418, 1, 4, 17, 1, 0, 0, .rw⟩

def rowsHUB : List Row :=
  [HUB_CTRL_INTAKE_EN, HUB_CTRL_STALL_MAX, HUB_STATUS_WATCHED, HUB_STATUS_SLOTS, HUB_STATUS_ENGINES,
   HUB_STATUS_BUSY, HUB_SAMPLES_COUNT, HUB_INTAKE_UNWATCHED, HUB_INTAKE_DEFER, HUB_INTAKE_WIRED_DROP,
   HUB_FIFO_LEVEL, HUB_FIFO_PEAK, HUB_BANKSEL_LATCHED, HUB_ERR_HOPS, HUB_ERR_TYPE_ERR, HUB_ERR_SWAP_DROP,
   HUB_ERR_ECC, HUB_QDROP_CUT, HUB_QDROP_MISROUTE, HUB_ANGLE_EST, HUB_ANGLE_INVALID, HUB_ENG_LOAD, HUB_ENG_INBOX,
   HUB_ENG_STALL_DROP, HUB_EVT_COUNT, HUB_EVT_PEND, HUB_EVT_MASK]

/-! QnDATA (10_queues_pool.md R271) -/
def Q_DATA_WORD : Row := ⟨0x1800, 8, 64, 0, 32, 0, 0, .rw⟩
/-! QnSTAT (10_queues_pool.md R271) -/
def Q_STAT_DEPTH : Row := ⟨0x1802, 8, 64, 0, 19, 0, 0, .ro⟩
def Q_STAT_KIND : Row := ⟨0x1802, 8, 64, 19, 1, 0, 0, .rs⟩
def Q_STAT_KHIST : Row := ⟨0x1802, 8, 64, 20, 4, 0, 0, .rs⟩
def Q_STAT_PENDING : Row := ⟨0x1802, 8, 64, 24, 1, 0, 0, .ro⟩
def Q_STAT_FULL : Row := ⟨0x1802, 8, 64, 25, 1, 0, 0, .ro⟩
def Q_STAT_STARVED : Row := ⟨0x1802, 8, 64, 26, 1, 0, 0, .ro⟩
def Q_STAT_UNDER : Row := ⟨0x1802, 8, 64, 27, 1, 0, 0, .w1c⟩
/-! QnCFG (10_queues_pool.md R271) -/
def Q_CFG_OWNER : Row := ⟨0x1803, 8, 64, 0, 8, 0, 0, .ro⟩
def Q_CFG_SOURCE : Row := ⟨0x1803, 8, 64, 8, 3, 0, 0, .ro⟩
def Q_CFG_STREAM : Row := ⟨0x1803, 8, 64, 11, 1, 0, 0, .ro⟩
def Q_CFG_THR_IRQ : Row := ⟨0x1803, 8, 64, 12, 1, 0, 0, .ro⟩
def Q_CFG_THRESHOLD : Row := ⟨0x1803, 8, 64, 16, 16, 0, 0, .ro⟩
/-! QnCELLS (10_queues_pool.md R271) -/
def Q_CELLS_CELLS : Row := ⟨0x1804, 8, 64, 0, 17, 0, 0, .ro⟩
/-! QnEVT (10_queues_pool.md R271) -/
def Q_EVT_THR : Row := ⟨0x1805, 8, 64, 0, 1, 0, 0, .w1c⟩
def Q_EVT_DROP : Row := ⟨0x1805, 8, 64, 1, 1, 0, 0, .w1c⟩
def Q_EVT_DIR_ERR : Row := ⟨0x1805, 8, 64, 2, 1, 0, 0, .w1c⟩
def Q_EVT_LOST : Row := ⟨0x1805, 8, 64, 3, 1, 0, 0, .w1c⟩
def Q_EVT_MASK : Row := ⟨0x1805, 8, 64, 4, 1, 0, 0, .rw⟩
def Q_EVT_RESET : Row := ⟨0x1805, 8, 64, 5, 1, 0, 0, .wo⟩
def Q_EVT_CELL_LIMIT : Row := ⟨0x1805, 8, 64, 16, 16, 0, 0, .ro⟩
/-! QnDROPS (10_queues_pool.md R271) -/
def Q_DROPS_DROPPED : Row := ⟨0x1806, 8, 64, 0, 16, 0, 0, .rc⟩
def Q_DROPS_RESETS : Row := ⟨0x1806, 8, 64, 16, 8, 0, 0, .rc⟩
def Q_DROPS_UNDERRUNS : Row := ⟨0x1806, 8, 64, 24, 8, 0, 0, .rc⟩
/-! POOL_FREE (10_queues_pool.md R271) -/
def POOL_FREE_FREE : Row := ⟨0x1807, 1, 1, 0, 17, 0x10000, 0, .ro⟩
/-! POOL_HELD (10_queues_pool.md R271) -/
def POOL_HELD_QUEUED : Row := ⟨0x180f, 1, 1, 0, 17, 0, 0, .ro⟩
def POOL_HELD_COMBINER : Row := ⟨0x180f, 1, 1, 17, 4, 0, 0, .ro⟩
/-! POOL_LOW (10_queues_pool.md R271) -/
def POOL_LOW_LOW : Row := ⟨0x1817, 1, 1, 0, 17, 0x1000, 0, .rw⟩
/-! POOL_MIN (10_queues_pool.md R271) -/
def POOL_MIN_MIN_FREE : Row := ⟨0x181f, 1, 1, 0, 17, 0x10000, 0, .rc⟩
/-! POOL_EVENTS (10_queues_pool.md R271) -/
def POOL_EVENTS_LOW : Row := ⟨0x1827, 1, 1, 0, 1, 0, 0, .w1c⟩
def POOL_EVENTS_EXHAUST : Row := ⟨0x1827, 1, 1, 1, 1, 0, 0, .w1c⟩
def POOL_EVENTS_AUDIT_FAIL : Row := ⟨0x1827, 1, 1, 2, 1, 0, 0, .w1c⟩
def POOL_EVENTS_RECLAIM : Row := ⟨0x1827, 1, 1, 3, 1, 0, 0, .w1c⟩
/-! POOL_AUDIT (10_queues_pool.md R271) -/
def POOL_AUDIT_RUN : Row := ⟨0x182f, 1, 1, 0, 1, 0, 0, .wo⟩
def POOL_AUDIT_BUSY : Row := ⟨0x182f, 1, 1, 1, 1, 0, 0, .ro⟩
def POOL_AUDIT_OK : Row := ⟨0x182f, 1, 1, 2, 1, 1, 0, .ro⟩
def POOL_AUDIT_SEQ : Row := ⟨0x182f, 1, 1, 16, 16, 0, 0, .ro⟩
/-! POOL_ERR (10_queues_pool.md R271) -/
def POOL_ERR_FAILS : Row := ⟨0x1837, 1, 1, 0, 8, 0, 0, .rc⟩
def POOL_ERR_ECC : Row := ⟨0x1837, 1, 1, 8, 8, 0, 0, .rc⟩
def POOL_ERR_RECLAIMED : Row := ⟨0x1837, 1, 1, 16, 16, 0, 0, .rc⟩
/-! POOL_STARVE (10_queues_pool.md R271) -/
def POOL_STARVE_DROPS : Row := ⟨0x183f, 1, 1, 0, 16, 0, 0, .rc⟩

def rowsQUE : List Row :=
  [Q_DATA_WORD, Q_STAT_DEPTH, Q_STAT_KIND, Q_STAT_KHIST, Q_STAT_PENDING, Q_STAT_FULL, Q_STAT_STARVED,
   Q_STAT_UNDER, Q_CFG_OWNER, Q_CFG_SOURCE, Q_CFG_STREAM, Q_CFG_THR_IRQ, Q_CFG_THRESHOLD, Q_CELLS_CELLS,
   Q_EVT_THR, Q_EVT_DROP, Q_EVT_DIR_ERR, Q_EVT_LOST, Q_EVT_MASK, Q_EVT_RESET, Q_EVT_CELL_LIMIT, Q_DROPS_DROPPED,
   Q_DROPS_RESETS, Q_DROPS_UNDERRUNS, POOL_FREE_FREE, POOL_HELD_QUEUED, POOL_HELD_COMBINER, POOL_LOW_LOW,
   POOL_MIN_MIN_FREE, POOL_EVENTS_LOW, POOL_EVENTS_EXHAUST, POOL_EVENTS_AUDIT_FAIL, POOL_EVENTS_RECLAIM,
   POOL_AUDIT_RUN, POOL_AUDIT_BUSY, POOL_AUDIT_OK, POOL_AUDIT_SEQ, POOL_ERR_FAILS, POOL_ERR_ECC,
   POOL_ERR_RECLAIMED, POOL_STARVE_DROPS]

/-! HOSTn_ID (11_hosts_tenancy.md R300) -/
def HOST_ID_TENANT : Row := ⟨0x400, 256, 4, 0, 2, 0, 0, .ro⟩
def HOST_ID_PORT : Row := ⟨0x400, 256, 4, 2, 2, 0, 0, .ro⟩
def HOST_ID_ADDR : Row := ⟨0x400, 256, 4, 4, 7, 0, 0, .ro⟩
def HOST_ID_QUAD : Row := ⟨0x400, 256, 4, 11, 1, 0, 0, .ro⟩
def HOST_ID_HINT : Row := ⟨0x400, 256, 4, 12, 2, 0, 0, .ro⟩
/-! HOSTn_STATUS (11_hosts_tenancy.md R300) -/
def HOST_STATUS_OPEN : Row := ⟨0x401, 256, 4, 0, 1, 0, 0, .ro⟩
def HOST_STATUS_WRAP : Row := ⟨0x401, 256, 4, 1, 1, 0, 0, .w1c⟩
def HOST_STATUS_UNDERRUN : Row := ⟨0x401, 256, 4, 2, 1, 0, 0, .w1c⟩
def HOST_STATUS_PARTIAL : Row := ⟨0x401, 256, 4, 3, 1, 0, 0, .w1c⟩
def HOST_STATUS_VERSION : Row := ⟨0x401, 256, 4, 8, 8, 0, 0, .ro⟩
def HOST_STATUS_FEATURES : Row := ⟨0x401, 256, 4, 16, 4, 0, 0, .ro⟩
def HOST_STATUS_REQ : Row := ⟨0x401, 256, 4, 20, 1, 0, 0, .ro⟩
/-! HOSTn_ERR (11_hosts_tenancy.md R300) -/
def HOST_ERR_PERM : Row := ⟨0x402, 256, 4, 0, 1, 0, 0, .w1c⟩
def HOST_ERR_DARK : Row := ⟨0x402, 256, 4, 1, 1, 0, 0, .w1c⟩
def HOST_ERR_PAGE_NACK : Row := ⟨0x402, 256, 4, 2, 1, 0, 0, .w1c⟩
def HOST_ERR_PARTIAL_WR : Row := ⟨0x402, 256, 4, 3, 1, 0, 0, .w1c⟩
def HOST_ERR_LENGTH : Row := ⟨0x402, 256, 4, 4, 1, 0, 0, .w1c⟩
def HOST_ERR_NO_CREDIT : Row := ⟨0x402, 256, 4, 5, 1, 0, 0, .w1c⟩
def HOST_ERR_LOST_CMD : Row := ⟨0x402, 256, 4, 6, 1, 0, 0, .w1c⟩
def HOST_ERR_STREAM : Row := ⟨0x402, 256, 4, 7, 1, 0, 0, .w1c⟩
def HOST_ERR_FRAME : Row := ⟨0x402, 256, 4, 8, 1, 0, 0, .w1c⟩
def HOST_ERR_COMMONS : Row := ⟨0x402, 256, 4, 9, 1, 0, 0, .w1c⟩
/-! HOSTn_ERR_ADDR (11_hosts_tenancy.md R300) -/
def HOST_ERR_ADDR_ADDR : Row := ⟨0x403, 256, 4, 0, 16, 0, 0, .rs⟩
def HOST_ERR_ADDR_KIND : Row := ⟨0x403, 256, 4, 16, 1, 0, 0, .rs⟩
def HOST_ERR_ADDR_WRITE : Row := ⟨0x403, 256, 4, 17, 1, 0, 0, .rs⟩
/-! HOSTn_IRQ (11_hosts_tenancy.md R300) -/
def HOST_IRQ_HUB : Row := ⟨0x404, 256, 4, 0, 1, 0, 0, .ro⟩
def HOST_IRQ_QUEUE : Row := ⟨0x404, 256, 4, 1, 1, 0, 0, .ro⟩
def HOST_IRQ_ANS : Row := ⟨0x404, 256, 4, 2, 1, 0, 0, .ro⟩
def HOST_IRQ_REEL : Row := ⟨0x404, 256, 4, 3, 1, 0, 0, .ro⟩
def HOST_IRQ_EN : Row := ⟨0x404, 256, 4, 8, 4, 0xb, 0, .rw⟩
def HOST_IRQ_POL : Row := ⟨0x404, 256, 4, 12, 1, 0, 0, .rw⟩
def HOST_IRQ_REEL_ACK : Row := ⟨0x404, 256, 4, 13, 1, 0, 0, .wo⟩
/-! HOSTn_CNT (11_hosts_tenancy.md R300) -/
def HOST_CNT_ACCEPTED : Row := ⟨0x405, 256, 4, 0, 16, 0, 0, .rc⟩
def HOST_CNT_REFUSED : Row := ⟨0x405, 256, 4, 16, 16, 0, 0, .rc⟩
/-! HOSTn_UR (11_hosts_tenancy.md R300) -/
def HOST_UR_FIRST : Row := ⟨0x406, 256, 4, 0, 16, 0, 0, .rs⟩
def HOST_UR_COUNT : Row := ⟨0x406, 256, 4, 16, 16, 0, 0, .rc⟩
/-! HOSTn_ACKERR (11_hosts_tenancy.md R300) -/
def HOST_ACKERR_ACK_START : Row := ⟨0x407, 256, 4, 0, 8, 0, 0, .rc⟩
def HOST_ACKERR_BUSY_NACK : Row := ⟨0x407, 256, 4, 8, 8, 0, 0, .rc⟩
/-! HOSTn_REQ (11_hosts_tenancy.md R300) -/
def HOST_REQ_INT : Row := ⟨0x408, 256, 4, 0, 8, 1, 0, .rw⟩
def HOST_REQ_CLASH : Row := ⟨0x408, 256, 4, 8, 8, 0, 0, .rc⟩
/-! HOSTn_WINA_BASE (11_hosts_tenancy.md R300) -/
def HOST_WINA_BASE_BASE : Row := ⟨0x40c, 256, 4, 0, 20, 0, 0, .rw⟩
/-! HOSTn_WINB_BASE (11_hosts_tenancy.md R300) -/
def HOST_WINB_BASE_BASE : Row := ⟨0x40d, 256, 4, 0, 20, 0, 0, .rw⟩
/-! HOSTn_WINC_BASE (11_hosts_tenancy.md R300) -/
def HOST_WINC_BASE_BASE : Row := ⟨0x40e, 256, 4, 0, 20, 0, 0, .rw⟩
/-! HOSTn_CMD (11_hosts_tenancy.md R300) -/
def HOST_CMD_WORD : Row := ⟨0x440, 256, 4, 0, 32, 0, 0, .wo⟩
/-! HOSTn_ANS (11_hosts_tenancy.md R300) -/
def HOST_ANS_WORD : Row := ⟨0x480, 256, 4, 0, 32, 0xffffffff, 0, .ro⟩

def rowsHOST : List Row :=
  [HOST_ID_TENANT, HOST_ID_PORT, HOST_ID_ADDR, HOST_ID_QUAD, HOST_ID_HINT, HOST_STATUS_OPEN, HOST_STATUS_WRAP,
   HOST_STATUS_UNDERRUN, HOST_STATUS_PARTIAL, HOST_STATUS_VERSION, HOST_STATUS_FEATURES, HOST_STATUS_REQ,
   HOST_ERR_PERM, HOST_ERR_DARK, HOST_ERR_PAGE_NACK, HOST_ERR_PARTIAL_WR, HOST_ERR_LENGTH, HOST_ERR_NO_CREDIT,
   HOST_ERR_LOST_CMD, HOST_ERR_STREAM, HOST_ERR_FRAME, HOST_ERR_COMMONS, HOST_ERR_ADDR_ADDR, HOST_ERR_ADDR_KIND,
   HOST_ERR_ADDR_WRITE, HOST_IRQ_HUB, HOST_IRQ_QUEUE, HOST_IRQ_ANS, HOST_IRQ_REEL, HOST_IRQ_EN, HOST_IRQ_POL,
   HOST_IRQ_REEL_ACK, HOST_CNT_ACCEPTED, HOST_CNT_REFUSED, HOST_UR_FIRST, HOST_UR_COUNT, HOST_ACKERR_ACK_START,
   HOST_ACKERR_BUSY_NACK, HOST_REQ_INT, HOST_REQ_CLASH, HOST_WINA_BASE_BASE, HOST_WINB_BASE_BASE,
   HOST_WINC_BASE_BASE, HOST_CMD_WORD, HOST_ANS_WORD]

/-! SBUS_CTRL (12_sensor_buses.md R317) -/
def SBUS_CTRL_POLL_EN : Row := ⟨0x1a00, 1, 1, 0, 1, 0, 0, .rw⟩
def SBUS_CTRL_BUS_RESET : Row := ⟨0x1a00, 1, 1, 4, 4, 0, 0, .wo⟩
/-! SBUS_STATUS (12_sensor_buses.md R317) -/
def SBUS_STATUS_BUSY : Row := ⟨0x1a01, 1, 1, 0, 4, 0, 0, .ro⟩
def SBUS_STATUS_ENABLED : Row := ⟨0x1a01, 1, 1, 4, 4, 0, 0, .ro⟩
def SBUS_STATUS_WAITING : Row := ⟨0x1a01, 1, 1, 8, 8, 0, 0, .ro⟩
/-! SBUS_EVENTS (12_sensor_buses.md R317) -/
def SBUS_EVENTS_ERR : Row := ⟨0x1a02, 1, 1, 0, 4, 0, 0, .w1c⟩
def SBUS_EVENTS_POLL_SKIP : Row := ⟨0x1a02, 1, 1, 4, 1, 0, 0, .w1c⟩
def SBUS_EVENTS_SLOT_SKIP : Row := ⟨0x1a02, 1, 1, 5, 1, 0, 0, .w1c⟩
/-! SBUS_PINS (12_sensor_buses.md R317) -/
def SBUS_PINS_GPIO : Row := ⟨0x1a03, 1, 1, 0, 16, 0, 0, .ro⟩
def SBUS_PINS_KP : Row := ⟨0x1a03, 1, 1, 16, 8, 0, 0, .ro⟩
/-! SBUS_GPIO_OUT (12_sensor_buses.md R317) -/
def SBUS_GPIO_OUT_LEVEL : Row := ⟨0x1a04, 1, 1, 0, 16, 0, 0, .rw⟩
/-! SBUS_TWIx (12_sensor_buses.md R317) -/
def SBUS_TWI_SCL_LOW : Row := ⟨0x1a08, 1, 2, 0, 1, 0, 0, .w1c⟩
def SBUS_TWI_SDA_LOW : Row := ⟨0x1a08, 1, 2, 1, 1, 0, 0, .w1c⟩
def SBUS_TWI_WAITED : Row := ⟨0x1a08, 1, 2, 2, 1, 0, 0, .w1c⟩
def SBUS_TWI_ARB : Row := ⟨0x1a08, 1, 2, 3, 1, 0, 0, .w1c⟩
def SBUS_TWI_NACKS : Row := ⟨0x1a08, 1, 2, 8, 8, 0, 0, .rc⟩
def SBUS_TWI_ARB_LOSSES : Row := ⟨0x1a08, 1, 2, 16, 8, 0, 0, .rc⟩
def SBUS_TWI_CURES : Row := ⟨0x1a08, 1, 2, 24, 8, 0, 0, .rc⟩
/-! SBUS_BUSx_CNT (12_sensor_buses.md R317) -/
def SBUS_BUS_CNT_OK : Row := ⟨0x1a0c, 1, 4, 0, 16, 0, 0, .rc⟩
def SBUS_BUS_CNT_FAILED : Row := ⟨0x1a0c, 1, 4, 16, 16, 0, 0, .rc⟩
/-! SBUS_BUSx_LAST (12_sensor_buses.md R317) -/
def SBUS_BUS_LAST_RESULT : Row := ⟨0x1a10, 1, 4, 0, 32, 0, 0, .rs⟩
/-! SBUS_INk (12_sensor_buses.md R317) -/
def SBUS_IN_EN : Row := ⟨0x1a20, 1, 24, 0, 1, 0, 0, .rw⟩
def SBUS_IN_PERIOD : Row := ⟨0x1a20, 1, 24, 1, 1, 0, 0, .rw⟩
def SBUS_IN_FILTER : Row := ⟨0x1a20, 1, 24, 2, 7, 8, 0, .rw⟩
def SBUS_IN_CH : Row := ⟨0x1a20, 1, 24, 9, 8, 0, 0, .rw⟩
/-! SBUS_POLLp_CFG (12_sensor_buses.md R317) -/
def SBUS_POLL_CFG_EN : Row := ⟨0x1a40, 4, 16, 0, 1, 0, 0, .rw⟩
def SBUS_POLL_CFG_BUS : Row := ⟨0x1a40, 4, 16, 1, 2, 0, 0, .rw⟩
def SBUS_POLL_CFG_DESC : Row := ⟨0x1a40, 4, 16, 8, 8, 0, 0, .rw⟩
/-! SBUS_POLLp_PERIOD (12_sensor_buses.md R317) -/
def SBUS_POLL_PERIOD_TICKS : Row := ⟨0x1a41, 4, 16, 0, 32, 0x100, 0, .rw⟩
/-! SBUS_POLLp_PHASE (12_sensor_buses.md R317) -/
def SBUS_POLL_PHASE_TICKS : Row := ⟨0x1a42, 4, 16, 0, 32, 0, 0, .rw⟩
/-! SBUS_POLLp_STAT (12_sensor_buses.md R317) -/
def SBUS_POLL_STAT_RESULT : Row := ⟨0x1a43, 4, 16, 0, 4, 0, 0, .rs⟩
def SBUS_POLL_STAT_SKIPS : Row := ⟨0x1a43, 4, 16, 8, 8, 0, 0, .rc⟩
def SBUS_POLL_STAT_RUNS : Row := ⟨0x1a43, 4, 16, 16, 16, 0, 0, .ro⟩
/-! SBUS_DESC (12_sensor_buses.md R317) -/
def SBUS_DESC_WORD : Row := ⟨0x1b00, 1, 256, 0, 32, 0, 0, .rw⟩

def rowsSBUS : List Row :=
  [SBUS_CTRL_POLL_EN, SBUS_CTRL_BUS_RESET, SBUS_STATUS_BUSY, SBUS_STATUS_ENABLED, SBUS_STATUS_WAITING,
   SBUS_EVENTS_ERR, SBUS_EVENTS_POLL_SKIP, SBUS_EVENTS_SLOT_SKIP, SBUS_PINS_GPIO, SBUS_PINS_KP,
   SBUS_GPIO_OUT_LEVEL, SBUS_TWI_SCL_LOW, SBUS_TWI_SDA_LOW, SBUS_TWI_WAITED, SBUS_TWI_ARB, SBUS_TWI_NACKS,
   SBUS_TWI_ARB_LOSSES, SBUS_TWI_CURES, SBUS_BUS_CNT_OK, SBUS_BUS_CNT_FAILED, SBUS_BUS_LAST_RESULT, SBUS_IN_EN,
   SBUS_IN_PERIOD, SBUS_IN_FILTER, SBUS_IN_CH, SBUS_POLL_CFG_EN, SBUS_POLL_CFG_BUS, SBUS_POLL_CFG_DESC,
   SBUS_POLL_PERIOD_TICKS, SBUS_POLL_PHASE_TICKS, SBUS_POLL_STAT_RESULT, SBUS_POLL_STAT_SKIPS,
   SBUS_POLL_STAT_RUNS, SBUS_DESC_WORD]

/-! PWR_CMD (13_power_clocks_wake.md R346) -/
def PWR_CMD_ENTER : Row := ⟨0x100, 1, 1, 0, 1, 0, 0, .wo⟩
def PWR_CMD_CLEAR_LOG : Row := ⟨0x100, 1, 1, 1, 1, 0, 0, .wo⟩
/-! PWR_OFF_MASK (13_power_clocks_wake.md R346) -/
def PWR_OFF_MASK_DOMAIN : Row := ⟨0x101, 1, 1, 1, 12, 0, 0, .rw⟩
/-! PWR_BANK_OFF (13_power_clocks_wake.md R346) -/
def PWR_BANK_OFF_BANK : Row := ⟨0x102, 1, 1, 0, 24, 0, 0, .rw⟩
/-! PWR_BANK_RET (13_power_clocks_wake.md R346) -/
def PWR_BANK_RET_BANK : Row := ⟨0x103, 1, 1, 0, 24, 0, 0, .rw⟩
/-! PWR_STATE_A (13_power_clocks_wake.md R346) -/
def PWR_STATE_A_STATE0 : Row := ⟨0x104, 1, 1, 0, 2, 1, 0, .ro⟩
def PWR_STATE_A_STATE1 : Row := ⟨0x104, 1, 1, 2, 2, 1, 0, .ro⟩
def PWR_STATE_A_STATE2 : Row := ⟨0x104, 1, 1, 4, 2, 1, 0, .ro⟩
def PWR_STATE_A_STATE3 : Row := ⟨0x104, 1, 1, 6, 2, 1, 0, .ro⟩
def PWR_STATE_A_STATE4 : Row := ⟨0x104, 1, 1, 8, 2, 1, 0, .ro⟩
def PWR_STATE_A_STATE5 : Row := ⟨0x104, 1, 1, 10, 2, 1, 0, .ro⟩
def PWR_STATE_A_STATE6 : Row := ⟨0x104, 1, 1, 12, 2, 1, 0, .ro⟩
def PWR_STATE_A_STATE7 : Row := ⟨0x104, 1, 1, 14, 2, 1, 0, .ro⟩
def PWR_STATE_A_STATE8 : Row := ⟨0x104, 1, 1, 16, 2, 1, 0, .ro⟩
def PWR_STATE_A_STATE9 : Row := ⟨0x104, 1, 1, 18, 2, 1, 0, .ro⟩
def PWR_STATE_A_STATE10 : Row := ⟨0x104, 1, 1, 20, 2, 1, 0, .ro⟩
def PWR_STATE_A_STATE11 : Row := ⟨0x104, 1, 1, 22, 2, 1, 0, .ro⟩
def PWR_STATE_A_STATE12 : Row := ⟨0x104, 1, 1, 24, 2, 1, 0, .ro⟩
/-! PWR_STATE_B (13_power_clocks_wake.md R346) -/
def PWR_STATE_B_STATE0 : Row := ⟨0x105, 1, 1, 0, 2, 1, 0, .ro⟩
def PWR_STATE_B_STATE1 : Row := ⟨0x105, 1, 1, 2, 2, 1, 0, .ro⟩
def PWR_STATE_B_STATE2 : Row := ⟨0x105, 1, 1, 4, 2, 1, 0, .ro⟩
def PWR_STATE_B_STATE3 : Row := ⟨0x105, 1, 1, 6, 2, 1, 0, .ro⟩
def PWR_STATE_B_STATE4 : Row := ⟨0x105, 1, 1, 8, 2, 1, 0, .ro⟩
def PWR_STATE_B_STATE5 : Row := ⟨0x105, 1, 1, 10, 2, 1, 0, .ro⟩
def PWR_STATE_B_STATE6 : Row := ⟨0x105, 1, 1, 12, 2, 1, 0, .ro⟩
def PWR_STATE_B_STATE7 : Row := ⟨0x105, 1, 1, 14, 2, 1, 0, .ro⟩
def PWR_STATE_B_STATE8 : Row := ⟨0x105, 1, 1, 16, 2, 1, 0, .ro⟩
def PWR_STATE_B_STATE9 : Row := ⟨0x105, 1, 1, 18, 2, 1, 0, .ro⟩
def PWR_STATE_B_STATE10 : Row := ⟨0x105, 1, 1, 20, 2, 1, 0, .ro⟩
def PWR_STATE_B_STATE11 : Row := ⟨0x105, 1, 1, 22, 2, 1, 0, .ro⟩
def PWR_STATE_B_STATE12 : Row := ⟨0x105, 1, 1, 24, 2, 1, 0, .ro⟩
def PWR_STATE_B_STATE13 : Row := ⟨0x105, 1, 1, 26, 2, 1, 0, .ro⟩
def PWR_STATE_B_STATE14 : Row := ⟨0x105, 1, 1, 28, 2, 1, 0, .ro⟩
def PWR_STATE_B_STATE15 : Row := ⟨0x105, 1, 1, 30, 2, 1, 0, .ro⟩
/-! PWR_STATE_C (13_power_clocks_wake.md R346) -/
def PWR_STATE_C_STATE0 : Row := ⟨0x106, 1, 1, 0, 2, 1, 0, .ro⟩
def PWR_STATE_C_STATE1 : Row := ⟨0x106, 1, 1, 2, 2, 1, 0, .ro⟩
def PWR_STATE_C_STATE2 : Row := ⟨0x106, 1, 1, 4, 2, 1, 0, .ro⟩
def PWR_STATE_C_STATE3 : Row := ⟨0x106, 1, 1, 6, 2, 1, 0, .ro⟩
def PWR_STATE_C_STATE4 : Row := ⟨0x106, 1, 1, 8, 2, 1, 0, .ro⟩
def PWR_STATE_C_STATE5 : Row := ⟨0x106, 1, 1, 10, 2, 1, 0, .ro⟩
def PWR_STATE_C_STATE6 : Row := ⟨0x106, 1, 1, 12, 2, 1, 0, .ro⟩
def PWR_STATE_C_STATE7 : Row := ⟨0x106, 1, 1, 14, 2, 1, 0, .ro⟩
/-! PWR_STATUS (13_power_clocks_wake.md R346) -/
def PWR_STATUS_ENTRY : Row := ⟨0x107, 1, 1, 0, 3, 0, 0, .ro⟩
def PWR_STATUS_WAKING : Row := ⟨0x107, 1, 1, 3, 1, 0, 0, .ro⟩
def PWR_STATUS_SEQ_ERR : Row := ⟨0x107, 1, 1, 4, 1, 0, 0, .w1c⟩
def PWR_STATUS_REFUSER : Row := ⟨0x107, 1, 1, 5, 6, 0, 0, .ro⟩
def PWR_STATUS_REASON : Row := ⟨0x107, 1, 1, 16, 8, 0, 0, .ro⟩
/-! PWR_WAKE_SRC (13_power_clocks_wake.md R346) -/
def PWR_WAKE_SRC_EN : Row := ⟨0x108, 1, 1, 0, 13, 0x1c00, 0, .rw⟩
/-! PWR_WAKE_POL (13_power_clocks_wake.md R346) -/
def PWR_WAKE_POL_POL : Row := ⟨0x109, 1, 1, 0, 8, 0, 0, .rw⟩
def PWR_WAKE_POL_EDGE : Row := ⟨0x109, 1, 1, 8, 8, 0, 0, .rw⟩
/-! PWR_WAKE_CAUSE (13_power_clocks_wake.md R346) -/
def PWR_WAKE_CAUSE_SRC : Row := ⟨0x10a, 1, 1, 0, 13, 0, 0, .w1c⟩
def PWR_WAKE_CAUSE_ENTRY_WAKE : Row := ⟨0x10a, 1, 1, 13, 1, 0, 0, .w1c⟩
def PWR_WAKE_CAUSE_POR : Row := ⟨0x10a, 1, 1, 14, 1, 1, 0, .w1c⟩
def PWR_WAKE_CAUSE_WAKE_FAULT : Row := ⟨0x10a, 1, 1, 15, 1, 0, 0, .w1c⟩
/-! PWR_TIMER (13_power_clocks_wake.md R346) -/
def PWR_TIMER_TICKS : Row := ⟨0x10b, 1, 1, 0, 32, 0, 0, .rw⟩
/-! PWR_REENTER (13_power_clocks_wake.md R346) -/
def PWR_REENTER_IDLE_MS : Row := ⟨0x10c, 1, 1, 0, 16, 0x64, 0, .rw⟩
def PWR_REENTER_EN : Row := ⟨0x10c, 1, 1, 16, 1, 0, 0, .rw⟩
/-! PWR_FAULT (13_power_clocks_wake.md R346) -/
def PWR_FAULT_DOMAIN : Row := ⟨0x10d, 1, 1, 0, 6, 0, 0, .rs⟩
def PWR_FAULT_REG_FAIL : Row := ⟨0x10d, 1, 1, 6, 1, 0, 0, .w1c⟩
def PWR_FAULT_BACKUP_FAIL : Row := ⟨0x10d, 1, 1, 7, 1, 0, 0, .w1c⟩
def PWR_FAULT_BACKUP_USED : Row := ⟨0x10d, 1, 1, 8, 1, 0, 0, .w1c⟩
def PWR_FAULT_XREF_FAIL : Row := ⟨0x10d, 1, 1, 9, 1, 0, 0, .w1c⟩
def PWR_FAULT_PLL_FAIL : Row := ⟨0x10d, 1, 1, 10, 1, 0, 0, .w1c⟩
def PWR_FAULT_ACLK_XTAL : Row := ⟨0x10d, 1, 1, 11, 1, 0, 0, .w1c⟩
def PWR_FAULT_RET_FAIL : Row := ⟨0x10d, 1, 1, 12, 1, 0, 0, .w1c⟩
def PWR_FAULT_RET_LOST : Row := ⟨0x10d, 1, 1, 13, 1, 0, 0, .w1c⟩
def PWR_FAULT_COUNT : Row := ⟨0x10d, 1, 1, 16, 8, 0, 0, .rc⟩
/-! PWR_BIAS (13_power_clocks_wake.md R346) -/
def PWR_BIAS_BB_ON : Row := ⟨0x10e, 1, 1, 0, 8, 0, 0, .ro⟩
def PWR_BIAS_BB_RET : Row := ⟨0x10e, 1, 1, 8, 8, 0x9c, 0, .rw⟩
def PWR_BIAS_ASSIST_MV : Row := ⟨0x10e, 1, 1, 16, 12, 0x316, 0, .rw⟩
def PWR_BIAS_ASSIST : Row := ⟨0x10e, 1, 1, 28, 1, 0, 0, .ro⟩
def PWR_BIAS_BB_AUTO : Row := ⟨0x10e, 1, 1, 29, 1, 1, 0, .rw⟩
/-! PWR_ENCORE (13_power_clocks_wake.md R346) -/
def PWR_ENCORE_KEPT : Row := ⟨0x10f, 1, 1, 0, 8, 0, 0, .ro⟩
def PWR_ENCORE_CUT : Row := ⟨0x10f, 1, 1, 8, 1, 0, 0, .ro⟩
def PWR_ENCORE_HDR_OK : Row := ⟨0x10f, 1, 1, 9, 1, 0, 0, .ro⟩
def PWR_ENCORE_BAD_PAGES : Row := ⟨0x10f, 1, 1, 16, 16, 0, 0, .ro⟩
/-! PWR_REFCNTk (13_power_clocks_wake.md R346) -/
def PWR_REFCNT_COUNT0 : Row := ⟨0x110, 1, 10, 0, 8, 0, 0, .rc⟩
def PWR_REFCNT_COUNT1 : Row := ⟨0x110, 1, 10, 8, 8, 0, 0, .rc⟩
def PWR_REFCNT_COUNT2 : Row := ⟨0x110, 1, 10, 16, 8, 0, 0, .rc⟩
def PWR_REFCNT_COUNT3 : Row := ⟨0x110, 1, 10, 24, 8, 0, 0, .rc⟩
/-! PWR_ENCORE_CEN (13_power_clocks_wake.md R346) -/
def PWR_ENCORE_CEN_KEPT : Row := ⟨0x11a, 1, 1, 0, 13, 0, 0, .ro⟩
def PWR_ENCORE_CEN_ALL : Row := ⟨0x11a, 1, 1, 16, 13, 0, 0, .ro⟩
/-! PWR_WMAPj (13_power_clocks_wake.md R346) -/
def PWR_WMAP_MAP_LO : Row := ⟨0x120, 1, 7, 1, 12, 0x701, 0, .rw⟩
def PWR_WMAP_MAP_HI : Row := ⟨0x120, 1, 6, 17, 12, 0x701, 0, .rw⟩
def PWR_WMAP6_MAP_HI : Row := ⟨0x126, 1, 1, 17, 12, 0, 0, .rw⟩

def rowsPWR : List Row :=
  [PWR_CMD_ENTER, PWR_CMD_CLEAR_LOG, PWR_OFF_MASK_DOMAIN, PWR_BANK_OFF_BANK, PWR_BANK_RET_BANK,
   PWR_STATE_A_STATE0, PWR_STATE_A_STATE1, PWR_STATE_A_STATE2, PWR_STATE_A_STATE3, PWR_STATE_A_STATE4,
   PWR_STATE_A_STATE5, PWR_STATE_A_STATE6, PWR_STATE_A_STATE7, PWR_STATE_A_STATE8, PWR_STATE_A_STATE9,
   PWR_STATE_A_STATE10, PWR_STATE_A_STATE11, PWR_STATE_A_STATE12, PWR_STATE_B_STATE0, PWR_STATE_B_STATE1,
   PWR_STATE_B_STATE2, PWR_STATE_B_STATE3, PWR_STATE_B_STATE4, PWR_STATE_B_STATE5, PWR_STATE_B_STATE6,
   PWR_STATE_B_STATE7, PWR_STATE_B_STATE8, PWR_STATE_B_STATE9, PWR_STATE_B_STATE10, PWR_STATE_B_STATE11,
   PWR_STATE_B_STATE12, PWR_STATE_B_STATE13, PWR_STATE_B_STATE14, PWR_STATE_B_STATE15, PWR_STATE_C_STATE0,
   PWR_STATE_C_STATE1, PWR_STATE_C_STATE2, PWR_STATE_C_STATE3, PWR_STATE_C_STATE4, PWR_STATE_C_STATE5,
   PWR_STATE_C_STATE6, PWR_STATE_C_STATE7, PWR_STATUS_ENTRY, PWR_STATUS_WAKING, PWR_STATUS_SEQ_ERR,
   PWR_STATUS_REFUSER, PWR_STATUS_REASON, PWR_WAKE_SRC_EN, PWR_WAKE_POL_POL, PWR_WAKE_POL_EDGE,
   PWR_WAKE_CAUSE_SRC, PWR_WAKE_CAUSE_ENTRY_WAKE, PWR_WAKE_CAUSE_POR, PWR_WAKE_CAUSE_WAKE_FAULT, PWR_TIMER_TICKS,
   PWR_REENTER_IDLE_MS, PWR_REENTER_EN, PWR_FAULT_DOMAIN, PWR_FAULT_REG_FAIL, PWR_FAULT_BACKUP_FAIL,
   PWR_FAULT_BACKUP_USED, PWR_FAULT_XREF_FAIL, PWR_FAULT_PLL_FAIL, PWR_FAULT_ACLK_XTAL, PWR_FAULT_RET_FAIL,
   PWR_FAULT_RET_LOST, PWR_FAULT_COUNT, PWR_BIAS_BB_ON, PWR_BIAS_BB_RET, PWR_BIAS_ASSIST_MV, PWR_BIAS_ASSIST,
   PWR_BIAS_BB_AUTO, PWR_ENCORE_KEPT, PWR_ENCORE_CUT, PWR_ENCORE_HDR_OK, PWR_ENCORE_BAD_PAGES, PWR_REFCNT_COUNT0,
   PWR_REFCNT_COUNT1, PWR_REFCNT_COUNT2, PWR_REFCNT_COUNT3, PWR_ENCORE_CEN_KEPT, PWR_ENCORE_CEN_ALL,
   PWR_WMAP_MAP_LO, PWR_WMAP_MAP_HI, PWR_WMAP6_MAP_HI]

/-! CLK_STATUS (13_power_clocks_wake.md R347) -/
def CLK_STATUS_XREF_OK : Row := ⟨0x200, 1, 1, 0, 1, 0, 0, .ro⟩
def CLK_STATUS_PLL_LOCK : Row := ⟨0x200, 1, 1, 1, 1, 0, 0, .ro⟩
def CLK_STATUS_ON_RC : Row := ⟨0x200, 1, 1, 2, 1, 1, 0, .ro⟩
def CLK_STATUS_ACLK_XTAL : Row := ⟨0x200, 1, 1, 3, 1, 0, 0, .ro⟩
/-! CLK_MEAS (13_power_clocks_wake.md R347) -/
def CLK_MEAS_XREF_COUNT : Row := ⟨0x201, 1, 1, 0, 16, 0, 0, .rs⟩
/-! CLK_RETRY (13_power_clocks_wake.md R347) -/
def CLK_RETRY_RETRY_MS : Row := ⟨0x202, 1, 1, 0, 16, 0x3e8, 0, .rw⟩
/-! CLK_EVENTS (13_power_clocks_wake.md R347) -/
def CLK_EVENTS_XREF_LOST : Row := ⟨0x203, 1, 1, 0, 1, 0, 0, .w1c⟩
def CLK_EVENTS_PLL_UNLOCK : Row := ⟨0x203, 1, 1, 1, 1, 0, 0, .w1c⟩
def CLK_EVENTS_FELL_BACK : Row := ⟨0x203, 1, 1, 2, 1, 0, 0, .w1c⟩
def CLK_EVENTS_RESTORED : Row := ⟨0x203, 1, 1, 3, 1, 0, 0, .w1c⟩

def rowsCLK : List Row :=
  [CLK_STATUS_XREF_OK, CLK_STATUS_PLL_LOCK, CLK_STATUS_ON_RC, CLK_STATUS_ACLK_XTAL, CLK_MEAS_XREF_COUNT,
   CLK_RETRY_RETRY_MS, CLK_EVENTS_XREF_LOST, CLK_EVENTS_PLL_UNLOCK, CLK_EVENTS_FELL_BACK, CLK_EVENTS_RESTORED]

/-! AON_ACLK (13_power_clocks_wake.md R348) -/
def AON_ACLK_SRC_SEL : Row := ⟨0x300, 1, 1, 0, 1, 0, 0, .rw⟩
def AON_ACLK_SRC : Row := ⟨0x300, 1, 1, 1, 1, 1, 0, .ro⟩
def AON_ACLK_XTAL_FAIL : Row := ⟨0x300, 1, 1, 2, 1, 0, 0, .ro⟩
def AON_ACLK_START_MS : Row := ⟨0x300, 1, 1, 16, 16, 0, 0, .ro⟩
/-! TAP_CTRL (13_power_clocks_wake.md R348) -/
def TAP_CTRL_EN : Row := ⟨0x301, 1, 1, 0, 1, 1, 0, .rw⟩
def TAP_CTRL_SEGS : Row := ⟨0x301, 1, 1, 1, 2, 3, 0, .rw⟩
def TAP_CTRL_LEARN : Row := ⟨0x301, 1, 1, 3, 1, 0, 0, .wo⟩
def TAP_CTRL_MCOUNT : Row := ⟨0x301, 1, 1, 4, 4, 2, 0, .rw⟩
def TAP_CTRL_WAKE_MOTION : Row := ⟨0x301, 1, 1, 8, 1, 1, 0, .rw⟩
def TAP_CTRL_WAKE_PRESENCE : Row := ⟨0x301, 1, 1, 9, 1, 0, 0, .rw⟩
/-! TAP_INTERVAL (13_power_clocks_wake.md R348) -/
def TAP_INTERVAL_MS : Row := ⟨0x302, 1, 1, 0, 16, 0xfa, 0, .rw⟩
/-! TAP_THRESH (13_power_clocks_wake.md R348) -/
def TAP_THRESH_DF_MOTION : Row := ⟨0x303, 1, 1, 0, 8, 4, 0, .rw⟩
def TAP_THRESH_DA_MOTION : Row := ⟨0x303, 1, 1, 8, 8, 8, 0, .rw⟩
def TAP_THRESH_DF_TAG : Row := ⟨0x303, 1, 1, 16, 8, 0xa, 0, .rw⟩
/-! TAP_MEAS0 (13_power_clocks_wake.md R348) -/
def TAP_MEAS0_F : Row := ⟨0x304, 1, 1, 0, 16, 0, 0, .rs⟩
def TAP_MEAS0_A : Row := ⟨0x304, 1, 1, 16, 8, 0, 0, .rs⟩
/-! TAP_MEAS12 (13_power_clocks_wake.md R348) -/
def TAP_MEAS12_F : Row := ⟨0x305, 1, 1, 0, 16, 0, 0, .rs⟩
def TAP_MEAS12_A : Row := ⟨0x305, 1, 1, 16, 8, 0, 0, .rs⟩
/-! TAP_BASE (13_power_clocks_wake.md R348) -/
def TAP_BASE_F_EMPTY0 : Row := ⟨0x306, 1, 1, 0, 8, 0, 0, .rw⟩
def TAP_BASE_F_EMPTY12 : Row := ⟨0x306, 1, 1, 8, 8, 0, 0, .rw⟩
/-! TAP_STATUS (13_power_clocks_wake.md R348) -/
def TAP_STATUS_MOTION : Row := ⟨0x307, 1, 1, 0, 1, 0, 0, .ro⟩
def TAP_STATUS_PRES0 : Row := ⟨0x307, 1, 1, 1, 1, 0, 0, .ro⟩
def TAP_STATUS_PRES12 : Row := ⟨0x307, 1, 1, 2, 1, 0, 0, .ro⟩
def TAP_STATUS_FAIL0 : Row := ⟨0x307, 1, 1, 3, 1, 0, 0, .ro⟩
def TAP_STATUS_FAIL12 : Row := ⟨0x307, 1, 1, 4, 1, 0, 0, .ro⟩
def TAP_STATUS_PINGS : Row := ⟨0x307, 1, 1, 16, 16, 0, 0, .ro⟩
/-! TAP_EVENTS (13_power_clocks_wake.md R348) -/
def TAP_EVENTS_MOTION : Row := ⟨0x308, 1, 1, 0, 1, 0, 0, .w1c⟩
def TAP_EVENTS_PRESENCE : Row := ⟨0x308, 1, 1, 1, 1, 0, 0, .w1c⟩
def TAP_EVENTS_PING_FAIL : Row := ⟨0x308, 1, 1, 2, 1, 0, 0, .w1c⟩
def TAP_EVENTS_LEARNED : Row := ⟨0x308, 1, 1, 3, 1, 0, 0, .w1c⟩

def rowsAON : List Row :=
  [AON_ACLK_SRC_SEL, AON_ACLK_SRC, AON_ACLK_XTAL_FAIL, AON_ACLK_START_MS, TAP_CTRL_EN, TAP_CTRL_SEGS,
   TAP_CTRL_LEARN, TAP_CTRL_MCOUNT, TAP_CTRL_WAKE_MOTION, TAP_CTRL_WAKE_PRESENCE, TAP_INTERVAL_MS,
   TAP_THRESH_DF_MOTION, TAP_THRESH_DA_MOTION, TAP_THRESH_DF_TAG, TAP_MEAS0_F, TAP_MEAS0_A, TAP_MEAS12_F,
   TAP_MEAS12_A, TAP_BASE_F_EMPTY0, TAP_BASE_F_EMPTY12, TAP_STATUS_MOTION, TAP_STATUS_PRES0, TAP_STATUS_PRES12,
   TAP_STATUS_FAIL0, TAP_STATUS_FAIL12, TAP_STATUS_PINGS, TAP_EVENTS_MOTION, TAP_EVENTS_PRESENCE,
   TAP_EVENTS_PING_FAIL, TAP_EVENTS_LEARNED]

/-! HEALTH_CTRL (14_dependability_longevity.md R374) -/
def HEALTH_CTRL_WARN_DAYS : Row := ⟨0x1c00, 1, 1, 0, 16, 0xb4, 0, .rw⟩
def HEALTH_CTRL_MIN_CONF : Row := ⟨0x1c00, 1, 1, 16, 8, 0x40, 0, .rw⟩
def HEALTH_CTRL_SCRUB_EN : Row := ⟨0x1c00, 1, 1, 24, 1, 1, 0, .rw⟩
/-! HEALTH_SCRUB (14_dependability_longevity.md R374) -/
def HEALTH_SCRUB_DIV : Row := ⟨0x1c01, 1, 1, 0, 10, 0x100, 0, .rw⟩
def HEALTH_SCRUB_PASSES : Row := ⟨0x1c01, 1, 1, 16, 16, 0, 0, .ro⟩
/-! HEALTH_SEQ (14_dependability_longevity.md R374) -/
def HEALTH_SEQ_SEQ : Row := ⟨0x1c02, 1, 1, 0, 32, 0, 0, .ro⟩
/-! HEALTH_LOG (14_dependability_longevity.md R374) -/
def HEALTH_LOG_NEXT : Row := ⟨0x1c03, 1, 1, 0, 10, 0, 0, .ro⟩
def HEALTH_LOG_WRAPPED : Row := ⟨0x1c03, 1, 1, 10, 1, 0, 0, .ro⟩
/-! HEALTH_SPARES (14_dependability_longevity.md R374) -/
def HEALTH_SPARES_LANES : Row := ⟨0x1c04, 1, 1, 0, 2, 0, 0, .ro⟩
def HEALTH_SPARES_CHECKER : Row := ⟨0x1c04, 1, 1, 2, 1, 0, 0, .ro⟩
def HEALTH_SPARES_PAIR : Row := ⟨0x1c04, 1, 1, 3, 1, 1, 0, .ro⟩
def HEALTH_SPARES_RETIRED : Row := ⟨0x1c04, 1, 1, 4, 5, 0, 0, .ro⟩
def HEALTH_SPARES_SEV : Row := ⟨0x1c04, 1, 1, 12, 2, 0, 0, .rc⟩
/-! LONG_DRV (14_dependability_longevity.md R374) -/
def LONG_DRV_DRV_LIFE : Row := ⟨0x1c08, 1, 1, 0, 16, 0xc8, 0, .rw⟩
def LONG_DRV_IREF : Row := ⟨0x1c08, 1, 1, 16, 8, 0x32, 0, .rw⟩
/-! LONG_LIMITS (14_dependability_longevity.md R374) -/
def LONG_LIMITS_COIL_RISE : Row := ⟨0x1c09, 1, 1, 0, 8, 0x60, 0, .rw⟩
def LONG_LIMITS_DIE_PCT : Row := ⟨0x1c09, 1, 1, 8, 8, 0x32, 0, .rw⟩
def LONG_LIMITS_BANK_LIMIT : Row := ⟨0x1c09, 1, 1, 16, 8, 0x40, 0, .rw⟩
def LONG_LIMITS_NVM_LIMIT : Row := ⟨0x1c09, 1, 1, 24, 8, 0x19, 0, .rw⟩
/-! LONG_QUERY (14_dependability_longevity.md R374) -/
def LONG_QUERY_CLASS : Row := ⟨0x1c0a, 1, 1, 0, 3, 0, 0, .rw⟩
def LONG_QUERY_REBASE : Row := ⟨0x1c0a, 1, 1, 3, 1, 0, 0, .wo⟩
def LONG_QUERY_INDEX : Row := ⟨0x1c0a, 1, 1, 16, 12, 0, 0, .rw⟩
/-! LONG_RESULT (14_dependability_longevity.md R374) -/
def LONG_RESULT_DAYS : Row := ⟨0x1c0b, 1, 1, 0, 16, 0xffff, 0, .rs⟩
def LONG_RESULT_CONF : Row := ⟨0x1c0b, 1, 1, 16, 8, 0, 0, .rs⟩
def LONG_RESULT_FROZEN : Row := ⟨0x1c0b, 1, 1, 24, 1, 0, 0, .rs⟩
def LONG_RESULT_SAT : Row := ⟨0x1c0b, 1, 1, 25, 1, 0, 0, .rs⟩
def LONG_RESULT_VALID : Row := ⟨0x1c0b, 1, 1, 26, 1, 0, 0, .ro⟩
/-! LONG_WORST (14_dependability_longevity.md R374) -/
def LONG_WORST_DAYS : Row := ⟨0x1c0c, 1, 1, 0, 16, 0xffff, 0, .rs⟩
def LONG_WORST_CLASS : Row := ⟨0x1c0c, 1, 1, 16, 3, 0, 0, .rs⟩
def LONG_WORST_INDEX : Row := ⟨0x1c0c, 1, 1, 19, 12, 0, 0, .rs⟩
/-! LONG_DAY (14_dependability_longevity.md R374) -/
def LONG_DAY_DAY : Row := ⟨0x1c0d, 1, 1, 0, 32, 0, 0, .ro⟩
/-! HEALTH_BANKk (14_dependability_longevity.md R374) -/
def HEALTH_BANK_CORRECTED : Row := ⟨0x1c20, 1, 24, 0, 16, 0, 0, .rc⟩
def HEALTH_BANK_UNCORR : Row := ⟨0x1c20, 1, 24, 16, 16, 0, 0, .rc⟩

def rowsHEALTH : List Row :=
  [HEALTH_CTRL_WARN_DAYS, HEALTH_CTRL_MIN_CONF, HEALTH_CTRL_SCRUB_EN, HEALTH_SCRUB_DIV, HEALTH_SCRUB_PASSES,
   HEALTH_SEQ_SEQ, HEALTH_LOG_NEXT, HEALTH_LOG_WRAPPED, HEALTH_SPARES_LANES, HEALTH_SPARES_CHECKER,
   HEALTH_SPARES_PAIR, HEALTH_SPARES_RETIRED, HEALTH_SPARES_SEV, LONG_DRV_DRV_LIFE, LONG_DRV_IREF,
   LONG_LIMITS_COIL_RISE, LONG_LIMITS_DIE_PCT, LONG_LIMITS_BANK_LIMIT, LONG_LIMITS_NVM_LIMIT, LONG_QUERY_CLASS,
   LONG_QUERY_REBASE, LONG_QUERY_INDEX, LONG_RESULT_DAYS, LONG_RESULT_CONF, LONG_RESULT_FROZEN, LONG_RESULT_SAT,
   LONG_RESULT_VALID, LONG_WORST_DAYS, LONG_WORST_CLASS, LONG_WORST_INDEX, LONG_DAY_DAY, HEALTH_BANK_CORRECTED,
   HEALTH_BANK_UNCORR]

/-! VAULT_CTRL (14_dependability_longevity.md R375) -/
def VAULT_CTRL_KEEP_KEYS : Row := ⟨0x1e00, 1, 1, 0, 1, 1, 0, .rw⟩
def VAULT_CTRL_WIPE : Row := ⟨0x1e00, 1, 1, 1, 1, 0, 0, .wo⟩
/-! VAULT_KEY_SEL (14_dependability_longevity.md R375) -/
def VAULT_KEY_SEL_KEYID : Row := ⟨0x1e01, 1, 1, 0, 8, 0, 0, .rw⟩
def VAULT_KEY_SEL_STAGED : Row := ⟨0x1e01, 1, 1, 8, 1, 0, 0, .rw⟩
def VAULT_KEY_SEL_TENANTS : Row := ⟨0x1e01, 1, 1, 9, 4, 0, 0, .rw⟩
def VAULT_KEY_SEL_TAM : Row := ⟨0x1e01, 1, 1, 13, 1, 0, 0, .rw⟩
def VAULT_KEY_SEL_MAM : Row := ⟨0x1e01, 1, 1, 14, 1, 0, 0, .rw⟩
/-! VAULT_KEY_DATA (14_dependability_longevity.md R375) -/
def VAULT_KEY_DATA_BYTES : Row := ⟨0x1e02, 1, 4, 0, 32, 0, 0, .wo⟩
/-! VAULT_KEY_CMD (14_dependability_longevity.md R375) -/
def VAULT_KEY_CMD_LOAD : Row := ⟨0x1e06, 1, 1, 0, 1, 0, 0, .wo⟩
def VAULT_KEY_CMD_PROMOTE : Row := ⟨0x1e06, 1, 1, 1, 1, 0, 0, .wo⟩
def VAULT_KEY_CMD_ERASE : Row := ⟨0x1e06, 1, 1, 2, 1, 0, 0, .wo⟩
/-! VAULT_KEY_INFO (14_dependability_longevity.md R375) -/
def VAULT_KEY_INFO_VALID : Row := ⟨0x1e07, 1, 1, 0, 1, 0, 0, .ro⟩
def VAULT_KEY_INFO_STAGED_VALID : Row := ⟨0x1e07, 1, 1, 1, 1, 0, 0, .ro⟩
def VAULT_KEY_INFO_TAM : Row := ⟨0x1e07, 1, 1, 2, 1, 0, 0, .ro⟩
def VAULT_KEY_INFO_MAM : Row := ⟨0x1e07, 1, 1, 3, 1, 0, 0, .ro⟩
def VAULT_KEY_INFO_TENANTS : Row := ⟨0x1e07, 1, 1, 4, 4, 0, 0, .ro⟩
def VAULT_KEY_INFO_KCV : Row := ⟨0x1e07, 1, 1, 8, 24, 0, 0, .ro⟩
/-! VAULT_STATUS (14_dependability_longevity.md R375) -/
def VAULT_STATUS_SLOTS : Row := ⟨0x1e08, 1, 1, 0, 9, 0, 0, .ro⟩
def VAULT_STATUS_BUSY : Row := ⟨0x1e08, 1, 1, 9, 1, 0, 0, .ro⟩
def VAULT_STATUS_DISABLED : Row := ⟨0x1e08, 1, 1, 10, 1, 0, 0, .ro⟩
def VAULT_STATUS_WIPED : Row := ⟨0x1e08, 1, 1, 11, 1, 0, 0, .w1c⟩
/-! VAULT_CNT (14_dependability_longevity.md R375) -/
def VAULT_CNT_AUTH : Row := ⟨0x1e09, 1, 1, 0, 16, 0, 0, .ro⟩
def VAULT_CNT_MISSES : Row := ⟨0x1e09, 1, 1, 16, 16, 0, 0, .rc⟩
/-! LC_STATUS (14_dependability_longevity.md R375) -/
def LC_STATUS_STATE : Row := ⟨0x1e10, 1, 1, 0, 2, 0, 0, .ro⟩
def LC_STATUS_PARTIAL : Row := ⟨0x1e10, 1, 1, 2, 1, 0, 0, .ro⟩
def LC_STATUS_ARMED : Row := ⟨0x1e10, 1, 1, 3, 1, 0, 0, .ro⟩
def LC_STATUS_REFUSED : Row := ⟨0x1e10, 1, 1, 4, 1, 0, 0, .w1c⟩
/-! LC_CTRL (14_dependability_longevity.md R375) -/
def LC_CTRL_TARGET : Row := ⟨0x1e11, 1, 1, 0, 2, 0, 0, .wo⟩
def LC_CTRL_GO : Row := ⟨0x1e11, 1, 1, 2, 1, 0, 0, .wo⟩
def LC_CTRL_KEY : Row := ⟨0x1e11, 1, 1, 16, 16, 0, 0, .wo⟩
/-! TAMPER_STATUS (14_dependability_longevity.md R375) -/
def TAMPER_STATUS_EVENT : Row := ⟨0x1e12, 1, 1, 0, 5, 0, 0, .w1c⟩
def TAMPER_STATUS_ACTIVE : Row := ⟨0x1e12, 1, 1, 8, 5, 0, 0, .ro⟩
/-! TAMPER_CNT (14_dependability_longevity.md R375) -/
def TAMPER_CNT_COUNT : Row := ⟨0x1e13, 1, 1, 0, 16, 0, 0, .ro⟩

def rowsVAULT : List Row :=
  [VAULT_CTRL_KEEP_KEYS, VAULT_CTRL_WIPE, VAULT_KEY_SEL_KEYID, VAULT_KEY_SEL_STAGED, VAULT_KEY_SEL_TENANTS,
   VAULT_KEY_SEL_TAM, VAULT_KEY_SEL_MAM, VAULT_KEY_DATA_BYTES, VAULT_KEY_CMD_LOAD, VAULT_KEY_CMD_PROMOTE,
   VAULT_KEY_CMD_ERASE, VAULT_KEY_INFO_VALID, VAULT_KEY_INFO_STAGED_VALID, VAULT_KEY_INFO_TAM, VAULT_KEY_INFO_MAM,
   VAULT_KEY_INFO_TENANTS, VAULT_KEY_INFO_KCV, VAULT_STATUS_SLOTS, VAULT_STATUS_BUSY, VAULT_STATUS_DISABLED,
   VAULT_STATUS_WIPED, VAULT_CNT_AUTH, VAULT_CNT_MISSES, LC_STATUS_STATE, LC_STATUS_PARTIAL, LC_STATUS_ARMED,
   LC_STATUS_REFUSED, LC_CTRL_TARGET, LC_CTRL_GO, LC_CTRL_KEY, TAMPER_STATUS_EVENT, TAMPER_STATUS_ACTIVE,
   TAMPER_CNT_COUNT]

/-! SYS_ID (15_memory_registers.md R391) -/
def SYS_ID_ID : Row := ⟨0x0, 1, 1, 0, 32, 0x244000b1, 0, .ro⟩
/-! SYS_CAPS (15_memory_registers.md R391) -/
def SYS_CAPS_REGS : Row := ⟨0x1, 1, 1, 0, 16, 0xa80, 0, .ro⟩
def SYS_CAPS_BANKS : Row := ⟨0x1, 1, 1, 16, 8, 0x18, 0, .ro⟩
/-! SYS_RESET (15_memory_registers.md R391) -/
def SYS_RESET_GO : Row := ⟨0x2, 1, 1, 0, 1, 0, 0, .wo⟩
def SYS_RESET_KEY : Row := ⟨0x2, 1, 1, 16, 16, 0, 0, .wo⟩
/-! COMMONS_OVERWRITE (15_memory_registers.md R391) -/
def COMMONS_OVERWRITE_COUNT : Row := ⟨0x3, 1, 1, 0, 16, 0, 0, .ro⟩
def COMMONS_OVERWRITE_WORD : Row := ⟨0x3, 1, 1, 16, 12, 0, 0, .rs⟩
/-! SYS_STALL (15_memory_registers.md R391) -/
def SYS_STALL_HOST : Row := ⟨0x4, 1, 1, 0, 16, 0, 0, .rc⟩
def SYS_STALL_PEAK : Row := ⟨0x4, 1, 1, 16, 8, 0, 0, .rc⟩

def rowsSYS : List Row :=
  [SYS_ID_ID, SYS_CAPS_REGS, SYS_CAPS_BANKS, SYS_RESET_GO, SYS_RESET_KEY, COMMONS_OVERWRITE_COUNT,
   COMMONS_OVERWRITE_WORD, SYS_STALL_HOST, SYS_STALL_PEAK]

/-! TEST_LOOP_CTRL (16_balls_electrical_test.md R404) -/
def TEST_LOOP_CTRL_SEG : Row := ⟨0x1f00, 1, 1, 0, 5, 0, 0, .rw⟩
def TEST_LOOP_CTRL_EXT : Row := ⟨0x1f00, 1, 1, 5, 1, 0, 0, .rw⟩
def TEST_LOOP_CTRL_AMP : Row := ⟨0x1f00, 1, 1, 6, 8, 0x20, 0, .rw⟩
def TEST_LOOP_CTRL_GO : Row := ⟨0x1f00, 1, 1, 14, 1, 0, 0, .wo⟩
/-! TEST_LOOP_RESULT (16_balls_electrical_test.md R404) -/
def TEST_LOOP_RESULT_DONE : Row := ⟨0x1f01, 1, 1, 0, 1, 0, 0, .rs⟩
def TEST_LOOP_RESULT_PASS : Row := ⟨0x1f01, 1, 1, 1, 1, 0, 0, .rs⟩
def TEST_LOOP_RESULT_OPEN : Row := ⟨0x1f01, 1, 1, 2, 1, 0, 0, .rs⟩
def TEST_LOOP_RESULT_SHORT : Row := ⟨0x1f01, 1, 1, 3, 1, 0, 0, .rs⟩
def TEST_LOOP_RESULT_REFUSED : Row := ⟨0x1f01, 1, 1, 4, 1, 0, 0, .rs⟩
def TEST_LOOP_RESULT_MAG : Row := ⟨0x1f01, 1, 1, 5, 12, 0, 0, .rs⟩
def TEST_LOOP_RESULT_PHASE : Row := ⟨0x1f01, 1, 1, 17, 12, 0, 0, .rs⟩
/-! TEST_FUSE_DATA (16_balls_electrical_test.md R406) -/
def TEST_FUSE_DATA_BITS : Row := ⟨0x1f08, 1, 1, 0, 32, 0, 0, .wo⟩
/-! TEST_FUSE_CMD (16_balls_electrical_test.md R406) -/
def TEST_FUSE_CMD_ROW : Row := ⟨0x1f09, 1, 1, 0, 4, 0, 0, .wo⟩
def TEST_FUSE_CMD_GO : Row := ⟨0x1f09, 1, 1, 4, 1, 0, 0, .wo⟩
def TEST_FUSE_CMD_KEY : Row := ⟨0x1f09, 1, 1, 16, 16, 0, 0, .wo⟩
/-! TEST_FUSE_STATUS (16_balls_electrical_test.md R406) -/
def TEST_FUSE_STATUS_BUSY : Row := ⟨0x1f0a, 1, 1, 0, 1, 0, 0, .ro⟩
def TEST_FUSE_STATUS_DONE : Row := ⟨0x1f0a, 1, 1, 1, 1, 0, 0, .w1c⟩
def TEST_FUSE_STATUS_VERIFY_FAIL : Row := ⟨0x1f0a, 1, 1, 2, 1, 0, 0, .w1c⟩
def TEST_FUSE_STATUS_REFUSED : Row := ⟨0x1f0a, 1, 1, 3, 1, 0, 0, .w1c⟩
/-! TEST_FUSE_READ (16_balls_electrical_test.md R406) -/
def TEST_FUSE_READ_ROW : Row := ⟨0x1f0b, 1, 1, 0, 32, 0, 0, .ro⟩

def rowsTEST : List Row :=
  [TEST_LOOP_CTRL_SEG, TEST_LOOP_CTRL_EXT, TEST_LOOP_CTRL_AMP, TEST_LOOP_CTRL_GO, TEST_LOOP_RESULT_DONE,
   TEST_LOOP_RESULT_PASS, TEST_LOOP_RESULT_OPEN, TEST_LOOP_RESULT_SHORT, TEST_LOOP_RESULT_REFUSED,
   TEST_LOOP_RESULT_MAG, TEST_LOOP_RESULT_PHASE, TEST_FUSE_DATA_BITS, TEST_FUSE_CMD_ROW, TEST_FUSE_CMD_GO,
   TEST_FUSE_CMD_KEY, TEST_FUSE_STATUS_BUSY, TEST_FUSE_STATUS_DONE, TEST_FUSE_STATUS_VERIFY_FAIL,
   TEST_FUSE_STATUS_REFUSED, TEST_FUSE_READ_ROW]

/-- The fields of the block that holds an address, by the register block index (R389). -/
def blockRows (a : Nat) : List Row :=
  if a < 0x100 then rowsSYS else if a < 0x200 then rowsPWR else if a < 0x300 then rowsCLK else if a < 0x400 then rowsAON
  else if a < 0x800 then rowsHOST else if a < 0x900 then rowsREEL else if a < 0xA00 then rowsTEMPO
  else if a < 0xD00 then rowsFLD else if a < 0x1000 then rowsLANE else if a < 0x1100 then rowsDEC
  else if a < 0x1200 then rowsCENSUS else if a < 0x1400 then rowsCALL else if a < 0x1800 then rowsHUB
  else if a < 0x1A00 then rowsQUE else if a < 0x1C00 then rowsSBUS else if a < 0x1E00 then rowsHEALTH
  else if a < 0x1F00 then rowsVAULT else if a < 0x2000 then rowsTEST else []

/-- The copy of a field that lies in the word at an address. -/
def Row.at? (r : Row) (a : Nat) : Option Nat :=
  if a < r.base then none
  else
    let n := (a - r.base) / r.stride
    if (a - r.base) % r.stride = 0 ∧ n < r.count then some n else none

/-- The first address of a register that answers at several: QnDATA at two (R260), HOSTn_CMD and HOSTn_ANS at 64 each
(R286). -/
def firstAddress (a : Nat) : Nat :=
  if 0x1800 ≤ a ∧ a < 0x1A00 ∧ a % 8 = 1 then a - 1
  else if 0x400 ≤ a ∧ a < 0x800 ∧ 0x40 ≤ a % 0x100 ∧ a % 0x100 < 0xC0 then a - a % 0x40
  else a

/-- The fields of the word at an address, each with its copy. No field: the word is reserved (R383). -/
def fieldsAt (a : Nat) : List (Row × Nat) :=
  (blockRows a).filterMap fun r => (r.at? (firstAddress a)).map fun n => (r, n)

end Sys2Proof.Machine
end

