-- ==== Sys2Proof/Machine/Ops.lean ====
section
/-!
DEFINITION. The named operations over registers, SRAM, time and domains that every meaning is written with.
-/

-- One declaration after another: the package is compiled as one text under a memory limit.
set_option Elab.async false

namespace Sys2Proof.Machine

/-! ### A command's answer -/

/-- A command whose effect on the block is `f`; the queue of commands stays as it is. -/
def effect (s : State) (f : Dev → Dev) : Out State := .next { s with dev := f s.dev }

/-! ### Register fields (R5, R383) -/

/-- Where copy `n` of a field stands in `regs`. -/
def Row.key (r : Row) (n : Nat) : Nat := (r.base + r.stride * n) * 32 + r.lo

/-- The reset value of copy `n`. -/
def Row.resetOf (r : Row) (n : Nat) : Nat := r.reset + r.rstep * n

/-- Copy `n` of a field, of the bits that its width has. -/
def Dev.g (d : Dev) (r : Row) (n : Nat := 0) : Nat := sparseGet (r.resetOf n) (r.key n) d.regs % 2 ^ r.width

/-- Copy `n` of a field set to `v`, as far as its width goes. -/
def Dev.p (d : Dev) (r : Row) (n v : Nat) : Dev :=
  { d with regs := sparsePut (r.resetOf n) (v % 2 ^ r.width) (r.key n) d.regs }

/-- A flag field. -/
def Dev.flag (d : Dev) (r : Row) (n : Nat := 0) : Bool := d.g r n != 0
def Dev.pf (d : Dev) (r : Row) (n : Nat) (b : Bool) : Dev := d.p r n (flagOf b)
/-- A flag field set. -/
def Dev.set1 (d : Dev) (r : Row) (n : Nat := 0) : Dev := d.p r n 1
/-- Bit `i` of a field set. -/
def Dev.setBit (d : Dev) (r : Row) (n i : Nat) : Dev := d.p r n (d.g r n ||| 2 ^ i)
def Dev.clearBit (d : Dev) (r : Row) (n i : Nat) : Dev := d.p r n (putBit (d.g r n) i false)
/-- A signed field. -/
def Dev.gs (d : Dev) (r : Row) (n : Nat := 0) : Int := signedOf r.width (d.g r n)
def Dev.ps (d : Dev) (r : Row) (n : Nat) (v : Int) : Dev := d.p r n (fieldOf r.width v)
/-- A counting field that saturates. -/
def Dev.bump (d : Dev) (r : Row) (n : Nat := 0) (k : Nat := 1) : Dev := d.p r n (satAdd r.width (d.g r n) k)
/-- A counting field that wraps. -/
def Dev.inc (d : Dev) (r : Row) (n : Nat := 0) (k : Nat := 1) : Dev := d.p r n (d.g r n + k)
/-- A field that keeps the highest value. -/
def Dev.high (d : Dev) (r : Row) (n v : Nat) : Dev := d.p r n (max (d.g r n) v)

/-- Every field of the words `lo` to `hi` takes its reset value, as when its domain comes On. -/
def Dev.clearRegs (d : Dev) (lo hi : Nat) : Dev :=
  { d with regs := d.regs.filter fun p => p.1 < lo * 32 || (hi + 1) * 32 ≤ p.1 }

/-! ### Free values -/

/-- A value that nothing constrains, and the next state of the counter. -/
def Dev.freeVal (d : Dev) : Nat × Dev := (Config.freeValue d.freeCtr, { d with freeCtr := d.freeCtr + 1 })

/-! ### Byte memories in canonical form -/

/-- The byte at `a`; one that is not listed is 0. -/
def memGet (a : Nat) : List Host.Cell → Byte
  | [] => 0
  | (j, b) :: l => if a = j then b else memGet a l

/-- The byte at `a` set. The list stays rising in its addresses and lists no 0. -/
def memPut (a : Nat) (v : Byte) : List Host.Cell → List Host.Cell
  | [] => if v = 0 then [] else [(a, v)]
  | (j, b) :: l =>
    if a < j then (if v = 0 then (j, b) :: l else (a, v) :: (j, b) :: l)
    else if a = j then (if v = 0 then l else (a, v) :: l)
    else (j, b) :: memPut a v l

/-- The canonical form: addresses strictly rising from at least `lo`, no byte 0. -/
def memRising (lo : Nat) : List Host.Cell → Bool
  | [] => true
  | (j, b) :: l => lo ≤ j && b != 0 && memRising (j + 1) l

/-- The canonical form of a byte memory. -/
def Memory.wf (m : List Host.Cell) : Bool := memRising 0 m

/-- `n` bytes from `a`, as a little-endian number. -/
def memLe (m : List Host.Cell) (a : Nat) : Nat → Nat
  | 0 => 0
  | n + 1 => (memGet a m).toNat + 256 * memLe m (a + 1) n

/-- `n` bytes of `v` from `a`, little-endian. -/
def memPutLe (m : List Host.Cell) (a v : Nat) : Nat → List Host.Cell
  | 0 => m
  | n + 1 => memPutLe (memPut a (BitVec.ofNat 8 v) m) (a + 1) (v / 256) n

/-- Bytes written from `a` on. -/
def memPutBytes (m : List Host.Cell) (a : Nat) : List Byte → List Host.Cell
  | [] => m
  | b :: bs => memPutBytes (memPut a b m) (a + 1) bs

/-- `n` bytes from `a`. -/
def memBytes (m : List Host.Cell) (a n : Nat) : List Byte := (List.range n).map fun i => memGet (a + i) m

/-- The addresses `lo` to `hi - 1` cleared. -/
def memClear (m : List Host.Cell) (lo hi : Nat) : List Host.Cell := m.filter fun c => c.1 < lo || hi ≤ c.1

/-! ### SRAM words (R376) -/

/-- The 786,432 words of the 24 banks. -/
abbrev sramWords : Nat := 786432

def Dev.rw (d : Dev) (w : Nat) : Nat := memLe d.sram (4 * w) 4
def Dev.ww (d : Dev) (w v : Nat) : Dev := if w < sramWords then { d with sram := memPutLe d.sram (4 * w) v 4 } else d
def Dev.rword (d : Dev) (w : Nat) : Word := BitVec.ofNat 32 (d.rw w)

/-- Words from `w` on. -/
def Dev.wws (d : Dev) (w : Nat) (vs : List Nat) : Dev := (vs.zipIdx).foldl (fun d p => d.ww (w + p.2) p.1) d

/-- The bits `lo` to `lo + k - 1` of word `w`. -/
def Dev.rf (d : Dev) (w lo k : Nat) : Nat := bitsOf (d.rw w) lo k
def Dev.wf (d : Dev) (w lo k v : Nat) : Dev := d.ww w (d.rw w - (bitsOf (d.rw w) lo k <<< lo) + inField lo k v)

/-- Bank `k`'s words cleared. -/
def Dev.clearBank (d : Dev) (k : Nat) : Dev := { d with sram := memClear d.sram (0x20000 * k) (0x20000 * (k + 1)) }

/-! Where the structures lie (R381). -/
abbrev figBase : Nat := 0x00000
abbrev cenBase : Nat := 0x10000
abbrev callBase : Nat := 0x20000
abbrev dataBase : Nat := 0x24000
abbrev watchBase : Nat := 0x30000
abbrev slotBase : Nat := 0x40000
abbrev statBase : Nat := 0x44000
abbrev logBase : Nat := 0xB0000
abbrev commonsBase : Nat := 0xB8000

/-! ### Time -/

/-- The present tick. -/
def Dev.now (d : Dev) : Nat := d.clock.time.toNat

/-- CCLK cycles of the time stamp. -/
def Dev.cycle (d : Dev) : Nat := 8 * d.now + d.clock.cclk.val

/-- Ticks of one millisecond. -/
abbrev msTicks : Nat := 27120

/-! ### Domains (R10, R318) -/

def Dev.domState (d : Dev) (n : Nat) : DomState := vget d.pwr.dom n .off
def Dev.domOn (d : Dev) (n : Nat) : Bool := d.domState n == .on
/-- The domain takes new work: On, out of reset (R330), and not on its way Off (R326). -/
def Dev.domTakes (d : Dev) (n : Nat) : Bool := d.domOn n && !d.pwr.accepted.contains n && !d.pwr.clkWait.contains n
def Dev.bankOn (d : Dev) (k : Nat) : Bool := d.domOn (16 + k)

abbrev domAon : Nat := 0
abbrev domCore : Nat := 1
abbrev domCall : Nat := 2
abbrev domDec : Nat := 3
abbrev domLane : Nat := 4
abbrev domHub : Nat := 9
abbrev domHio : Nat := 10
abbrev domSio : Nat := 11
abbrev domVault : Nat := 12

/-- The FLD domain of a segment (R10). -/
def fldDom (n : Nat) : Nat := 5 + n / 6

/-! ### The active Reel -/

def Dev.reelOn (d : Dev) : Bool := d.reel.active.isSome

/-- The active Reel's RING entry of ring `x`. -/
def Dev.ringDef (d : Dev) (x : Nat) : Option RingDef := d.reel.active.bind fun r => r.ring.find? fun e => e.ring == x

/-- The ring of a segment and of its sense channel (R20). -/
def Dev.ringOfSeg (d : Dev) (n : Nat) : Option Nat := d.reel.active.bind fun r => (r.ringOfSeg n).map (·.ring)

/-- The segments of a ring in ring order: ascending number (R20). -/
def RingDef.segs (e : RingDef) : List Nat := bitList 24 e.segMask

def RingDef.reverseOk (e : RingDef) : Bool := e.flags.testBit 0
def RingDef.service (e : RingDef) : Bool := e.flags.testBit 1
def RingDef.transitEn (e : RingDef) : Bool := e.flags.testBit 2
def RingDef.detuneEn (e : RingDef) : Bool := e.flags.testBit 3
def RingDef.j3En (e : RingDef) : Bool := e.flags.testBit 4

def Dev.tenantDef (d : Dev) (t : Nat) : Option TenantDef := d.reel.active.bind fun r => r.tenants.find? fun e => e.tenant == t

/-- The tenant whose channel range holds a channel (R28). -/
def Dev.chanOwner (d : Dev) (ch : Nat) : Option Nat :=
  d.reel.active.bind fun r => (r.tenants.find? fun e => e.chFirst ≤ ch && ch < e.chFirst + e.chCount).map (·.tenant)

/-- The tenant whose Figure slice holds a Step (R203). -/
def Dev.stepOwner (d : Dev) (i : Nat) : Option Nat :=
  d.reel.active.bind fun r => (r.tenants.find? fun e => e.figFirst ≤ i && i < e.figFirst + e.figCount).map (·.tenant)

def TenantDef.health (e : TenantDef) : Bool := e.flags.testBit 0
def TenantDef.commonsWr (e : TenantDef) : Bool := e.flags.testBit 1

/-! ### Changes of one part -/

def Dev.inFld (d : Dev) (f : FieldState → FieldState) : Dev := { d with fld := f d.fld }
def Dev.inTempo (d : Dev) (f : TempoState → TempoState) : Dev := { d with tempo := f d.tempo }
def Dev.inQue (d : Dev) (f : QueState → QueState) : Dev := { d with que := f d.que }
def Dev.inHealth (d : Dev) (f : Health → Health) : Dev := { d with health := f d.health }
def Dev.inReel (d : Dev) (f : ReelState → ReelState) : Dev := { d with reel := f d.reel }
def Dev.inPwr (d : Dev) (f : PowerState → PowerState) : Dev := { d with pwr := f d.pwr }
def Dev.inTap (d : Dev) (f : TapState → TapState) : Dev := { d with tap := f d.tap }
def Dev.inHost (d : Dev) (f : HostState → HostState) : Dev := { d with host := f d.host }
def Dev.inSbus (d : Dev) (f : SbusState → SbusState) : Dev := { d with sbus := f d.sbus }
def Dev.inVault (d : Dev) (f : Vault → Vault) : Dev := { d with vault := f d.vault }

/-- Items in turn. -/
def Dev.each {α : Type} (d : Dev) (l : List α) (f : Dev → α → Dev) : Dev := l.foldl f d

/-- `f` where `b`, else nothing. -/
def Dev.when (d : Dev) (b : Bool) (f : Dev → Dev) : Dev := if b then f d else d

end Sys2Proof.Machine
end

