-- ==== Sys2Proof/Machine/Access.lean ====
section
/-!
DEFINITION. Who may reach which register word, and what an access that may not gives (R14, R383, R386 to R389).
-/

-- One declaration after another: the package is compiled as one text under a memory limit.
set_option Elab.async false

namespace Sys2Proof.Machine

/-- The domain of a register word (R389). -/
def wordDomain (a : Nat) : Nat :=
  if a < 0x100 then 1 else if a < 0x200 then 0 else if a < 0x300 then 1 else if a < 0x400 then 0
  else if a < 0x800 then 10 else if a < 0xA00 then 1
  else if a < 0xD00 then (if 0xA18 ≤ a ∧ a < 0xA20 then 1 else fldDom ((a - 0xA00) / 32))
  else if a < 0x1000 then 4 else if a < 0x1100 then 3 else if a < 0x1220 then 1 else if a < 0x1400 then 2
  else if a < 0x1800 then 9 else if a < 0x1A00 then 1 else if a < 0x1C00 then 11 else if a < 0x1E00 then 1
  else if a < 0x1F00 then (if 0x1E10 ≤ a then 0 else 12) else 1

/-- A queue's word: its number and offset. -/
def queueWord (a : Nat) : Nat × Nat := ((a - 0x1800) / 8, (a - 0x1800) % 8)

/-- T0, or a tenant that the active Reel names (R14, R28). -/
def Dev.tenantPresent (d : Dev) (t : Nat) : Bool := t == 0 || (d.tenantDef t).isSome

def Dev.tenantHealth (d : Dev) (t : Nat) : Bool := ((d.tenantDef t).map TenantDef.health).getD false

/-- Tenant `t`'s port is H2. -/
def Dev.onH2 (d : Dev) (t : Nat) : Bool := ((d.tenantDef t).map (·.port)) == some 2

/-- HOSTn_CMD and HOSTn_ANS, which only the tenants on H2 may reach (R286). -/
def h2Only (a : Nat) : Bool := 0x40 ≤ (a - 0x400) % 0x100 && (a - 0x400) % 0x100 < 0xC0

/-- Whether tenant `t` may read a register word (R389, R271). -/
def Dev.mayRead (d : Dev) (t a : Nat) : Bool :=
  if a < 0x400 then true
  else if a < 0x800 then (t == 0 || (a - 0x400) / 0x100 == t) && (!h2Only a || d.onH2 t)
  else if a < 0x900 then t == 0
  else if a < 0xA00 then true
  else if a < 0x1100 then t == 0
  else if a < 0x1220 then true
  else if a < 0x1400 then t == 0
  else if a < 0x1800 then (if 0x1418 ≤ a ∧ a < 0x141C then t == 0 || a - 0x1418 == t else true)
  else if a < 0x1A00 then
    let q := queueWord a
    q.2 == 7 || (t == 0 && decide (2 ≤ q.2)) || d.g Q_CFG_OWNER q.1 == t
  else if a < 0x1C00 then t == 0
  else if a < 0x1E00 then t == 0 || d.tenantHealth t
  else if a < 0x1F00 then t == 0 || a == 0x1E08 || 0x1E10 ≤ a
  else false

/-- Whether tenant `t` may write a register word (R389, R271). -/
def Dev.mayWrite (d : Dev) (t a : Nat) : Bool :=
  if 0x400 ≤ a ∧ a < 0x800 then (a - 0x400) / 0x100 == t && (!h2Only a || d.onH2 t)
  else if a = 0x1201 then true
  else if 0x1418 ≤ a ∧ a < 0x141C then t == 0 || a - 0x1418 == t
  else if 0x1800 ≤ a ∧ a < 0x1A00 then
    let q := queueWord a
    if q.2 = 7 then t == 0
    else if q.2 < 2 then d.g Q_CFG_OWNER q.1 == t
    else t == 0 || d.g Q_CFG_OWNER q.1 == t
  else if 0x1F00 ≤ a then false
  else t == 0

/-- How a word of an access is judged (R388). -/
inductive Gate where
  | pass
  | reserved
  | perm
  | dark (dom : Nat)
  deriving DecidableEq, Repr

/-- The blocks that answer before a Reel: SYS, PWR, CLK and REEL (R14). -/
def preReelWord (a : Nat) : Bool := a < 0x300 || (0x800 ≤ a && a < 0x900)

/-- A word that answers T0 before a Reel is active; REEL not while the boot from flash is under way (R14, R40). -/
def Dev.answersEarly (d : Dev) (t a : Nat) : Bool := t == 0 && preReelWord a && !(d.reel.boot.isSome && 0x800 ≤ a && a < 0x900)

/-- R388 for a register word, in its order. -/
def Dev.judge (d : Dev) (t a : Nat) (write : Bool) : Gate :=
  if !d.reelOn && !d.answersEarly t a then .perm
  else if (fieldsAt a).isEmpty then .reserved
  else if !(if write then d.mayWrite t a else d.mayRead t a) then .perm
  else if !d.domOn (wordDomain a) then .dark (wordDomain a)
  else .pass

/-- HOSTn_ERR_ADDR captures an access (R386, R387). -/
def Dev.captureAddr (d : Dev) (t a kind : Nat) (write : Bool) : Dev :=
  ((d.p HOST_ERR_ADDR_ADDR t a).p HOST_ERR_ADDR_KIND t kind).pf HOST_ERR_ADDR_WRITE t write

/-- A permission error (R387). -/
def Dev.permErr (d : Dev) (t a : Nat) (write : Bool) : Dev := (d.set1 HOST_ERR_PERM t).captureAddr t a 1 write

/-- A dark access (R386). -/
def Dev.darkErr (d : Dev) (t a : Nat) (write : Bool) : Dev := (d.set1 HOST_ERR_DARK t).captureAddr t a 0 write

/-- What a dark read returns: 0xD0FF_00dd (R386). -/
def darkWord (dom : Nat) : Nat := 0xD0FF0000 + dom % 256

/-- A tenant's access puts a re-entry off (R331). -/
def Dev.touched (d : Dev) : Dev := d.inPwr fun s => { s with busyAt := d.clock.aclk.toNat }

/-- A write of a register word by tenant `t`, with the action `f` where the access is performed. A block that has accepted
Bow takes no new work: it acts as if dark (R326). -/
def Dev.hostWrite (d : Dev) (t a : Nat) (f : Dev → Dev) : Dev :=
  if !d.tenantPresent t then d
  else
    let d := d.touched
    match d.judge t a true with
    | .pass => if d.pwr.accepted.contains (wordDomain a) then d.darkErr t a true else f d
    | .reserved => d
    | .perm => d.permErr t a true
    | .dark _ => d.darkErr t a true

end Sys2Proof.Machine
end

