-- ==== Sys2Proof/Machine/Queue.lean ====
section
/-!
DEFINITION. Queues and the cell pool (10_queues_pool.md).
-/

-- One declaration after another: the package is compiled as one text under a memory limit.
set_option Elab.async false

namespace Sys2Proof.Machine

/-! ### Markers (R255) -/

def markerWord (ty q count : Nat) : Word := BitVec.ofNat 32 (inField 28 4 ty + inField 16 6 q + inField 0 16 count)
abbrev markGap : Nat := 1
abbrev markReset : Nat := 2
abbrev markLost : Nat := 3
def markType (w : Word) : Nat := bitsOf w.toNat 28 4
def markCount (w : Word) : Nat := bitsOf w.toNat 0 16

/-! ### Depth, capacity and cells (R256) -/

def Queue.depth (q : Queue) : Nat := q.words.length

/-- The data cells that hold the words, the head cell's popped words counted in. -/
def Queue.dataCells (q : Queue) : Nat := if q.words.isEmpty then 0 else ceilDiv (q.head + q.depth) 4

/-- Cells held, the reserved cell included. -/
def Queue.cells (q : Queue) : Nat := flagOf q.seated + q.dataCells

/-- Free word places of the tail cell. -/
def Queue.tailRoom (q : Queue) : Nat := if q.words.isEmpty then 0 else (4 - (q.head + q.depth) % 4) % 4

/-- The capacity C by CELL_LIMIT; none: only the pool bounds the queue. -/
def capacityOf (limit : Nat) : Option Nat := if limit < 2 then none else some (4 * (limit - 1) - 3)

/-- D < C. -/
def belowCap (limit depth : Nat) : Bool :=
  match capacityOf limit with
  | none => true
  | some c => depth < c

def Dev.queue (d : Dev) (n : Nat) : Queue := vget d.que.q n emptyQueue
def Dev.putQueue (d : Dev) (n : Nat) (f : Queue → Queue) : Dev := d.inQue fun s => { s with q := vupdN s.q n f }

def Dev.queueOwner (d : Dev) (n : Nat) : Nat := d.g Q_CFG_OWNER n
def Dev.queueSource (d : Dev) (n : Nat) : Nat := d.g Q_CFG_SOURCE n
/-- A queue that the active Reel uses (R27). -/
def Dev.queueUsed (d : Dev) (n : Nat) : Bool := d.reelOn && d.queueOwner n < 4
def Dev.queueLimit (d : Dev) (n : Nat) : Nat := d.g Q_EVT_CELL_LIMIT n
def Dev.queueFull (d : Dev) (n : Nat) : Bool := !belowCap (d.queueLimit n) (d.queue n).depth

/-- Cells held by all queues (R269). -/
def Dev.queuedCells (d : Dev) : Nat := (d.que.q.toList.map Queue.cells).sum

/-! ### The pool -/

/-- One cell taken from the free list; LOW, EXHAUST and the lowest FREE follow. -/
def Dev.takeCell (d : Dev) : Dev :=
  let f := d.que.free - 1
  let low := d.g POOL_LOW_LOW
  let lowNow := low ≤ d.que.free && f < low
  let d := d.inQue fun s => { s with free := f, lowDue := s.lowDue || lowNow, exhaustDue := s.exhaustDue || f == 0 }
  let d := d.when lowNow fun d => d.set1 POOL_EVENTS_LOW
  let d := d.when (f == 0) fun d => d.set1 POOL_EVENTS_EXHAUST
  d.p POOL_MIN_MIN_FREE 0 (min (d.g POOL_MIN_MIN_FREE) f)

/-- The lowest-numbered queue that waits for its reserved cell (R411). -/
def Dev.unseated (d : Dev) : Option Nat := (List.range 64).find? fun n => d.queueUsed n && !(d.queue n).seated

/-- Up to `n` unseated queues take a free cell each, the lowest-numbered first (R411). -/
def seatQueues : Nat → Dev → Dev
  | 0, d => d
  | n + 1, d =>
    match d.unseated with
    | none => d
    | some q => if d.que.free = 0 then d else seatQueues n (d.takeCell.putQueue q fun x => { x with seated := true })

/-- Cells put back on the free list; unseated queues take them first. -/
def Dev.giveCells (d : Dev) (k : Nat) : Dev :=
  if k = 0 then d else seatQueues k (d.inQue fun s => { s with free := s.free + k })

/-! ### Threshold (R266) -/

/-- The threshold event, from the depth `before` to the present one. -/
def Dev.threshold (d : Dev) (n before : Nat) : Dev :=
  let th := d.g Q_CFG_THRESHOLD n
  d.when (before < th && th ≤ (d.queue n).depth) fun d => d.set1 Q_EVT_THR n

/-! ### Push (R257, R258) -/

/-- A dropped push. -/
def Dev.dropPush (d : Dev) (n : Nat) (starved : Bool) : Dev :=
  let m := match (d.queue n).mark with
    | none => markerWord markGap n 1
    | some w => if markType w = markReset then w else markerWord markGap n (min (markCount w + 1) 0xFFFE)
  let d := d.putQueue n fun q => { q with mark := some m }
  let d := ((d.bump Q_DROPS_DROPPED n).set1 Q_EVT_DROP n).pf Q_STAT_STARVED n starved
  d.when starved fun d => d.bump POOL_STARVE_DROPS

/-- Words placed at the tail: a new cell where the tail has no room for them. -/
def Dev.placeWords (d : Dev) (n : Nat) (ws : List QWord) : Dev :=
  let q := d.queue n
  let d := d.when (q.tailRoom < ws.length) Dev.takeCell
  d.putQueue n fun q => { q with words := q.words ++ ws, head := if q.words.isEmpty then 0 else q.head }

/-- Whether `k` words can be placed now. -/
def Dev.hasRoom (d : Dev) (n k : Nat) : Bool := k ≤ (d.queue n).tailRoom || 0 < d.que.free

def markWords (q : Queue) : List QWord :=
  match q.mark with
  | none => []
  | some m => [{ w := m, marker := true }]

/-- One data word offered to queue `n`, by the run of a Caller where one is named: whether it was accepted, and the block after it. -/
def Dev.pushWord (d : Dev) (n : Nat) (w : Word) (run : Option Nat := none) : Bool × Dev :=
  let q := d.queue n
  if !q.seated then (false, d.dropPush n true)
  else if !belowCap (d.queueLimit n) q.depth then (false, d.dropPush n false)
  else
    let ws := markWords q ++ [{ w := w, marker := false, run := run }]
    if !d.hasRoom n ws.length then (false, d.dropPush n true)
    else
      let d := (d.placeWords n ws).putQueue n fun q => { q with mark := none }
      (true, d.threshold n q.depth)

/-- The words of one item: once one is dropped the rest are withheld (R264). -/
def Dev.pushItem (d : Dev) (n : Nat) : List Word → Bool × Dev
  | [] => (true, d)
  | w :: ws =>
    match d.pushWord n w with
    | (true, d) => d.pushItem n ws
    | (false, d) => (false, d)

/-- The entry of a pending marker at the end of a cycle (R259). -/
def Dev.enterMarker (d : Dev) (n : Nat) : Dev :=
  let q := d.queue n
  if q.mark.isSome && q.seated && belowCap (d.queueLimit n) q.depth && d.hasRoom n 1 then
    ((d.placeWords n (markWords q)).putQueue n fun q => { q with mark := none }).threshold n q.depth
  else d

/-! ### Pop (R261, R262) -/

structure Popped where
  word : QWord
  under : Bool
  dev : Dev

/-- The head word; at D = 0 the last word again. -/
def Dev.popWord (d : Dev) (n : Nat) : Popped :=
  let q := d.queue n
  match q.words with
  | [] =>
    { word := q.last.getD { w := 0, marker := false }, under := true,
      dev := (d.bump Q_DROPS_UNDERRUNS n).set1 Q_STAT_UNDER n }
  | x :: xs =>
    let freed := q.head == 3 || xs.isEmpty
    let d := d.putQueue n fun q => { q with words := xs, head := if freed then 0 else q.head + 1, last := some x }
    let d := d.when (x.marker && markType x.w == markLost) fun d => d.set1 Q_EVT_LOST n
    { word := x, under := false, dev := d.giveCells (flagOf freed) }

/-- A pop by a read of QnDATA: KIND and KHIST follow (R254, R261). -/
def Dev.registerPop (d : Dev) (n : Nat) : Word × Dev :=
  let r := d.popWord n
  let k := flagOf r.word.marker
  let hist := (r.dev.g Q_STAT_KHIST n * 2 + k) % 16
  (r.word.w, (r.dev.p Q_STAT_KIND n k).p Q_STAT_KHIST n hist)

/-! ### Reset (R265, R411) -/

def resetWord (n : Nat) : QWord := { w := markerWord markReset n 0xFFFF, marker := true }

/-- A reset of queue `n`. -/
def Dev.resetQueue (d : Dev) (n : Nat) : Dev :=
  let q := d.queue n
  let d := d.bump Q_DROPS_RESETS n
  if !q.seated then d.putQueue n fun q => { q with mark := some (resetWord n).w }
  else if q.words.isEmpty then
    let d := d.putQueue n fun q => { q with mark := some (resetWord n).w }
    d.enterMarker n
  else
    let back := q.dataCells - 1
    let d := d.putQueue n fun q => { q with words := [resetWord n], head := 0, mark := none }
    (d.giveCells back).threshold n q.depth

/-- A run with words in queue `n` pushes no more to it once it is reset (R264). -/
def Dev.cutRuns (d : Dev) (n : Nat) : Dev :=
  let ws := (d.queue n).words
  let cut := fun (k : Fin 8) (c : CallerState) =>
    { c with cut := if (ws.any fun x => x.run == some k.val) && !c.cut.contains n then c.cut ++ [n] else c.cut }
  { d with fig := { d.fig with callers := vmap cut d.fig.callers } }

/-- A new run of Caller `k`: what stands in the queues is of none that goes on. -/
def Dev.forgetRun (d : Dev) (k : Nat) : Dev :=
  let own := fun (x : QWord) => if x.run = some k then { x with run := none } else x
  d.inQue fun s => { s with q := vmap (fun _ q => { q with words := q.words.map own }) s.q }

/-- A reset in the course of operation (R264, R265). -/
def Dev.restartQueue (d : Dev) (n : Nat) : Dev := (d.cutRuns n).resetQueue n

/-- Every cell of queue `n` returned, as when it becomes unused, with the reset that this is (R45). -/
def Dev.vacateQueue (d : Dev) (n : Nat) : Dev :=
  let k := (d.queue n).cells
  (((d.cutRuns n).bump Q_DROPS_RESETS n).putQueue n fun _ => emptyQueue).inQue fun s => { s with free := s.free + k }

/-- A queue that becomes used takes its reserved cell, if one is left, and begins as if reset (R265, R411). -/
def Dev.seatNew (d : Dev) (n : Nat) : Dev :=
  let fresh : Queue := { emptyQueue with mark := some (resetWord n).w }
  let d := d.bump Q_DROPS_RESETS n
  if d.que.free = 0 then d.putQueue n fun _ => fresh
  else (d.takeCell.putQueue n fun _ => { fresh with seated := true }).enterMarker n

/-- The QMAP settings in force. -/
def Dev.setQueueCfg (d : Dev) (n : Nat) (e : QDef) : Dev :=
  let d := ((d.p Q_CFG_OWNER n e.owner).p Q_CFG_SOURCE n e.source).p Q_CFG_STREAM n (bitOf e.flags 0)
  ((d.p Q_CFG_THR_IRQ n (bitOf e.flags 1)).p Q_CFG_THRESHOLD n e.threshold).p Q_EVT_CELL_LIMIT n e.limit

/-- QMAP of a Reel that becomes active (R45, R265, R411); `old` is the QMAP before it, empty when no Reel was active. -/
def Dev.applyQmap (d : Dev) (old new : List QDef) : Dev :=
  let unusedDef : QDef := { owner := 0xFF, source := 0, flags := 0, threshold := 0, limit := 0 }
  let was := fun n => old.getD n unusedDef
  let will := fun n => new.getD n unusedDef
  let used := fun (e : QDef) => e.owner < 4
  let changed := fun n => (was n).owner != (will n).owner || (was n).source != (will n).source || (was n).limit != (will n).limit
  let all := List.range 64
  let d := d.each (all.filter fun n => used (was n) && !used (will n)) fun d n => d.vacateQueue n
  let d := d.each all fun d n => d.setQueueCfg n (will n)
  d.each all fun d n =>
    if !used (will n) then d
    else if !used (was n) then d.seatNew n
    else
      let d := if (d.queue n).seated || d.que.free = 0 then d else d.takeCell.putQueue n fun q => { q with seated := true }
      if changed n then (d.restartQueue n).putQueue n fun q => { q with last := none } else d

/-! ### Requests (R266) -/

/-- Queue `n` holds its owner's request. -/
def Dev.queueRequests (d : Dev) (n : Nat) : Bool := d.flag Q_EVT_THR n && d.flag Q_CFG_THR_IRQ n && !d.flag Q_EVT_MASK n

def Dev.queueCause (d : Dev) (t : Nat) : Bool := (List.range 64).any fun n => d.queueOwner n == t && d.queueUsed n && d.queueRequests n

end Sys2Proof.Machine
end

