-- ==== Sys2Proof/Machine/Health.lean ====
section
/-!
DEFINITION. Health records, the health log and the ECC lists (14_dependability_longevity.md R349 to R358).
-/

-- One declaration after another: the package is compiled as one text under a memory limit.
set_option Elab.async false

namespace Sys2Proof.Machine

/-! ### Codes (R356) -/
abbrev codeSegRetired : Nat := 0x01
abbrev codeSegReinstated : Nat := 0x02
abbrev codeRingGap : Nat := 0x03
abbrev codeLaneSpared : Nat := 0x08
abbrev codeLaneShared : Nat := 0x09
abbrev codeLaneSpareFail : Nat := 0x0A
abbrev codeDecSpared : Nat := 0x0C
abbrev codeDecCheckerFail : Nat := 0x0D
abbrev codeDecShared : Nat := 0x0E
abbrev codeDecLost : Nat := 0x0F
abbrev codeCallerSpared : Nat := 0x10
abbrev codeCallerShared : Nat := 0x11
abbrev codeCallerLost : Nat := 0x12
abbrev codeEstimatorOut : Nat := 0x14
abbrev codeTempoInvalid : Nat := 0x15
abbrev codeEcc : Nat := 0x18
abbrev codeCensusEcc : Nat := 0x19
abbrev codeHubEcc : Nat := 0x1A
abbrev codeQueueEcc : Nat := 0x1B
abbrev codeBookFault : Nat := 0x20
abbrev codePoolLow : Nat := 0x21
abbrev codePoolExhaust : Nat := 0x22
abbrev codeDuplicate : Nat := 0x24
abbrev codePwrFault : Nat := 0x28
abbrev codeEncoreCut : Nat := 0x29
abbrev codeTamper : Nat := 0x30
abbrev codeLongWarn : Nat := 0x38

/-- The severity of a code (R349, R356). -/
def sevOf (code : Nat) : Nat :=
  if code ∈ [codeSegReinstated, codePoolLow, codeDuplicate] then 0
  else if code ∈ [codeRingGap, codeDecLost, codeCallerLost, codeTempoInvalid, codeQueueEcc] then 3
  else if code ∈ [codeLaneShared, codeDecShared, codeCallerShared, codeEcc, codeCensusEcc, codeHubEcc, codePoolExhaust,
      codePwrFault, codeTamper] then 2
  else 1

/-- The used queues of SOURCE 3, ascending (R355). -/
def Dev.healthQueues (d : Dev) : List Nat := (List.range 64).filter fun n => d.queueUsed n && d.queueSource n == 3

/-- One record's words to every SOURCE 3 queue (R355, R363). -/
def Dev.pushHealth (d : Dev) (ws : List Nat) : Dev :=
  d.each d.healthQueues fun d n => (d.pushItem n (ws.map (BitVec.ofNat 32))).2

/-- The six words of a record (R355), with HEALTH_SEQ after it. -/
def recordWords (seq sev code elem a0 a1 time : Nat) : List Nat :=
  [inField 24 8 0x40 + inField 19 5 5 + inField 17 2 sev + inField 8 8 code + inField 0 8 elem,
   seq, a0 % 2 ^ 32, a1 % 2 ^ 32, time % 2 ^ 32, (time / 2 ^ 32) % 2 ^ 32]

/-- The record written to the log (R358). -/
def Dev.logRecord (d : Dev) (ws : List Nat) : Dev :=
  let n := d.g HEALTH_LOG_NEXT
  let d := d.wws (logBase + 8 * n) (ws ++ [0, 0])
  (d.p HEALTH_LOG_NEXT 0 (n + 1)).when (n == 1023) fun d => d.set1 HEALTH_LOG_WRAPPED

/-- A health record raised: HEALTH_SEQ, the log, the queues and the summary's counters (R355, R358, R359). -/
def Dev.raise (d : Dev) (code elem : Nat) (a0 a1 : Nat := 0) : Dev :=
  let sev := sevOf code
  let d := d.inc HEALTH_SEQ_SEQ
  let ws := recordWords (d.g HEALTH_SEQ_SEQ) sev code elem a0 a1 d.now
  let d := (d.logRecord ws).high HEALTH_SPARES_SEV 0 sev
  let d := d.inHealth fun h =>
    { h with
      groups := vupdN h.groups (code / 16 % 16) fun x => satAdd 8 x 1
      bookFaults := if code = codeBookFault then satAdd 16 h.bookFaults 1 else h.bookFaults
      tampers := if code = codeTamper then satAdd 16 h.tampers 1 else h.tampers
      last := ({ code := code, elem := elem, sev := sev, day := d.g LONG_DAY_DAY % 2 ^ 14 } :: h.last).take 8 }
  d.pushHealth ws

/-- POOL_LOW and POOL_EXHAUST raised where the free list met them (R271, R356). Their own pushes may meet them once more. -/
def poolRecords : Nat → Dev → Dev
  | 0, d => d
  | n + 1, d =>
    if d.que.lowDue then poolRecords n ((d.inQue fun s => { s with lowDue := false }).raise codePoolLow 0 d.que.free)
    else if d.que.exhaustDue then poolRecords n ((d.inQue fun s => { s with exhaustDue := false }).raise codePoolExhaust 0)
    else d

/-! ### Dumar answers, and the tenants' requests (R288, R293, R297) -/

/-- An answer: its header, its words, and its CRC word where the session has CRC. -/
def dumarAnswer (crc : Bool) (op tag status : Nat) (ws : List Word) : List Word :=
  let l := BitVec.ofNat 32 (inField 24 8 op + inField 16 8 tag + inField 11 5 status + inField 0 11 ws.length) :: ws
  if crc then l ++ [BitVec.ofNat 32 (crc32c (l.flatMap fun w => beBytes 4 w.toNat))] else l

/-- The contexts of a tenant: T0 has a second one before a Reel (R272). -/
def tenantCtxs (t : Nat) : List Nat := if t = 0 then [0, 4] else [t]

/-- The causes of HOSTn_IRQ [3:0] that are present: HUB, QUEUE, ANS, REEL. -/
def Dev.causes (d : Dev) (t : Nat) : Nat :=
  let hub := d.flag HUB_EVT_PEND t && !d.flag HUB_EVT_MASK t
  let ans := (tenantCtxs t).any fun i => !(vget d.host.ctx i (newCtx 0)).buf.isEmpty
  flagOf hub + 2 * flagOf (d.queueCause t) + 4 * flagOf ans + 8 * flagOf (t == 0 && d.reel.irq)

/-- Tenant `t`'s request is asserted. HIO holds the views and drives the pins. -/
def Dev.request (d : Dev) (t : Nat) : Bool :=
  d.domOn domHio && (t == 0 || (d.tenantDef t).isSome) && d.causes t &&& d.g HOST_IRQ_EN t != 0

/-- The tenant whose request drives HINTp: by the active Reel, and T0 on HINT0 while none is (R37, R297). -/
def Dev.hintTenant (d : Dev) (p : Nat) : Option Nat :=
  match d.reel.active with
  | none => if p = 0 then some 0 else none
  | some r => (r.tenants.find? fun e => e.hint == p).map (·.tenant)

/-- The level of HINTp, which the request drives at the level that POL selects; none: no tenant has the pin, or HIO does not drive
it (R297). -/
def Dev.hintLevel (d : Dev) (p : Nat) : Option Bool :=
  if d.domOn domHio then (d.hintTenant p).map fun t => d.request t == d.flag HOST_IRQ_POL t else none

/-- A NOTICE answer to each session of the tenant that has it (R289, R295): OP 0x7F, its TAG 0. -/
def Dev.notice (d : Dev) (t : Nat) : Dev :=
  let w := BitVec.ofNat 32 (d.causes t)
  d.each (tenantCtxs t) fun d i =>
    match (vget d.host.ctx i (newCtx 0)).session with
    | none => d
    | some s =>
      if s.features.testBit 3 then
        let a : HostAnswer := { words := dumarAnswer (s.features.testBit 0) 0x7F 0 0 [w], credit := false, closes := false }
        d.inHost fun h => { h with ctx := vupdN h.ctx i fun c => { c with out := c.out ++ [a] } }
      else d

/-- HOSTn_STATUS.REQ follows the request of each tenant; a rise pushes NOTICE. -/
def Dev.settleRequests (d : Dev) : Dev :=
  d.each (List.range 4) fun d t =>
    let now := d.request t
    let rise := now && !d.flag HOST_STATUS_REQ t
    (if now = d.flag HOST_STATUS_REQ t then d else d.pf HOST_STATUS_REQ t now).when rise fun d => d.notice t

/-- What follows every command that may push, raise a record or move a request. -/
def Dev.settlePool (d : Dev) : Dev := (poolRecords 4 d).settleRequests

/-- A census entry becomes FREE: its wear base goes (R361). -/
def Dev.dropTagBase (d : Dev) (idx : Nat) : Dev := d.inHealth fun h => { h with tagBase := h.tagBase.filter fun b => b.idx != idx }

/-! ### ECC lists (R353, R354) -/

/-- The error of a word, 0, 1 or 2 bits. -/
def Dev.eccOf (d : Dev) (bank word : Nat) : Nat :=
  ((d.health.ecc.find? fun e => e.bank == bank && e.word == word).map (·.bits)).getD 0

/-- A fresh code word is stored: no error stands, and the word leaves the list of bad words (R379). -/
def Dev.eccClear (d : Dev) (bank word : Nat) : Dev :=
  d.inHealth fun h =>
    { h with
      ecc := h.ecc.filter fun e => !(e.bank == bank && e.word == word)
      fix := vupdN h.fix bank fun l => l.filter (· != word)
      bad := vupdN h.bad bank fun l => l.filter (· != word) }

/-- A correction counted (R353). -/
def Dev.eccCount (d : Dev) (bank : Nat) : Dev :=
  (d.bump HEALTH_BANK_CORRECTED bank).inHealth fun h => { h with bankDay := vupdN h.bankDay bank (· + 1) }

/-- A requester met one wrong bit: the address enters the fix queue of 8, and is counted unless it waits there (R353). -/
def Dev.eccCorrect (d : Dev) (bank word : Nat) : Dev :=
  let q := vget d.health.fix bank []
  if q.contains word then d
  else
    (d.inHealth fun h => { h with fix := vupdN h.fix bank fun l => if l.length < 8 then l ++ [word] else l }).eccCount bank

/-- A two-bit error of a word not yet listed: it enters the list of 16 and is counted; `true` where it is new (R354). -/
def Dev.eccBad (d : Dev) (bank word : Nat) : Bool × Dev :=
  let q := vget d.health.bad bank []
  if q.contains word then (false, d)
  else
    (true, (d.inHealth fun h =>
      { h with bad := vupdN h.bad bank fun l => if l.length < 16 then l ++ [word] else l,
               uncorr := satAdd 16 h.uncorr 1 }).bump HEALTH_BANK_UNCORR bank)

end Sys2Proof.Machine
end

