-- ==== Sys2Proof/Machine/Places.lean ====
section
/-!
DEFINITION. Where rings and tags stand: the rings' angle models (04_tempo_angle.md R81), the census entries (07_census.md R178)
and the stator point of a tag (08_figures_callers.md R213).
-/

-- One declaration after another: the package is compiled as one text under a memory limit.
set_option Elab.async false

namespace Sys2Proof.Machine

/-! ### Rings (R81) -/

/-- One revolution in units of 2⁻⁴⁰. -/
abbrev turn40 : Nat := 2 ^ 40

def Dev.ring (d : Dev) (x : Nat) : RingState := vget d.tempo.rings x (newRing 0 false false false)
def Dev.putRing (d : Dev) (x : Nat) (f : RingState → RingState) : Dev := d.inTempo fun s => { s with rings := vupdN s.rings x f }
def Dev.track (d : Dev) (x e : Nat) : Track := vget (d.ring x).tracks e (newTrack false)
def Dev.putTrack (d : Dev) (x e : Nat) (f : Track → Track) : Dev := d.putRing x fun r => { r with tracks := vupdN r.tracks e f }

def Dev.ringValid (d : Dev) (x : Nat) : Bool := d.flag RING_STATUS_VALID x
def Dev.ringStill (d : Dev) (x : Nat) : Bool := d.flag RING_STATUS_STILL x
def Dev.ringReverse (d : Dev) (x : Nat) : Bool := d.flag RING_STATUS_REVERSE x

/-- The fraction with its sub-fraction bits. -/
def RingState.sub (r : RingState) : Nat := r.phase.toNat % turn40
/-- The 24-bit fraction. -/
def RingState.frac (r : RingState) : Nat := r.sub / 65536
/-- The revolution count. -/
def RingState.count (r : RingState) : Nat := r.phase.toNat / turn40
def RingState.setSub (r : RingState) (v : Nat) : RingState := { r with phase := BitVec.ofNat 80 (r.count * turn40 + v % turn40) }
def RingState.setCount (r : RingState) (c : Nat) : RingState := { r with phase := BitVec.ofNat 80 (c % turn40 * turn40 + r.sub) }

/-! ### Entries (R178) -/

/-- The bits of word `k` of an entry. -/
def Dev.ce (d : Dev) (idx k lo n : Nat) : Nat := d.rf (cenBase + 8 * idx + k) lo n
def Dev.putCe (d : Dev) (idx k lo n v : Nat) : Dev := d.wf (cenBase + 8 * idx + k) lo n v

abbrev stFree : Nat := 0
abbrev stCandidate : Nat := 1
abbrev stActive : Nat := 2
abbrev stLost : Nat := 3
abbrev stRetired : Nat := 4
abbrev stRetiring : Nat := 5
abbrev stDuplicate : Nat := 6

def Dev.entSa (d : Dev) (i : Nat) : Nat := d.ce i 2 0 12
def Dev.entState (d : Dev) (i : Nat) : Nat := d.ce i 2 12 3
def Dev.entTrusted (d : Dev) (i : Nat) : Bool := d.ce i 2 15 1 == 1
def Dev.entGen (d : Dev) (i : Nat) : Nat := d.ce i 2 16 2
def Dev.entRing (d : Dev) (i : Nat) : Nat := d.ce i 2 22 2
def Dev.entCaps (d : Dev) (i : Nat) : Nat := d.ce i 2 24 8
def Dev.entChannels (d : Dev) (i : Nat) : Nat := d.ce i 3 0 7
def Dev.entPlan (d : Dev) (i : Nat) : Nat := d.ce i 3 14 4
def Dev.entRef (d : Dev) (i : Nat) : Bool := d.ce i 3 23 1 == 1
def Dev.entPos (d : Dev) (i : Nat) : Nat := d.ce i 4 0 24
def Dev.entUid (d : Dev) (i : Nat) : Nat := d.rw (cenBase + 8 * i) + 2 ^ 32 * d.rw (cenBase + 8 * i + 1)
def Dev.entMask (d : Dev) (i : Nat) : Nat := d.rw (cenBase + 8 * i + 5) + 2 ^ 32 * d.rw (cenBase + 8 * i + 6)
def Dev.putState (d : Dev) (i st : Nat) : Dev := d.putCe i 2 12 3 st

/-- The 8,192 entries. -/
abbrev entries : List Nat := List.range 8192

/-- The entry holds its SA (R180). -/
def holdsSa (st : Nat) : Bool := st == stCandidate || st == stActive || st == stLost || st == stRetiring

/-- The entry that holds a short address. -/
def Dev.holder (d : Dev) (sa : Nat) : Option Nat := entries.find? fun i => holdsSa (d.entState i) && d.entSa i == sa

/-! ### Stator points (R75, R213) -/

/-- The census position of a short address. -/
def Dev.posOf (d : Dev) (sa : Nat) : Option Nat := (d.holder sa).map d.entPos

/-- The stator point of a tag now. -/
def Dev.tagPoint (d : Dev) (x sa : Nat) : Option Nat := (d.posOf sa).map fun p => ((d.ring x).frac + p) % 2 ^ 24

/-- The stator point of a tag where it is available: the ring's angle is valid and the SA has an entry (R75). -/
def Dev.validPoint (d : Dev) (x sa : Nat) : Option Nat := if d.ringValid x then d.tagPoint x sa else none

/-- The stator point of ring `x` that is at `p` now, `n` ticks ahead at the present speed. -/
def Dev.pointAhead (d : Dev) (x n p : Nat) : Nat := (((p : Int) + (d.ring x).inc * n / 2 ^ 16) % 2 ^ 24).toNat

end Sys2Proof.Machine
end

