-- ==== Sys2Proof/Machine/Trig.lean ====
section
/-!
DEFINITION. Cosines in units of 2⁻⁶⁰, exact at the multiples of 60 and 90 degrees: the only rational ones, so that every
floor and rounding the spec takes of a cosine comes out as for the real number.
-/

-- One declaration after another: the package is compiled as one text under a memory limit.
set_option Elab.async false

namespace Sys2Proof.Machine

abbrev trigOne : Int := 2 ^ 60

/-- π in units of 2⁻⁸⁰. -/
abbrev piFix : Int := 3797952473636338580787993

/-- The Taylor terms of the cosine: `t` is the present term, `i` its number. -/
def cosTerms (x2 : Int) : Nat → Nat → Int → Int → Int
  | 0, _, _, acc => acc
  | n + 1, i, t, acc =>
    let t' := -(t * x2 / 2 ^ 80) / ((2 * i + 1) * (2 * i + 2) : Nat)
    cosTerms x2 n (i + 1) t' (acc + t')

/-- cos(π · num / den) for 0 ≤ num ≤ den / 2, in units of 2⁻⁶⁰. -/
def cosQuarter (num den : Nat) : Int :=
  if num = 0 then trigOne
  else if 2 * num = den then 0
  else if 3 * num = den then trigOne / 2
  else
    let x := piFix * num / den
    cosTerms (x * x / 2 ^ 80) 16 0 (2 ^ 80) (2 ^ 80) / 2 ^ 20

/-- cos(π · num / den) for 0 ≤ num < 2 · den. -/
def cosTurn (num den : Nat) : Int :=
  if 2 * num ≤ den then cosQuarter num den
  else if num ≤ den then -(cosQuarter (den - num) den)
  else if 2 * num ≤ 3 * den then -(cosQuarter (num - den) den)
  else cosQuarter (2 * den - num) den

/-- cos(π · num / den). -/
def cosPi (num den : Nat) : Int := cosTurn (num % (2 * den)) den

/-- sin(π · num / den). -/
def sinPi (num den : Nat) : Int := cosPi (2 * num + 3 * den) (2 * den)

/-- ⌊d · w(k) + ½⌋ with the raised-cosine weight w(k) = (1 − cos(π k / n)) / 2 of R59. -/
def rampPart (d k n : Nat) : Nat := (((d : Int) * (trigOne - cosPi k n) + trigOne) / (2 * trigOne)).toNat

/-- The code that a ramp from `a0` to `a1` applies at cycle `k` of `n` (R59). -/
def rampCode (a0 a1 k n : Nat) : Nat :=
  if a0 ≤ a1 then a0 + rampPart (a1 - a0) k n else a0 - rampPart (a0 - a1) k n

/-- C(i) and S(i) of R242: 32,767 times the cosine and sine of i / 4,096 of a turn, rounded. -/
def orderCos (i : Nat) : Int := roundDiv (32767 * cosPi (2 * i) 4096) (2 ^ 60)
def orderSin (i : Nat) : Int := roundDiv (32767 * sinPi (2 * i) 4096) (2 ^ 60)

end Sys2Proof.Machine
end

