-- ==== Sys2Proof/Machine/Field.lean ====
section
/-!
DEFINITION. Segments, ramps, Glides, the token budget, retirement and fill-in (03_field_segments.md).
-/

-- One declaration after another: the package is compiled as one text under a memory limit.
set_option Elab.async false

namespace Sys2Proof.Machine

/-! ### SEGn_STATUS.STATE (R80) -/
abbrev segIdle : Nat := 0
abbrev segRampUp : Nat := 1
abbrev segDrive : Nat := 2
abbrev segRampDown : Nat := 3
abbrev segGlideIn : Nat := 4
abbrev segGlideOut : Nat := 5
abbrev segLevel : Nat := 6
abbrev segTune : Nat := 7
abbrev segBraked : Nat := 8
abbrev segRetired : Nat := 9

def Dev.seg (d : Dev) (n : Nat) : SegState := vget d.fld.segs n idleSeg
def Dev.putSeg (d : Dev) (n : Nat) (f : SegState → SegState) : Dev := d.inFld fun s => { s with segs := vupdN s.segs n f }
def Dev.segState (d : Dev) (n : Nat) : Nat := d.g SEG_STATUS_STATE n
def Dev.putSegState (d : Dev) (n v : Nat) : Dev := d.p SEG_STATUS_STATE n v
def Dev.held (d : Dev) (n : Nat) : Nat := d.g SEG_STATUS_HELD n
def Dev.segIsRetired (d : Dev) (n : Nat) : Bool := (d.g FLD_RETIRED_SEG).testBit n
def Dev.vdrvLow (d : Dev) : Bool := d.flag FLD_VDRV_LOW
/-- SEGn_STATUS.WARN: TEMP at or above WARN (R70). -/
def Dev.tempWarn (d : Dev) (n : Nat) : Bool := decide ((d.g SEG_TEMP_WARN n : Int) ≤ d.gs SEG_TEMP_TEMP n)
/-- TEMP at or above FAULT (R70). -/
def Dev.tempFault (d : Dev) (n : Nat) : Bool := decide ((d.g SEG_TEMP_FAULT n : Int) ≤ d.gs SEG_TEMP_TEMP n)

/-- N: the ramp length, 2 to 64 (R59). -/
def Dev.rampN (d : Dev) (n : Nat) : Nat := max 2 (min 64 (d.g SEG_CTRL_RAMP n))

/-- D: the ASK depth, 8 to 100 % (R58). -/
def Dev.askDepth (d : Dev) (n : Nat) : Nat := max 8 (min 100 (d.g SEG_CTRL_ASK_DEPTH n))

/-! ### Tokens (R54, R55) -/

/-- FSP_eff: FSP carried to the present VDRV (R54). -/
def Dev.fspEff (d : Dev) (n : Nat) : Nat :=
  let c := d.g SEG_LOAD_VDRV_CAL n
  let v := d.g FLD_VDRV_VDRV
  if c = 0 then 0 else d.g SEG_CAL_FSP n * (v * v) / (c * c)

/-- tokens(A) for an FSP_eff (R54). -/
def tokensAt (fsp a : Nat) : Nat := ceilDiv (fsp * (a * a)) 1040400

def Dev.tokens (d : Dev) (n a : Nat) : Nat := tokensAt (d.fspEff n) a

/-- The largest code that `lim` tokens cover. -/
def largestCode (fsp lim : Nat) : Nat := ((List.range 256).filter fun a => tokensAt fsp a ≤ lim).getLastD 0

/-- AMAX (R54); its reset value until VDRV has been measured (notes/assumptions/124.md). -/
def Dev.amax (d : Dev) (n : Nat) : Nat := if d.g FLD_VDRV_VDRV = 0 then 0 else largestCode (d.fspEff n) 100

/-- The segment is driven over the internal loopback path, which no held token limits (R404). -/
def Dev.loopsInside (d : Dev) (n : Nat) : Bool := (d.seg n).owner == some .loop && !((d.tap.loop.map (·.ext)).getD true)

/-- As much of code `a` as the segment's held tokens cover (R56). -/
def Dev.covered (d : Dev) (n a : Nat) : Nat :=
  if d.loopsInside n ∨ d.tokens n a ≤ d.held n then a else largestCode (d.fspEff n) (d.held n)

/-- The code `a` applied in so far as the held tokens cover it; CLAMP is set as they come not to (R56). -/
def Dev.applyCode (d : Dev) (n a : Nat) : Dev :=
  let got := d.covered n a
  let was := (d.seg n).clamped
  let d := d.putSeg n fun x => { x with want := a, level := got, clamped := decide (got < a) }
  d.when (decide (got < a) && !was) fun d => d.set1 SEG_FAULT_CLAMP n

/-! ### Phase (R57, R62) -/

/-- The phase reference of a ring. -/
def Dev.ringPhase (d : Dev) (x : Nat) : Nat :=
  match x with
  | 0 => d.g FLD_RING_PHASE_RING_A
  | 1 => d.g FLD_RING_PHASE_RING_B
  | 2 => d.g FLD_RING_PHASE_RING_C
  | _ => d.g FLD_RING_PHASE_RING_D

/-- A carried operation holds the segment (R44). -/
def Dev.segCarried (d : Dev) (n : Nat) : Bool :=
  match (d.seg n).owner with
  | some (.slot i) => ((vget d.fig.slots i none).map (·.carried)).getD false
  | _ => false

/-- The ring of a segment: the outgoing Reel's while a carried operation holds it (R44). -/
def Dev.segRing (d : Dev) (n : Nat) : Option RingDef :=
  (if d.segCarried n then d.reel.outgoing else d.reel.active).bind fun r => r.ringOfSeg n

/-- The retired segments whose windows count for a slot's operation: those at the firing of its Step (R76). -/
def Dev.slotMask (d : Dev) (i : Nat) : Nat := ((vget d.fig.slots i none).map (·.mask)).getD (d.g FLD_RETIRED_SEG)

/-- The retired segments whose windows count for a segment: those of the operation that holds it, else the present ones (R76). -/
def Dev.segMask (d : Dev) (n : Nat) : Nat :=
  match (d.seg n).owner with
  | some (.slot i) => d.slotMask i
  | _ => d.g FLD_RETIRED_SEG

/-- The phase of R57, as the registers give it. -/
def Dev.formedPhase (d : Dev) (n : Nat) : Nat := (((d.segRing n).map fun e => d.ringPhase e.ring).getD 0 + d.g SEG_PHASE_CAL n) % 64

/-- The effective phase: the one latched for a Glide (R62), else that of R57, which a driving segment takes at a carrier-cycle
boundary (R49). -/
def Dev.effPhase (d : Dev) (n : Nat) : Nat :=
  match (d.seg n).phase with
  | some p => p
  | none => if (d.seg n).level = 0 then d.formedPhase n else (d.seg n).phaseNow

/-! ### Arcs and windows (R73, R74) -/

/-- The stator fraction of half-segment edge `h` of a ring of `s` segments, counted from ORIGIN. -/
def RingDef.edge (e : RingDef) (h : Nat) : Nat := (e.origin + h * 2 ^ 24 / (2 * e.segCount)) % 2 ^ 24

/-- The place of a segment in ring order. -/
def RingDef.place (e : RingDef) (n : Nat) : Nat := (e.segs.takeWhile (· != n)).length

/-- How many retired segments stand in a run from place `i`, stepping by `step` modulo the count. -/
def retiredRun (ret : Nat → Bool) (s step : Nat) : Nat → Nat → Nat
  | 0, _ => 0
  | fuel + 1, i => if ret (i % s) then 1 + retiredRun ret s step fuel ((i + step) % s) else 0

/-- The half segments borrowed across a run (R73). -/
def borrowHalves (run : Nat) : Nat := min run 2

/-- The segment at place `i` is one of the retired ones, `mask`. -/
def RingDef.retiredAt (e : RingDef) (mask i : Nat) : Bool := mask.testBit (e.segs.getD i 24)

/-- The runs of retired segments before and after the segment at place `i`. -/
def RingDef.runsAround (e : RingDef) (mask i : Nat) : Nat × Nat :=
  let s := e.segCount
  (retiredRun (e.retiredAt mask) s (s - 1) (s - 1) ((i + s - 1) % s), retiredRun (e.retiredAt mask) s 1 (s - 1) ((i + 1) % s))

/-- The extensions of the window at place `i` toward its predecessor and its successor, in half segments (R73). -/
def RingDef.fills (e : RingDef) (mask i : Nat) : Nat × Nat :=
  if e.retiredAt mask i then (0, 0)
  else let r := e.runsAround mask i; (borrowHalves r.1, borrowHalves r.2)

/-- The uncovered arcs of a ring, as start and end fractions (R73, R74). -/
def RingDef.gaps (e : RingDef) (mask : Nat) : List (Nat × Nat) :=
  let s := e.segCount
  let places := List.range s
  if places.all (e.retiredAt mask) then [(e.edge 0, e.edge 0)]
  else
    (places.filter fun i => !e.retiredAt mask i).filterMap fun i =>
      let k := (e.runsAround mask i).2
      if k < 3 then none else some (e.edge (2 * ((i + 2) % s)), e.edge (2 * ((i + k) % s)))

/-- The effective window of the segment at place `i`: start, end, and whether it covers the whole revolution (R73, R74). -/
def RingDef.windowAt (e : RingDef) (mask i : Nat) : Nat × Nat × Bool :=
  let s := e.segCount
  let f := e.fills mask i
  (e.edge (2 * i + 2 * s - f.1), e.edge (2 * i + 2 + f.2), 2 * s ≤ 2 + f.1 + f.2)

/-- `x` lies in the arc from `a` forward to `b`. -/
def inArc (a b x : Nat) : Bool := (x + 2 ^ 24 - a) % 2 ^ 24 < (b + 2 ^ 24 - a) % 2 ^ 24

/-- The segment whose effective window holds a stator point (R73, R213). -/
def RingDef.segAt (e : RingDef) (mask pt : Nat) : Option Nat :=
  ((List.range e.segCount).find? fun i =>
    !e.retiredAt mask i && (let w := e.windowAt mask i; w.2.2 || inArc w.1 w.2.1 pt)).bind fun i => e.segs[i]?

/-- The extension, in half segments, of the borrowed part of a segment's window that holds the point; 0: none does (R75). -/
def RingDef.borrowed (e : RingDef) (mask n pt : Nat) : Nat :=
  let i := e.place n
  let f := e.fills mask i
  if inArc (e.edge (2 * i + 2 * e.segCount - f.1)) (e.edge (2 * i)) pt then f.1
  else if inArc (e.edge (2 * i + 2)) (e.edge (2 * i + 2 + f.2)) pt then f.2 else 0

/-- The retired segments between O and I in the sense of rotation, where I is O's next in it; else in the other sense; `none`:
they are not adjacent in the effective cover order (R61, R73). -/
def RingDef.runBetween (e : RingDef) (mask : Nat) (rev : Bool) (o i : Nat) : Option Nat :=
  let s := e.segCount
  let a := e.place o
  let b := e.place i
  let r := e.runsAround mask a
  let ahead := if (a + 1 + r.2) % s = b then some r.2 else none
  let behind := if (a + 2 * s - 1 - r.1) % s = b then some r.1 else none
  if o = i ∨ !e.segs.contains o ∨ !e.segs.contains i ∨ e.retiredAt mask a ∨ e.retiredAt mask b then none
  else if rev then behind.or ahead else ahead.or behind

/-- The present gaps of a ring. -/
def Dev.gaps (d : Dev) (e : RingDef) : List (Nat × Nat) := e.gaps (d.g FLD_RETIRED_SEG)

/-- What the registers say of a segment's effective window (R73, R74). -/
def Dev.setWindow (d : Dev) (n : Nat) : Dev :=
  let e := d.segRing n
  let mask := d.g FLD_RETIRED_SEG
  let f := (e.map fun e => e.fills mask (e.place n)).getD (0, 0)
  let w := (e.map fun e => e.windowAt mask (e.place n)).getD (0, 0, false)
  let d := (d.p SEG_WIN_START_FRACTION n w.1).p SEG_WIN_END_FRACTION n w.2.1
  let d := (d.pf SEG_FILL_FILL_PRED n (f.1 != 0)).pf SEG_FILL_FILL_SUCC n (f.2 != 0)
  d.pf SEG_STATUS_FILLING n (f.1 != 0 || f.2 != 0)

/-- The windows of all segments: by the active Reel's rings, and by the outgoing one's where a carried operation holds the
segment (R44); a segment of no ring has none. -/
def Dev.setAllWindows (d : Dev) : Dev := d.each (List.range 24) Dev.setWindow

/-- The extension of the borrowed part of a segment that holds the point, under the windows of its operation (R75, R76). -/
def Dev.borrowedAt (d : Dev) (n pt : Nat) : Nat := ((d.segRing n).map fun e => e.borrowed (d.segMask n) n pt).getD 0

/-- The extension under which the segment applies a level for tag `tag` now: 0 where the tag's stator point is not available or
does not lie in a borrowed part (R75). -/
def Dev.extNow (d : Dev) (n : Nat) (tag : Option Nat) : Nat :=
  match tag, d.segRing n with
  | some sa, some e => ((d.validPoint e.ring sa).map (d.borrowedAt n)).getD 0
  | _, _ => 0

/-- The extension of the borrowed part that holds the point of its tag now, or in N carrier cycles at the present speed (R75). -/
def Dev.fillExt (d : Dev) (n : Nat) : Nat :=
  match (d.seg n).tag, d.segRing n with
  | some sa, some e =>
    match d.validPoint e.ring sa with
    | some p => if d.borrowedAt n p = 0 then d.borrowedAt n (d.pointAhead e.ring (2 * d.rampN n) p) else d.borrowedAt n p
    | none => 0
  | _, _ => 0

/-- The fill amplitude for a commanded level under an extension; FILL_SHORT where AMAX caps it (R75). -/
def Dev.fillLevel (d : Dev) (n a ext : Nat) : Nat × Dev :=
  if ext = 0 then (a, d)
  else
    let gain := max 16 (if ext = 1 then d.g SEG_FILL_GAIN1 n else d.g SEG_FILL_GAIN2 n)
    let want := (2 * a * gain + 16) / 32
    if want ≤ d.amax n then (want, d) else (d.amax n, d.set1 SEG_FAULT_FILL_SHORT n)

/-! ### Token returns (R68, R69) -/

/-- The segment's tokens return and its claim record is released. -/
def Dev.returnTokens (d : Dev) (n : Nat) : Dev :=
  let k := d.held n
  let carried := d.segCarried n
  let d := ((d.p FLD_BUDGET_FREE 0 (d.g FLD_BUDGET_FREE + k)).p SEG_STATUS_HELD n 0).putSeg n fun x => { x with owner := none }
  d.when carried Dev.setAllWindows

/-- CLAIMED (R69). -/
def Dev.claimed (d : Dev) : Nat := ((List.range 24).map d.held).sum

/-! ### Measurements of a DRIVE interval (R71) -/

/-- RLOAD in µΩ from the measured current (R52): amplitude code, VDRV in mV, current in mA, phase in 1/8 °c. -/
def loadMicro (rout amp vdrv imag : Nat) (iph : Int) : Int :=
  (900300 * vdrv * amp : Nat) * cosPi iph.natAbs 1440 / ((255 * imag : Nat) * trigOne) - (rout : Int)

/-- RLOAD as its register holds it, in 1/16 Ω. -/
def loadField (r : Int) : Nat := (clampInt 0 4095 (r * 16 / 1000000)).toNat

/-- FSP from RLOAD in µΩ (R52). A value above the 12-bit field is taken modulo 4,096: R52 does not say whether it wraps or saturates
(DESIGN CHOICE, notes/assumptions/130.md). -/
def fspOf (rout vdrv : Nat) (r : Int) : Nat :=
  let q := r + rout
  if r ≤ 0 then 0 else (1600 * 81054009 * (vdrv * vdrv) * r.toNat / (10 ^ 8 * (q * q).toNat)) % 4096

/-- The snapshot of SEGn_MEAS at the end of a DRIVE interval of at least 64 carrier cycles: the command that ends it
carries no measurement, so current and phase are free values. -/
def Dev.endDrive (d : Dev) (n : Nat) : Dev :=
  if d.segState n ≠ segDrive ∨ (d.seg n).driveCycles < 64 then d.putSeg n fun x => { x with driveCycles := 0 }
  else
    let (a, d) := d.freeVal
    let (b, d) := d.freeVal
    let d := (d.p SEG_MEAS_IMAG n a).p SEG_MEAS_IPH n b
    let vdrv := d.g FLD_VDRV_VDRV
    let r := loadField (loadMicro (Config.rout n (d.gs SEG_TEMP_TEMP n)) (d.seg n).level vdrv (max 1 (d.g SEG_MEAS_IMAG n)) (d.gs SEG_MEAS_IPH n))
    let d := d.inHealth fun h => { h with coilDay := vupdN h.coilDay n fun p => (p.1 + r, p.2 + 1) }
    d.putSeg n fun x => { x with driveCycles := 0 }

/-- A downlink frame on the air goes on without segment `n`, which applies 0. -/
def Dev.leaveFrames (d : Dev) (n : Nat) : Dev :=
  let leave := fun (x : Downlink) => { x with segs := x.segs.filter (· != n) }
  { d with air := { d.air with downlinks := d.air.downlinks.map leave } }

/-- The segment applies 0: its DRIVE interval has ended, its tokens return, and it is IDLE, or RETIRED. -/
def Dev.segToZero (d : Dev) (n : Nat) : Dev :=
  let d := ((d.endDrive n).returnTokens n).leaveFrames n
  let d := d.putSeg n fun x =>
    { x with want := 0, level := 0, clamped := false, ramp := none, partner := none, ext := 0, phase := none, tag := none, driveCycles := 0 }
  (d.p SEG_AMP_TARGET n 0).putSegState n (if d.segIsRetired n then segRetired else segIdle)

/-! ### Ramps (R59, R60) -/

/-- A ramp from the level applied now, in STATE `st`. -/
def Dev.startRamp (d : Dev) (n goal len st : Nat) : Dev :=
  let d := d.endDrive n
  (d.putSeg n fun x => { x with ramp := some { begun := false, a0 := x.level, a1 := goal, k := 0, n := len }, clamped := false }).putSegState n st

/-- A ramp commanded on one segment of a running Glide takes it out of the Glide: the other finishes its own ramp (R60, R61). -/
def Dev.unlink (d : Dev) (n : Nat) : Dev :=
  match (d.seg n).partner with
  | none => d
  | some m =>
    let d := (d.putSeg n fun x => { x with partner := none, phase := none }).putSeg m fun x => { x with partner := none, phase := none }
    if d.segState m = segGlideOut then d.putSegState m segRampDown
    else if d.segState m = segGlideIn then d.putSegState m segRampUp
    else d

/-- A fall to 0 over N from the level applied (R60); a segment that applies 0 already returns its tokens at once (R68). -/
def Dev.rampDown (d : Dev) (n : Nat) : Dev :=
  let d := d.unlink n
  if (d.seg n).level = 0 then d.segToZero n
  else ((d.putSeg n fun x => { x with ext := 0 }).startRamp n 0 (d.rampN n) segRampDown).p SEG_AMP_TARGET n 0

/-- A fall to 0 over N, unless the segment falls already. -/
def Dev.fall (d : Dev) (n : Nat) : Dev := if d.segState n = segRampDown then d else d.rampDown n

/-- A rise or a change of level. -/
def Dev.rampTo (d : Dev) (n goal : Nat) : Dev :=
  let d := d.unlink n
  let st := if (d.seg n).level = 0 ∨ d.segState n = segRampDown ∨ d.segState n = segRampUp then segRampUp else segLevel
  d.startRamp n goal (d.rampN n) st

/-- A loopback run whose segment has come back to 0 is DONE: its results are shown (R404). -/
def Dev.loopOver (d : Dev) (n : Nat) : Dev :=
  match d.tap.loop with
  | none => d
  | some r =>
    match r.got with
    | none => d
    | some g =>
      if r.seg ≠ n then d
      else
        let d := (d.inTap fun t => { t with loop := none }).set1 TEST_LOOP_RESULT_DONE
        let d := ((d.pf TEST_LOOP_RESULT_PASS 0 g.pass).pf TEST_LOOP_RESULT_OPEN 0 g.opened).pf TEST_LOOP_RESULT_SHORT 0 g.shorted
        (d.p TEST_LOOP_RESULT_MAG 0 g.mag).ps TEST_LOOP_RESULT_PHASE 0 g.phase

/-- The end of the running ramp: DRIVE, a tuning run's drive (R51), or 0 and the tokens' return (R59, R68). -/
def Dev.endRamp (d : Dev) (n : Nat) : Dev :=
  match (d.seg n).ramp with
  | none => d
  | some r =>
    let there := (d.applyCode n r.a1).putSeg n fun x => { x with ramp := none, driveCycles := 0, steady := d.now }
    if d.segState n = segRampUp ∨ d.segState n = segLevel then there.putSegState n segDrive
    else if d.segState n = segTune then there
    else if d.segState n = segRampDown then (d.segToZero n).loopOver n
    else d

/-- The ramps and the DRIVE intervals at a carrier-cycle boundary: a ramp's first applies k = 0 (R61). -/
def stepRamp (x : SegState) : SegState :=
  match x.ramp with
  | none => { x with driveCycles := x.driveCycles + 1 }
  | some r =>
    if !r.begun then { x with ramp := some { r with begun := true }, want := r.a0 }
    else
      let k := min r.n (r.k + 1)
      { x with ramp := some { r with k := k }, want := rampCode r.a0 r.a1 k r.n }

/-- A driver at a carrier-cycle boundary: its amplitude and its phase change there alone (R49). -/
def Dev.segCycle (d : Dev) (n : Nat) : Dev :=
  let x := stepRamp (d.seg n)
  (d.putSeg n fun _ => { x with phaseNow := d.formedPhase n }).applyCode n x.want

/-- A carrier-cycle boundary for every driver in use. -/
def Dev.carrierCycle (d : Dev) : Dev :=
  d.each ((List.range 24).filter fun n => let x := d.seg n; x.ramp.isSome || x.want != 0 || x.level != 0) Dev.segCycle

/-! ### Glide (R61 to R64) -/

/-- The retired segments between O and I, adjacent in the effective cover order of the operation that holds O (R61, R76). -/
def Dev.runBetween (d : Dev) (o i : Nat) : Option Nat :=
  (d.segRing o).bind fun e => e.runBetween (d.segMask o) (d.ringReverse e.ring) o i

/-- O and I are adjacent in the ring's effective cover order (R73). -/
def Dev.coverPair (d : Dev) (o i : Nat) : Bool := (d.runBetween o i).isSome

/-- The point of a tag is available (R75). -/
def Dev.pointKnown (d : Dev) (n : Nat) (tag : Option Nat) : Bool :=
  match tag, d.segRing n with
  | some sa, some e => (d.validPoint e.ring sa).isSome
  | _, _ => false

/-- The extension under which I rises in a Glide from O (R61, R75). -/
def Dev.glideExt (d : Dev) (o i : Nat) : Nat :=
  if d.pointKnown o (d.seg o).tag then borrowHalves ((d.runBetween o i).getD 0) else 0

/-- I joins the frames that O carries, at the bit position in which O stands (R63). -/
def Dev.joinFrames (d : Dev) (o i : Nat) : Dev :=
  let join := fun (x : Downlink) => if x.segs.contains o && decide (d.now < x.stop) then { x with segs := x.segs ++ [i] } else x
  { d with air := { d.air with downlinks := d.air.downlinks.map join } }

/-- The Glide's start (R61 to R63): A_in is the commanded level, or the fill amplitude across a run of retired segments. I takes
O's phase and joins the frame that O carries. -/
def Dev.startGlide (d : Dev) (o i level : Nat) : Dev :=
  let ext := d.glideExt o i
  let (ain, d) := d.fillLevel i level ext
  let len := d.rampN o
  let ph := d.effPhase o
  let was := d.seg o
  let d := (d.startRamp i ain len segGlideIn).startRamp o 0 len segGlideOut
  let d := d.putSeg i fun x => { x with partner := some o, phase := some ph, ext := ext, tag := was.tag, steady := was.steady }
  let d := d.putSeg o fun x => { x with partner := some i, phase := some ph }
  (d.joinFrames o i).p SEG_AMP_TARGET i level

/-- The end of the Glide in which `n` takes part (R64). -/
def Dev.endGlide (d : Dev) (n : Nat) : Dev :=
  match (d.seg n).partner with
  | none => d
  | some m =>
    let (o, i) := if d.segState n = segGlideOut then (n, m) else (m, n)
    let d := (d.applyCode i (((d.seg i).ramp.map (·.a1)).getD (d.seg i).want)).putSeg i fun x =>
      { x with ramp := none, partner := none, phase := none, driveCycles := 0 }
    (d.putSegState i segDrive).segToZero o

/-- A Glide refused: GLIDE_ABORT on both (R61). -/
def Dev.glideAbort (d : Dev) (o i : Nat) : Dev := (d.set1 SEG_FAULT_GLIDE_ABORT o).set1 SEG_FAULT_GLIDE_ABORT i

/-! ### Claims (R66, R67) -/

/-- The owner has a claim on the segment, granted or queued. -/
def Dev.hasGranted (d : Dev) (n : Nat) (o : ClaimOwner) : Bool := (d.seg n).owner == some o
def Dev.hasQueued (d : Dev) (n : Nat) (o : ClaimOwner) : Bool := d.fld.claims.any fun c => c.seg == n && c.owner == o

/-- The tokens of the owner's queued claims on the segment. -/
def Dev.queuedTokens (d : Dev) (n : Nat) (o : ClaimOwner) : Nat :=
  ((d.fld.claims.filter fun c => c.seg == n && c.owner == o).map (·.tokens)).sum

def Dev.claimRefused (d : Dev) : Dev := d.set1 FLD_EVENTS_CLAIM_REFUSED

/-- A claim (R66): `true` where it is refused at once. `exempt` is a tuning claim or the internal loopback path (R55, R404). -/
def Dev.claimTokens (d : Dev) (c : Claim) (exempt : Bool) : Bool × Dev :=
  let n := c.seg
  let own := if d.hasGranted n c.owner then d.held n else 0
  let most := if d.tempWarn n then 50 else 100
  if (d.segIsRetired n && c.owner != .loop) || !d.domTakes (fldDom n) || (!exempt && (d.g SEG_CAL_FSP n == 0 || d.fspEff n == 0)) || d.vdrvLow
      || most < own + d.queuedTokens n c.owner + c.tokens then (true, d.claimRefused)
  else (false, d.inFld fun s => { s with claims := s.claims ++ [c] })

/-- One claim goes before another: higher priority, earlier, lower Caller (R67). -/
def claimFirst (a b : Claim) : Bool :=
  decide (b.prio < a.prio) || (a.prio == b.prio && (decide (a.cycle < b.cycle) || (a.cycle == b.cycle && decide (a.caller < b.caller))))

/-- The queue in granting order (R67). -/
def claimOrder (l : List Claim) : List Claim := sortBy claimFirst l

/-- The segment holds a record of another owner. -/
def Dev.claimBlocked (d : Dev) (c : Claim) : Bool :=
  match (d.seg c.seg).owner with
  | none => false
  | some o => o != c.owner

/-- The head of the queue: the first claim whose segment no other owner holds. -/
def Dev.headClaim (d : Dev) : Option Claim := (claimOrder d.fld.claims).find? fun c => !d.claimBlocked c

/-- FREE covers the head claim. -/
def Dev.grantable (d : Dev) : Bool :=
  match d.headClaim with
  | none => false
  | some c => !d.vdrvLow && c.tokens ≤ d.g FLD_BUDGET_FREE

/-- The ramp to a commanded level, or to the fill amplitude for it while the point of the segment's tag lies in a borrowed part
(R75). -/
def Dev.rampLevel (d : Dev) (n level : Nat) : Dev :=
  let ext := d.extNow n (d.seg n).tag
  let (want, d) := d.fillLevel n level ext
  ((d.p SEG_AMP_TARGET n level).putSeg n fun x => { x with ext := ext, heldStart := none }).rampTo n want

/-- The ramp to the fill amplitude under extension `ext` (R75). -/
def Dev.rampFill (d : Dev) (n ext : Nat) : Dev :=
  let (want, d) := d.fillLevel n (d.g SEG_AMP_TARGET n) ext
  (d.putSeg n fun x => { x with ext := ext, heldStart := none }).startRamp n want (d.rampN n) segLevel

/-- A start that came after the boundary that was asked for (R65). -/
def Dev.noteLate (d : Dev) (n : Nat) (h : HeldStart) : Dev :=
  d.when (decide (h.due ≤ d.now / 2)) fun d => (d.set1 SEG_FAULT_LATE n).bump FLD_LATE_COUNT

/-- What waited for its grant starts now (R65); a Glide whose O has left DRIVE, or whose I is not IDLE, is refused (R77). -/
def Dev.lateStart (d : Dev) (n : Nat) : Dev :=
  match (d.seg n).heldStart with
  | none => d
  | some h =>
    match h.kind with
    | .level => (d.noteLate n h).rampLevel n h.level
    | .fill ext => (d.noteLate n h).rampFill n ext
    | .glide o =>
      let d := d.putSeg n fun x => { x with heldStart := none }
      if d.segState o = segDrive ∧ d.segState n = segIdle then (d.noteLate n h).startGlide o n h.level else d.glideAbort o n

/-- The code that a held start leads to. -/
def Dev.heldCode (d : Dev) (n : Nat) (h : HeldStart) : Nat :=
  match h.kind with
  | .level => (d.fillLevel n h.level (d.extNow n (d.seg n).tag)).1
  | .fill ext => (d.fillLevel n (d.g SEG_AMP_TARGET n) ext).1
  | .glide _ => 0

/-- A start that waits for slot `i`'s claims begins once no claim of it on the segment is queued, or the held tokens cover it. -/
def Dev.startHeld (d : Dev) (n i : Nat) : Dev :=
  match (d.seg n).heldStart with
  | none => d
  | some h => if d.hasQueued n (.slot i) ∧ d.held n < d.tokens n (d.heldCode n h) then d else d.lateStart n

/-- The head claim granted, whole, where FREE covers it (R67, R69). -/
def Dev.grantHead (d : Dev) : Dev :=
  match d.headClaim with
  | none => d
  | some c =>
    if !d.grantable then d
    else
      let n := c.seg
      let d := d.inFld fun s => { s with claims := s.claims.erase c }
      let d := (d.p FLD_BUDGET_FREE 0 (d.g FLD_BUDGET_FREE - c.tokens)).p SEG_STATUS_HELD n (d.held n + c.tokens)
      let d := d.putSeg n fun x => { x with owner := some c.owner }
      let d := match c.owner with
        | .slot i => d.p SEG_STATUS_OWNER n i
        | _ => d
      let d := d.high FLD_PEAK_PEAK 0 d.claimed
      match c.owner with
      | .tune => d.startRamp n (d.g SEG_TUNE_TUNE_AMP n) (d.rampN n) segTune
      | .loop => d.startRamp n ((d.tap.loop.map (·.amp)).getD 0) 32 segRampUp
      | .slot i => (d.when (d.segCarried n) Dev.setAllWindows).startHeld n i

/-- Queued claims that `p` names leave the queue. -/
def Dev.dropClaims (d : Dev) (p : Claim → Bool) : Dev := d.inFld fun s => { s with claims := s.claims.filter fun c => !p c }

/-! ### FIELD and GLIDE as a Caller commands them (R61, R65, R75, R77) -/

/-- A start that waits for a grant (R65), asked for now. -/
def Dev.hold (d : Dev) (n o level : Nat) (kind : StartKind) : Dev :=
  d.putSeg n fun x => { x with heldStart := some { slot := o, level := level, kind := kind, due := d.now / 2 + 1 } }

/-- A start that slot `o` waits for on the segment is given up. -/
def Dev.dropHeld (d : Dev) (n o : Nat) : Dev :=
  d.putSeg n fun x => if (x.heldStart.map (·.slot)) = some o then { x with heldStart := none } else x

/-- FIELD on a segment for scoreboard slot `o` and the Step's tag; `true`: refused. -/
def Dev.fieldTo (d : Dev) (n o level : Nat) (tag : Option Nat) : Bool × Dev :=
  let own := ClaimOwner.slot o
  if level = 0 then (false, let d := d.dropHeld n o; if d.hasGranted n own then d.rampDown n else d)
  else if d.hasGranted n own then
    let d := d.putSeg n fun x => { x with tag := tag }
    let (want, _) := d.fillLevel n level (d.extNow n tag)
    if d.hasQueued n own ∧ d.held n < d.tokens n want ∧ (d.seg n).level < want then
      (false, (d.p SEG_AMP_TARGET n level).hold n o level .level)
    else (false, d.rampLevel n level)
  else if d.hasQueued n own then (false, (d.putSeg n fun x => { x with tag := tag }).hold n o level .level)
  else (true, d)

/-- I stands still and is free for a Glide, or another owner's record is still to go (R61, R77). -/
def Dev.glideReady (d : Dev) (inn : Nat) (own : ClaimOwner) : Bool :=
  d.segState inn == segIdle || (d.hasQueued inn own && (d.seg inn).owner.isSome && !d.hasGranted inn own)

/-- GLIDE from O to I for slot `o`; `true`: refused, with GLIDE_ABORT on both (R61). -/
def Dev.glideTo (d : Dev) (out inn o level : Nat) : Bool × Dev :=
  let own := ClaimOwner.slot o
  if d.segState out = segDrive ∧ d.glideReady inn own = true ∧ d.coverPair out inn = true ∧ (d.hasGranted inn own || d.hasQueued inn own) = true then
    if d.hasGranted inn own then (false, d.startGlide out inn level) else (false, d.hold inn o level (.glide out))
  else (true, d.glideAbort out inn)

/-- What a slot's END or abort does to the field: its segments fall, its queued claims and held starts go (R68, R217). -/
def Dev.dropField (d : Dev) (o : Nat) : Dev :=
  let own := ClaimOwner.slot o
  let d := (d.dropClaims fun c => c.owner == own).each (List.range 24) fun d n => d.dropHeld n o
  d.each ((List.range 24).filter fun n => d.hasGranted n own) Dev.fall

/-! ### Retirement and reinstatement (R70 to R76) -/

def Dev.countRetired (d : Dev) : Dev := d.p HEALTH_SPARES_RETIRED 0 (popCount 24 (d.g FLD_RETIRED_SEG))

/-- New windows, with RING_GAP and its record where an arc opens (R73, R74, R350). -/
def Dev.rewindow (d : Dev) (e : RingDef) (before : List (Nat × Nat)) : Dev :=
  let d := d.setAllWindows
  d.each ((d.gaps e).filter fun g => !before.contains g) fun d g => (d.set1 FLD_EVENTS_RING_GAP).raise codeRingGap e.ring g.1 g.2

/-- Driver and coil of a segment frozen or released (R362). -/
def Dev.freezeSeg (d : Dev) (n : Nat) (b : Bool) : Dev :=
  d.inHealth fun h =>
    { h with elems := vupdN (vupdN h.elems n fun x => { x with frozen := b }) (24 + n) fun x => { x with frozen := b } }

/-- A segment retired for cause 1 open, 2 short, 3 thermal (R66, R70, R73). -/
def Dev.retireSeg (d : Dev) (n cause : Nat) : Dev :=
  if d.segIsRetired n then d
  else
    let e := d.reel.active.bind fun r => r.ringOfSeg n
    let before := (e.map d.gaps).getD []
    let d := (((d.setBit FLD_RETIRED_SEG 0 n).set1 SEG_STATUS_RETIRED n).set1 FLD_EVENTS_RETIRE).countRetired
    let d := d.when (d.hasQueued n .tune) fun d => d.set1 SEG_TUNE_FAIL n
    let d := d.when (d.fld.claims.any fun c => c.seg == n) fun d => (d.dropClaims fun c => c.seg == n).claimRefused
    let d := match (d.seg n).heldStart with
      | none => d
      | some h =>
        let d := d.putSeg n fun x => { x with heldStart := none }
        match h.kind with
        | .glide o => d.glideAbort o n
        | _ => d
    let d := (d.freezeSeg n true).raise codeSegRetired n cause ((e.map (·.ring)).getD 0)
    match e with
    | none => d
    | some e => d.rewindow e before

/-- What the other segment of a running Glide does when `n` is retired: I completes its rise, O ramps back (R77). -/
def Dev.leaveGlide (d : Dev) (n : Nat) : Dev :=
  match (d.seg n).partner with
  | none => d
  | some m =>
    let out := d.segState n = segGlideOut
    let back := ((d.seg m).ramp.map (·.a0)).getD (d.seg m).level
    let d := (d.putSeg n fun x => { x with partner := none, phase := none }).putSeg m fun x => { x with partner := none, phase := none }
    if out then d.putSegState m segRampUp else (d.glideAbort m n).startRamp m back (d.rampN m) segLevel

/-- A brake: both legs low at once, the tokens back (R70). -/
def Dev.brakeSeg (d : Dev) (n : Nat) : Dev := d.segToZero n

/-- A tuning run in progress on the segment fails (R51). -/
def Dev.failTune (d : Dev) (n : Nat) : Dev := d.when (d.segState n == segTune) fun d => d.set1 SEG_TUNE_FAIL n

/-- R70, short. -/
def Dev.shortFault (d : Dev) (n : Nat) : Dev :=
  (((d.failTune n).leaveGlide n).set1 SEG_FAULT_SHORT n).retireSeg n 2 |>.brakeSeg n

/-- R70, open and thermal fault: a fall over N, the tokens back at 0. -/
def Dev.slowFault (d : Dev) (n cause : Nat) : Dev := (((d.failTune n).leaveGlide n).retireSeg n cause).fall n

/-- A segment returned to service (R72). -/
def Dev.returnSeg (d : Dev) (n : Nat) : Dev :=
  let was := d.segIsRetired n
  let e := d.reel.active.bind fun r => r.ringOfSeg n
  let before := (e.map d.gaps).getD []
  let d := ((d.clearBit FLD_RETIRED_SEG 0 n).p SEG_STATUS_RETIRED n 0).countRetired
  let d := d.putSeg n fun x => { x with reinstate := false }
  let d := d.when (d.segState n == segRetired || d.segState n == segBraked) fun d => d.putSegState n segIdle
  let d := (d.freezeSeg n false).set1 FLD_EVENTS_REINSTATED
  let d := d.when was fun d => d.raise codeSegReinstated n
  match e with
  | none => d
  | some e => d.rewindow e before

/-! ### The commands -/

/-- R51, R77: a write of SEGn_CTRL.TUNE. FAIL is set for every claim that is refused (DESIGN CHOICE,
notes/assumptions/125.md). -/
def Dev.tuneStart (d : Dev) (n : Nat) : Dev :=
  let fail := (d.set1 SEG_TUNE_FAIL n).p SEG_TUNE_DONE n 0
  if d.segState n != segIdle || d.hasQueued n .tune then d.set1 SEG_TUNE_FAIL n
  else
    let amp := d.g SEG_TUNE_TUNE_AMP n
    let uncal := d.g SEG_CAL_FSP n == 0 || d.g SEG_LOAD_VDRV_CAL n == 0
    let k := tokensAt (if uncal then 4095 else d.fspEff n) amp
    if 100 < k then fail
    else
      match d.claimTokens { seg := n, owner := .tune, tokens := k, prio := 0, cycle := d.cycle, caller := 8 } true with
      | (true, d) => (d.set1 SEG_TUNE_FAIL n).p SEG_TUNE_DONE n 0
      | (false, d) => (d.p SEG_TUNE_FAIL n 0).p SEG_TUNE_DONE n 0

/-- The segment has been driven for a tuning run's 256 carrier cycles (R51). -/
def Dev.tuneOver (d : Dev) (n : Nat) : Bool := d.segState n == segTune && (d.seg n).ramp.isNone && decide (256 ≤ (d.seg n).driveCycles)

/-- R51, R52: the end of a tuning run with its measurement; the fall over N starts, and the tokens return at 0. A trip may end
it at any time, with what R70 does at a short. -/
def Dev.tuneEnd (d : Dev) (n imag : Nat) (iph : Int) (trip : Bool) : Dev :=
  if trip then (if d.segState n = segTune then d.shortFault n else d)
  else if !d.tuneOver n then d
  else
    let vdrv := d.g FLD_VDRV_VDRV
    let ro := Config.rout n (d.gs SEG_TEMP_TEMP n)
    let r := loadMicro ro (d.seg n).level vdrv imag iph
    let d := ((d.rampDown n).p SEG_MEAS_IMAG n imag).ps SEG_MEAS_IPH n iph
    if imag < 5 then d.set1 SEG_TUNE_FAIL n
    else
      let d := ((d.p SEG_LOAD_RLOAD n (loadField r)).p SEG_LOAD_VDRV_CAL n vdrv).p SEG_CAL_FSP n (fspOf ro vdrv r)
      let d := (d.set1 SEG_TUNE_DONE n).p SEG_TUNE_FAIL n 0
      let fieldOn := d.fuses.field != 0
      let take := d.health.rebase.contains n || (fieldOn && (vget d.health.coilBase n none).isNone)
      d.when take fun d => d.inHealth fun h =>
        { h with coilBase := vupdN h.coilBase n fun _ => some (loadField r), rebase := h.rebase.filter (· != n) }

/-- T0 starts a tuning run (R51). -/
def execTune (t : Tenant) (n : Seg) (s : State) : Out State :=
  effect s fun d => d.hostWrite t (0xA00 + 32 * n) fun d => d.tuneStart n

/-- R72: a write of SEGn_CTRL.REINSTATE. -/
def Dev.reinstateReq (d : Dev) (n : Nat) : Dev :=
  let cool := decide (d.gs SEG_TEMP_TEMP n < (d.g SEG_TEMP_WARN n : Int) - 10)
  if !cool || d.vdrvLow || d.tempFault n then d
  else
    match d.ringOfSeg n with
    | some x => if d.flag RING_STATUS_VALID x then d.putSeg n fun s => { s with reinstate := true } else d.returnSeg n
    | none => d.returnSeg n

def execReinstate (t : Tenant) (n : Seg) (s : State) : Out State :=
  effect s fun d => (d.hostWrite t (0xA00 + 32 * n) fun d => d.reinstateReq n).settlePool

/-- VDRV as measured, from which FSP_eff follows; the levels follow at the next carrier-cycle boundary (R49, R54, R56). -/
def Dev.vdrvMeasured (d : Dev) (mv : Nat) : Dev := d.p FLD_VDRV_VDRV 0 mv

def execVdrvRemeasure (mv : Nat) (s : State) : Out State := effect s fun d => d.vdrvMeasured mv

/-- The head claim is granted (R67). -/
def execClaimGrant (s : State) : Out State := effect s fun d => d.grantHead

/-- A Glide reaches k = N (R64). -/
def execGlideEnd (n : Seg) (s : State) : Out State := effect s fun d => d.endGlide n

/-- The ramp up to the fill amplitude (R75); held for a top-up that is queued (R65). -/
def Dev.fillUp (d : Dev) (n : Nat) : Dev :=
  let x := d.seg n
  let ext := d.fillExt n
  if d.segState n != segDrive || ext == 0 || x.ext != 0 then d
  else
    let (want, _) := d.fillLevel n (d.g SEG_AMP_TARGET n) ext
    if d.held n < d.tokens n want && (x.owner.map (d.hasQueued n)).getD false then
      d.hold n (d.g SEG_STATUS_OWNER n) (d.g SEG_AMP_TARGET n) (.fill ext)
    else d.rampFill n ext

def execFillRampUp (n : Seg) (s : State) : Out State := effect s fun d => d.fillUp n

/-- The ramp down to A as the point leaves the borrowed part (R75). -/
def Dev.fillDown (d : Dev) (n : Nat) : Dev :=
  if (d.seg n).ext == 0 || (d.segState n != segDrive && d.segState n != segLevel) then d
  else (d.putSeg n fun x => { x with ext := 0 }).startRamp n (d.g SEG_AMP_TARGET n) (d.rampN n) segLevel

def execFillRampDown (n : Seg) (s : State) : Out State := effect s fun d => d.fillDown n

/-- The junction sensor's reading; SEGn_STATUS.WARN follows it (R70). -/
def Dev.tempRead (d : Dev) (n : Nat) (temp : Int) : Dev := d.ps SEG_TEMP_TEMP n temp

def execThermalWarning (n : Seg) (temp : Int) (s : State) : Out State := effect s fun d => d.tempRead n temp

def execThermalWarningEnd (n : Seg) (temp : Int) (s : State) : Out State := effect s fun d => d.tempRead n temp

/-- VDRV above 3.0 V again: claims are taken, the brakes open (R70). -/
def execVdrvRestored (mv : Nat) (s : State) : Out State :=
  effect s fun d =>
    let d := (d.p FLD_VDRV_VDRV 0 mv).p FLD_VDRV_LOW 0 0
    d.each (List.range 24) fun d n => d.when (d.segState n == segBraked) fun d => d.putSegState n segIdle

/-- A loopback run ends early (R404, R405). -/
def Dev.refuseLoop (d : Dev) : Dev :=
  if d.tap.loop.isSome then
    let d := d.inTap fun t => { t with loop := none }
    (d.clearRegs 0x1F01 0x1F01 |>.set1 TEST_LOOP_RESULT_DONE).set1 TEST_LOOP_RESULT_REFUSED
  else d

/-- All drivers braked, their tokens returned, none retired (R70). -/
def Dev.brakeAll (d : Dev) : Dev :=
  let d := d.refuseLoop
  d.each (List.range 24) fun d n =>
    if d.segIsRetired n then d.segToZero n
    else
      let tuning := d.segState n == segTune
      ((d.brakeSeg n).putSegState n segBraked).when tuning fun d => d.set1 SEG_TUNE_FAIL n

end Sys2Proof.Machine
end

