-- ==== Sys2Proof/Machine/Tempo.lean ====
section
/-!
DEFINITION. The rings' angle models, the three estimators and the vote (04_tempo_angle.md).
-/

-- One declaration after another: the package is compiled as one text under a memory limit.
set_option Elab.async false

namespace Sys2Proof.Machine

/-- The model goes on from tick `now` as it stands. -/
def RingState.anew (now : Nat) (r : RingState) : RingState :=
  { r with pieces := ({ tick := now, sub := r.sub, inc := r.inc, slew := r.slew } :: r.pieces.filter fun p => p.tick < now).take 4 }

/-- The angle stamp of ring `x`: the upper 64 bits of its phase (R81). -/
def Dev.stamp (d : Dev) (x : Nat) : Nat := (d.ring x).phase.toNat / 65536

/-- The speed in rpm, rounded (R82). -/
def rpmOf (inc : Int) : Nat := (inc.natAbs * 27120000 * 60 + 2 ^ 39) / 2 ^ 40

/-- The greatest INC that Tempo accepts (R82). -/
abbrev incMax : Nat := 22298355

/-- The signed way from `a` to `b`, at most half a turn. -/
def circDiff (a b : Nat) : Int :=
  let m := (b + turn40 - a % turn40) % turn40
  if m < turn40 / 2 then (m : Int) else (m : Int) - turn40

/-- The way from `a` to `b` in the direction of rotation. -/
def wayFrom (rev : Bool) (a b : Nat) : Nat := if rev then (a + turn40 - b % turn40) % turn40 else (b + turn40 - a % turn40) % turn40

/-! ### Model correction (R89, R93, R94) -/

/-- ANGLE was passed on the way from `a` to `b`: the way to it, if so (R206). -/
def passedAt (rev : Bool) (a b angle : Nat) : Option Nat :=
  let m := 2 ^ 24
  let way := fun x => if rev then (a + m - x) % m else (x + m - a) % m
  let full := way b
  let w := way angle
  if w ≠ 0 ∧ w ≤ full then some w else none

/-- The model set to an angle in one tick (R89, R94, R208). A forward reseat that overtakes the last firing angle passes the
Steps beyond it alone. -/
def Dev.reseat (d : Dev) (x a : Nat) : Dev :=
  let r := d.ring x
  let diff := circDiff r.sub a
  let rev := decide (r.inc < 0)
  let cross := if rev then (r.sub : Int) + diff < 0 else (turn40 : Int) ≤ (r.sub : Int) + diff
  let ahead := if rev then diff < 0 else 0 < diff
  let wrap := cross && decide ahead && d.flag RING_STATUS_ARMED x
  let overtakes := r.skipBack && decide ahead && (r.lastFire.map fun f => (passedAt rev r.frac (a % turn40 / 65536) f).isSome).getD false
  let d := d.setBit TEMPO_EVENTS_RESEAT 0 x
  d.putRing x fun r =>
    RingState.anew d.now
      { r.setSub a with
        slew := 0, wrapped := r.wrapped || wrap, disturbed := some d.now, lastAdv := d.now
        reseatFrom := if !ahead then none else if overtakes then r.lastFire else some (r.reseatFrom.getD r.frac)
        skipBack := (r.skipBack && ahead && !overtakes) || (!ahead && r.lastFire.isSome) }

/-- The correction of one tick while slewing (R89). -/
def slewStep (inc slew : Int) (shift : Nat) : Int :=
  let k : Int := inc.natAbs / 2 ^ shift
  if 0 ≤ slew then min slew k else max slew (-k)

/-- SLEW_SHIFT as it acts. -/
def Dev.slewShift (d : Dev) : Nat := max 1 (min 8 (d.g TEMPO_SLEW_SLEW_SHIFT))

/-- The fraction of a piece of the model `n` ticks after its start. -/
def ModelPiece.after (p : ModelPiece) (shift n : Nat) : Nat :=
  let k : Int := p.inc.natAbs / 2 ^ shift * n
  let c := if 0 ≤ p.slew then min p.slew k else max p.slew (-k)
  (((p.sub : Int) + p.inc * n + c) % turn40).toNat

/-- The model's angle at tick `m`, now or earlier (R89). -/
def Dev.modelAt (d : Dev) (x m : Nat) : Nat :=
  let r := d.ring x
  match r.pieces.find? fun p => p.tick ≤ m with
  | some p => p.after d.slewShift (m - p.tick)
  | none =>
    match r.pieces.getLast? with
    | some p => (((p.sub : Int) - p.inc * (p.tick - m : Nat)) % turn40).toNat
    | none => (((r.sub : Int) - r.inc * (d.now - m : Nat)) % turn40).toNat

/-- The middle of three by signed distance from the first. -/
def medianAngle (a b c : Nat) : Nat :=
  let p := circDiff a b
  let q := circDiff a c
  let m := if (p ≤ 0 ∧ 0 ≤ q) ∨ (q ≤ 0 ∧ 0 ≤ p) then 0 else if (0 < p ∧ p ≤ q) ∨ (q ≤ p ∧ p < 0) then p else q
  (((a : Int) + m) % turn40).toNat

def medianInt (a b c : Int) : Int := max (min a b) (min (max a b) c)

/-- The angle of a track `lag` ticks ago, at its present speed. -/
def Track.ago (t : Track) (now lag : Nat) : Nat :=
  let held := match t.heldSince with
    | some h => now - h
    | none => 0
  (((t.angle : Int) - t.speed * (lag - held : Nat)) % turn40).toNat

/-- The voted angle and speed `lag` ticks ago: the median of three, or the voted estimator's (R87, R89). -/
def Dev.votedAgo (d : Dev) (x lag : Nat) : Option (Nat × Int) :=
  let t := d.track x
  let a := fun e => (t e).ago d.now lag
  match (d.ring x).voted with
  | none => none
  | some e =>
    if (d.ring x).three then some (medianAngle (a 0) (a 1) (a 2), medianInt (t 0).speed (t 1).speed (t 2).speed)
    else some (a e.val, (t e.val).speed)

/-- The ring's angle becomes invalid (R93). -/
def Dev.invalidate (d : Dev) (x : Nat) : Dev :=
  if d.ringValid x then
    (((d.p RING_STATUS_VALID x 0).setBit TEMPO_EVENTS_INVALID 0 x).putRing x fun r =>
      { r with slew := 0, disturbed := some d.now, sigOpen := false, invalidDue := false }).raise
      codeTempoInvalid x
  else d

/-- The angle becomes valid: the model takes the voted angle by a reseat (R93). -/
def Dev.validate (d : Dev) (x a : Nat) (speed : Int) : Dev :=
  let d := (d.set1 RING_STATUS_VALID x).p RING_STATUS_PROVISIONAL x 0
  let d := d.putRing x fun r => { r with inc := speed, reversed := false }
  (d.pf RING_STATUS_REVERSE x (decide (speed < 0))).reseat x a

/-- A speed against the direction that the model holds (R91). -/
def Dev.opposes (d : Dev) (x : Nat) (speed : Int) : Bool := speed != 0 && (decide (speed < 0) != d.ringReverse x)

/-- The angle that is `a` at tick `m` and moves at `speed`, now. -/
def Dev.carry (d : Dev) (a m : Nat) (speed : Int) : Nat := (((a : Int) + speed * (d.now - m : Nat)) % turn40).toNat

/-- INC takes the voted speed, and the model slews or reseats on the residual at the mark's tick `m` (R89). A reversal waits for
the vote (R91). -/
def Dev.correct (d : Dev) (x a m : Nat) (speed : Int) : Dev :=
  let r := d.ring x
  let pct := d.g TEMPO_STILL_STEP_PCT
  let step := r.inc != 0 && !d.opposes x speed && decide (pct * r.inc.natAbs < 100 * (speed - r.inc).natAbs)
  let d := d.when step fun d => (d.setBit TEMPO_EVENTS_SPEED_STEP 0 x).putRing x fun r => { r with disturbed := some d.now }
  if incMax < speed.natAbs then d.invalidate x
  else if d.opposes x speed then d
  else
    let e := circDiff (d.modelAt x m) a
    let d := d.putRing x fun r => { r with inc := speed }
    if e.natAbs ≤ d.g TEMPO_SLEW_RESEAT * 256 * 65536 then d.putRing x fun r => RingState.anew d.now { r with slew := e }
    else d.reseat x (d.carry a m speed)

/-! ### Marks (R83 to R86) -/

/-- STILL clears at the first mark of a ring that never turned, and else at a mark of an IN track that shows motion; INC restarts
from that track's speed, unless it is a reversal, which waits for the vote (R90, R91). -/
def Dev.motion (d : Dev) (x e : Nat) (first : Bool) : Dev :=
  let t := d.track x e
  if !d.ringStill x then d
  else if t.st = .inVote ∧ t.speed ≠ 0 then
    let inc := if d.opposes x t.speed then 0 else t.speed
    (d.p RING_STATUS_STILL x 0).putRing x fun r => RingState.anew d.now { r with inc := inc, lastAdv := d.now }
  else d.when first fun d => d.p RING_STATUS_STILL x 0

/-- A track that was at its mark's angle `lag` ticks ago, now: it has not passed its next expected mark (R83). -/
def Track.advance (now lag : Nat) (t : Track) : Track :=
  if lag = 0 ∨ t.speed = 0 then t
  else
    let v := t.speed.natAbs
    let go : Nat := match t.room with
      | some r => min r (v * lag)
      | none => v * lag
    let a : Int := if t.speed < 0 then (t.angle : Int) - go else (t.angle : Int) + go
    { t with
      angle := (a % turn40).toNat, room := t.room.map (· - go)
      heldSince := match t.room with
        | some r => if r ≤ v * lag then some (now - lag + (r + v - 1) / v) else none
        | none => none }

/-- OVERSPEED while the voted speed exceeds MAX_RPM (R82); with no voted speed it is clear. -/
def Dev.overspeed (d : Dev) (x : Nat) (speed : Option Int) : Dev :=
  let most := ((d.ringDef x).map (·.maxRpm)).getD 30000
  d.pf RING_STATUS_OVERSPEED x ((speed.map fun v => decide (most * 2 ^ 40 < v.natAbs * 27120000 * 60)).getD false)

/-- The tick of a mark of the voted estimator is kept (R98). -/
def Dev.noteVotedMark (d : Dev) (x m : Nat) : Dev := d.putRing x fun r => { r with votedMark := some m }

/-- A mark of track `e` at tick `m`, at angle `a` with the speed it gives, and the way to the next expected mark. -/
def Dev.mark (d : Dev) (x e a m : Nat) (speed : Int) (room : Option Nat) (ready : Bool) : Dev :=
  let t := d.track x e
  if t.st = .off then d
  else
    let st := if t.st = .wait ∧ ready = true then .inVote else t.st
    let first := (d.ring x).tracks.toList.all fun t => t.marks.isEmpty
    let d := d.putTrack x e fun t =>
      Track.advance d.now (d.now - m)
        { t with st := st, angle := a % turn40, speed := speed, marks := ((a, m) :: t.marks).take 2, room := room,
                 heldSince := none, stalled := false }
    let d := d.motion x e first
    if d.flag RING_STATUS_UNVOTED x then
      if ready then
        let d := (d.overspeed x (some speed)).noteVotedMark x m
        if d.ringValid x then d.correct x a m speed
        else if incMax < speed.natAbs then d
        else d.validate x (d.carry a m speed) speed
      else d
    else if d.ringValid x && (d.ring x).voted.map (·.val) == some e then
      match d.votedAgo x (d.now - m) with
      | some (b, v) => (d.noteVotedMark x m).correct x b m v
      | none => d
    else d

/-- The speed between two marks, rounded: `way` in 2⁻⁴⁰ revolution over `dt` ticks. -/
def speedOf (rev : Bool) (way dt : Nat) : Int :=
  if dt = 0 then 0
  else
    let v := roundDiv way dt
    if rev then -v else v

/-- The tooth positions of a wheel of `teeth` teeth (R84). -/
def toothPositions (teeth : Nat) : Nat := if teeth = 1 then 1 else teeth + 1

/-- The position of the tooth that follows `k`. -/
def nextTooth (teeth : Nat) (rev : Bool) (k : Nat) : Nat :=
  if teeth = 1 then 0 else if rev then (if k = 0 then teeth - 1 else k - 1) else (k + 1) % teeth

/-- An accepted edge: the new tooth position, if the gap has been found (R84). -/
def toothAfter (teeth : Nat) (rev : Bool) (t : Tooth) (dt : Nat) : Option Nat :=
  if teeth = 1 then some 0
  else if t.lastInt ≠ 0 ∧ 3 * t.lastInt < 2 * dt then some (if rev then teeth - 1 else 0)
  else t.pos.map (nextTooth teeth rev)

/-- The stamp of an edge that has been stable for FILTER ticks: the first tick of the stable level (R84). -/
def Dev.edgeTick (d : Dev) (x : Nat) : Nat := d.now - d.g RING_KPCFG_FILTER x

/-- A filtered edge on the ring's keyphasor input (R84). -/
def Dev.keyphasor (d : Dev) (x : Nat) : Dev :=
  let t := (d.ring x).tooth
  let teeth := max 1 (d.g RING_KPCFG_TEETH x)
  let rev := d.ringReverse x
  let m := d.edgeTick x
  let dt := m - t.lastTick.getD 0
  if 2 ≤ t.accepted ∧ 4 * dt < t.expect then d.bump RING_SEQ_KPREJ x
  else
    let pos := toothAfter teeth rev t dt
    let gap := 1 < teeth && t.lastInt != 0 && decide (3 * t.lastInt < 2 * dt)
    let d := d.putRing x fun r =>
      { r with tooth :=
        { pos := pos, lastTick := some m, accepted := min 2 (t.accepted + 1)
          lastInt := if t.lastTick.isNone then 0 else dt
          expect := if t.lastTick.isNone then 0 else if gap then dt / 2 else dt } }
    match pos with
    | none => d
    | some k =>
      let n := toothPositions teeth
      let a := k * turn40 / n
      let room := wayFrom rev a (nextTooth teeth rev k * turn40 / n)
      let room := if room = 0 then turn40 else room
      match (d.track x 0).marks with
      | [] => d.mark x 0 a m 0 (some room) false
      | (a0, t0) :: _ =>
        let way := wayFrom rev a0 a
        d.mark x 0 a m (speedOf rev (if way = 0 then turn40 else way) (m - t0)) (some room) true

/-- A transit mark at angle `a`, at its own tick, crossed backward or not; `room` is the way to the next expected one (R85). -/
def Dev.transitMark (d : Dev) (x a tick : Nat) (back : Bool) (room : Option Nat) : Dev :=
  match (d.track x 1).marks with
  | [] => d.mark x 1 a tick 0 room false
  | (a0, t0) :: _ =>
    let dt := tick - t0
    let way := wayFrom back a0 a
    let inc := (d.ring x).inc
    let n := if inc = 0 then 0 else (max 0 (roundDiv (inc.natAbs * dt - way) turn40)).toNat
    d.mark x 1 a tick (speedOf back (way + n * turn40) dt) room true

/-- The segments of ring `x` that drive. -/
def Dev.drivingSegs (d : Dev) (x : Nat) : List Nat :=
  (((d.ringDef x).map RingDef.segs).getD []).filter fun n => (d.seg n).level != 0

/-- A block of 64 carrier cycles of the ring's driving segments, each with the current's magnitude and phase: recorded into the
signature until 16 revolutions are complete, then correlated to a mark (R86). -/
def Dev.detune (d : Dev) (x markFrac : Nat) (back : Bool) (meas : List (Nat × Nat × Int)) : Dev :=
  if (d.track x 2).st = .off ∨ d.ringValid x = false then d
  else if (d.ring x).sigRevs < 16 then
    let drives := d.drivingSegs x
    d.putRing x fun r =>
      { r with sig := (meas.filter fun p => drives.contains p.1).foldl (fun l p => assocPut (24 * (r.frac / 65536) + p.1) p.2 l) r.sig }
  else
    let a := markFrac * 2 ^ 27
    let speed := match (d.track x 2).marks with
      | [] => (0 : Int)
      | (a0, t0) :: _ => speedOf back (wayFrom back a0 a) (d.now - t0)
    d.mark x 2 a d.now speed (some (speed.natAbs * 128)) true

/-- A revolution of the signature is complete at a Revolution boundary; after 16 the detune track enters IN, at the angle and the
speed against which it was learned (R86). -/
def Dev.learnedRevolution (d : Dev) (x : Nat) : Dev :=
  if (d.track x 2).st = .off ∨ d.ringValid x = false then d
  else
    let r := d.ring x
    let n := if r.sigOpen then min 16 (r.sigRevs + 1) else r.sigRevs
    let d := d.putRing x fun r => { r with sigRevs := n, sigOpen := true }
    d.when (n == 16 && (d.track x 2).st == .wait) fun d => d.putTrack x 2 fun t =>
      { t with st := .inVote, angle := r.sub, speed := r.inc, marks := [(r.sub, d.now)], room := some (r.inc.natAbs * 128), heldSince := none }

/-! ### The vote (R87, R88, R91) -/

/-- Two tracks agree (R87). -/
def Dev.agree (d : Dev) (a b : Track) : Bool :=
  (circDiff a.angle b.angle).natAbs ≤ d.g TEMPO_VOTE_ANG_TOL * 65536
    && 1024 * (a.speed - b.speed).natAbs ≤ d.g TEMPO_VOTE_SPD_TOL * max a.speed.natAbs b.speed.natAbs

/-- The tracks that vote. -/
def Dev.inTracks (d : Dev) (x : Nat) : List Nat := (List.range 3).filter fun e => (d.track x e).st == .inVote

/-- The agreeing tracks of ring `x`: all three, or the highest-ranked pair. -/
def Dev.agreeing (d : Dev) (x : Nat) : List Nat :=
  let ins := d.inTracks x
  let ok := fun a b => ins.contains a && ins.contains b && d.agree (d.track x a) (d.track x b)
  if ok 0 1 && ok 0 2 && ok 1 2 then [0, 1, 2]
  else if ok 0 1 then [0, 1] else if ok 0 2 then [0, 2] else if ok 1 2 then [1, 2] else []

/-- A track agrees with another of those that vote. -/
def Dev.agreesWith (d : Dev) (x : Nat) (ins : List Nat) (e : Nat) : Bool := ins.any fun o => o != e && d.agree (d.track x e) (d.track x o)

/-- An IN track's charge in a vote in which it agreed or did not (R87). -/
def Dev.chargeTrack (d : Dev) (x e : Nat) (agreed : Bool) : Dev :=
  if agreed then d.putTrack x e fun t => { t with missed := 0 }
  else
    let lim := 4 * max 1 (d.g TEMPO_VOTE_OUT_VOTES)
    let m := (d.track x e).missed + 1
    if m < lim then d.putTrack x e fun t => { t with missed := m }
    else
      let d := d.putTrack x e fun t => { t with missed := 0, agreed := 0, st := .outVote }
      ((d.bump RING_SEQ_OUTS x).setBit TEMPO_EVENTS_EST_OUT 0 x).raise codeEstimatorOut x e

/-- An OUT track's readmission (R87). -/
def Dev.readmit (d : Dev) (x e : Nat) (voted : Option (Nat × Int)) : Dev :=
  let t := d.track x e
  let ok := match voted with
    | some (a, v) => d.agree t { t with angle := a, speed := v }
    | none => (d.inTracks x).any fun o => d.agree t (d.track x o)
  let n := if ok then t.agreed + 1 else 0
  if 16 * max 1 (d.g TEMPO_VOTE_READMIT) ≤ n then d.putTrack x e fun t => { t with agreed := 0, missed := 0, st := .inVote }
  else d.putTrack x e fun t => { t with agreed := n }

/-- A reversal that the Reel does not admit: the angle becomes invalid, in a boundary tick with the next one (R91, R94). -/
def Dev.refuseReversal (d : Dev) (x : Nat) : Dev :=
  let d := d.putRing x fun r => { r with reversed := true }
  if (d.ring x).boundaryAt = some d.now then d.putRing x fun r => { r with invalidDue := true } else d.invalidate x

/-- A reversal: INC changes sign, and the last firing angle becomes the present fraction (R91, R208). -/
def Dev.takeReversal (d : Dev) (x : Nat) (speed : Int) : Dev :=
  (d.pf RING_STATUS_REVERSE x (decide (speed < 0))).putRing x fun r =>
    RingState.anew d.now { r with inc := speed, slew := 0, disturbed := some d.now, lastFire := some r.frac, skipBack := false }

/-- What the agreed values do to the model: validity, reversal, overspeed (R82, R91, R93). -/
def Dev.takeVote (d : Dev) (x a : Nat) (speed : Int) : Dev :=
  let revOk := ((d.ringDef x).map RingDef.reverseOk).getD false
  let d := d.overspeed x (some speed)
  if incMax < speed.natAbs then d.invalidate x
  else if speed < 0 ∧ revOk = false then d.refuseReversal x
  else if !d.ringValid x then (if (d.ring x).reversed = true ∧ speed = 0 then d else d.validate x a speed)
  else if d.opposes x speed then d.takeReversal x speed
  else d

/-- The vote of one ring. -/
def Dev.voteRing (d : Dev) (x : Nat) : Dev :=
  if (d.ringDef x).isNone || d.flag RING_STATUS_UNVOTED x then d
  else
    let ins := d.inTracks x
    let outs := (List.range 3).filter fun e => (d.track x e).st == .outVote
    let ok := d.agreeing x
    let charges := ins.map fun e => (e, d.agreesWith x ins e)
    let d := d.putRing x fun r => { r with voted := ok.head?.map fun e => Fin.ofNat 3 e, three := ok.length == 3 }
    let v := d.votedAgo x 0
    let d := match v with
      | some (a, s) => d.takeVote x a s
      | none => (d.overspeed x none).invalidate x
    let d := d.when (decide (2 ≤ ins.length)) fun d => d.each charges fun d p => d.chargeTrack x p.1 p.2
    let v := if d.ringValid x then v else none
    d.each outs fun d e => d.readmit x e v

/-! ### Ticks (R81, R83, R92) -/

/-- A track's advance in one tick, never past its next expected mark (R83). -/
def stepTrack (now : Nat) (t : Track) : Track :=
  if t.st = .off ∨ t.marks = [] ∨ t.speed = 0 then t
  else
    let adv := match t.room with
      | some r => min r t.speed.natAbs
      | none => t.speed.natAbs
    let room := t.room.map (· - adv)
    let a := if t.speed < 0 then (t.angle + turn40 - adv) % turn40 else (t.angle + adv) % turn40
    { t with angle := a, room := room, heldSince := if room = some 0 then some (t.heldSince.getD now) else none }

/-- The voted angle: the only estimator's of a ring without a vote, else that of R87. -/
def RingState.votedAngle (r : RingState) (alone : Bool) : Option Nat :=
  let a := fun e => (vget r.tracks e (newTrack false)).angle
  if alone then some (a 0) else r.voted.map fun e => if r.three then medianAngle (a 0) (a 1) (a 2) else a e.val

/-- A ring's model in one tick (R81, R89, R90, R92). -/
def stepModel (now shift : Nat) (valid alone : Bool) (r : RingState) : RingState :=
  let was := r.votedAngle alone
  let r := { r with tracks := vmap (fun _ t => stepTrack now t) r.tracks, prevFrac := r.frac }
  let r := if r.votedAngle alone = was then r else { r with lastAdv := now }
  if !valid then r
  else
    let c := slewStep r.inc r.slew shift
    let adv := r.inc + c
    let new := (r.sub : Int) + adv
    let wrap := if r.inc < 0 then decide (new < 0) else decide ((turn40 : Int) ≤ new)
    let r' := r.setSub (new % turn40).toNat
    { r' with slew := r.slew - c, wrapped := r.wrapped || wrap }

/-- The fraction lies where a ring is armed (R92). -/
def armsAt (f : Nat) : Bool := 0x100000 ≤ f && f ≤ 0xEFFFFF

/-- Ring `x` in one tick. A fraction that has crossed 0 waits unarmed for its boundary. -/
def Dev.tickRing (d : Dev) (x : Nat) : Dev :=
  let d := d.when (d.ring x).invalidDue fun d => d.invalidate x
  let d := d.putRing x fun r => stepModel d.now d.slewShift (d.ringValid x) (d.flag RING_STATUS_UNVOTED x) r
  let d := d.when (!d.flag RING_STATUS_ARMED x && (d.ring x).wrapped) fun d => d.putRing x fun r => { r with wrapped := false }
  d.when (d.ringValid x && armsAt (d.ring x).frac) fun d => d.set1 RING_STATUS_ARMED x

/-! ### Reel activation -/

/-- The estimators that a RING entry enables. -/
def RingDef.estimators (e : RingDef) : Bool × Bool × Bool := (decide (e.kp < 8), e.transitEn, e.detuneEn)

/-- A ring at a Reel's activation (R86, R88): `old` is its entry before. -/
def Dev.setRing (d : Dev) (x : Nat) (old new : Option RingDef) : Dev :=
  match new with
  | none =>
    let d := ((d.p RING_STATUS_VALID x 0).p RING_STATUS_STILL x 0).p RING_STATUS_ARMED x 0
    ((d.p RING_STATUS_UNVOTED x 0).p RING_STATUS_NO_ANCHOR x 0).putRing x fun _ => newRing d.now false false false
  | some e =>
    let (kp, tr, de) := e.estimators
    let d := (d.pf RING_STATUS_UNVOTED x (kp && !tr && !de)).pf RING_STATUS_NO_ANCHOR x (de && !kp && !tr)
    match old with
    | none =>
      let keep := d.flag RING_STATUS_PROVISIONAL x
      let fresh := newRing d.now kp tr de
      d.putRing x fun r => if keep then { fresh with phase := r.phase, inc := r.inc } else fresh
    | some o =>
      let en := fun (i : Fin 3) => if i.val = 0 then kp else if i.val = 1 then tr else de
      let d := d.putRing x fun r =>
        { r with tracks := vmap (fun i t => if en i then (if t.st = .off then newTrack true else t) else newTrack false) r.tracks }
      if o.segMask = e.segMask ∧ o.origin = e.origin then d
      else
        (d.putRing x fun r => { r with sig := [], sigRevs := 0, sigOpen := false }).putTrack x 2 fun t => if t.st = .off then t else newTrack true

/-! ### The commands -/

/-- The live level of input `k`: KP 0 to 7, then GPIO 0 to 15 (R315). -/
def Dev.putPin (d : Dev) (k : Nat) (level : Bool) : Dev :=
  if k < 8 then d.p SBUS_PINS_KP 0 (putBit (d.g SBUS_PINS_KP) k level)
  else d.p SBUS_PINS_GPIO 0 (putBit (d.g SBUS_PINS_GPIO) (k - 8) level)

/-- R84, R315: a conditioned edge on a KP input, falling or rising: the level shows, and the edge that EDGE names is taken. -/
def execKpEdge (kp : Fin 8) (falling : Bool) (s : State) : Out State :=
  effect s fun d =>
    if !d.domOn domSio then d
    else
      let d := d.putPin kp.val (!falling)
      match d.reel.active.bind fun r => if r.pinFunction (0x40 + kp.val) = 0 then r.ring.find? fun e => e.kp == kp.val else none with
      | some e => if d.flag RING_KPCFG_EDGE e.ring = falling then (d.keyphasor e.ring).settlePool else d
      | none => d

def execDetuneBlock (r : Ring) (mark : BitVec 13) (backward : Bool) (meas : List (Seg × Nat × Int)) (s : State) : Out State :=
  effect s fun d => (d.detune r mark.toNat backward (meas.map fun p => (p.1.val, p.2))).settlePool

/-- R83: a track held at its limit for STILL_MS reports speed 0. -/
def execTrackStall (r : Ring) (e : Fin 3) (s : State) : Out State :=
  effect s fun d => if (d.track r e).st = .off then d else d.putTrack r e fun t => { t with speed := 0, stalled := true }

/-- R87: the vote of every ring. -/
def execTempoVote (s : State) : Out State := effect s fun d => (d.each (List.range 4) Dev.voteRing).settlePool

/-- R90: standstill. -/
def execStill (r : Ring) (s : State) : Out State :=
  effect s fun d =>
    if (d.ringDef r).isNone then d else ((d.set1 RING_STATUS_STILL r).p RING_STATUS_OVERSPEED r 0).putRing r fun x =>
      RingState.anew d.now { x with inc := 0, slew := 0 }

/-- The 64-bit DAY_NEXT. -/
def Dev.dayNext (d : Dev) : Nat := d.g TEMPO_DAY_NEXT_LO_TICKS + 2 ^ 32 * d.g TEMPO_DAY_NEXT_HI_TICKS
def Dev.putDayNext (d : Dev) (v : Nat) : Dev := (d.p TEMPO_DAY_NEXT_LO_TICKS 0 v).p TEMPO_DAY_NEXT_HI_TICKS 0 (v / 2 ^ 32)

/-- The ticks of a day (R100). -/
abbrev dayTicks : Nat := 2343168000000

/-- R100: a value not later than the present time stamp, or more than two days ahead, is ignored. -/
def Dev.writeDayNext (d : Dev) (v : Nat) : Dev :=
  if v ≤ d.now ∨ d.now + 2 * dayTicks < v then d.set1 TEMPO_EVENTS_DAY_REJECT else d.putDayNext v

def execTempoDayNext (t : Tenant) (v : BitVec 64) (s : State) : Out State :=
  effect s fun d => d.hostWrite t 0x906 fun d => d.writeDayNext v.toNat

/-- R96: the ratio measured over 65,536 ACLK cycles, while CORE is On and XREF is locked. -/
def execAclkRatioMeasure (ticks : Nat) (s : State) : Out State :=
  effect s fun d => if d.domOn domCore && d.flag CLK_STATUS_PLL_LOCK then d.p TEMPO_ACLK_RATIO_RATIO 0 ticks else d

end Sys2Proof.Machine
end

