-- ==== Sys2Proof/Machine/Air.lean ====
section
/-!
DEFINITION. The Jenuri air protocol (05_jenuri_air.md): frame checks and coding, and what a tag does with each command.
A command of this family is a downlink frame that reaches the tags of a ring at the present tick.
-/

-- One declaration after another: the package is compiled as one text under a memory limit.
set_option Elab.async false

namespace Sys2Proof.Machine

def Dev.inAir (d : Dev) (f : AirState → AirState) : Dev := { d with air := f d.air }

/-! ### Checks and coding (R106, R107, R115, R116) -/

/-- The CRC-16 of R115. -/
def crc16 (bs : List Bool) : Nat := crcBits 16 0x1021 0xFFFF bs
/-- The header CRC-8 of R116. -/
def crc8 (bs : List Bool) : Nat := crcBits 8 0x07 0 bs

/-- The bits of words of 16. -/
def halfBits (ws : List Half) : List Bool := ws.flatMap fun w => msbBits 16 w.toNat

/-- A bit period after a previous bit (R106). -/
def seqOf (prev b : Bool) : DownSeq := if b then .x else if prev then .y else .z

def codeBits : Bool → List Bool → List DownSeq
  | _, [] => []
  | p, b :: bs => seqOf p b :: codeBits b bs

/-- A downlink frame's bit periods: SOF, content and CRC, EOF (R107). -/
def codeFrame (content : List Bool) : List DownSeq :=
  let bits := content ++ msbBits 16 (crc16 content)
  [.z, .x] ++ codeBits true (bits ++ [false]) ++ [.y]

/-- The pause of a bit period, as first and last sixteenth of it: carrier cycles in Jenuri (R106). -/
def pauseOf (q : DownSeq) : Option (Nat × Nat) :=
  match q with
  | .x => some (8, 11)
  | .y => none
  | .z => some (0, 3)
  | .full => some (0, 15)

/-- The header word of an uplink frame (R116). -/
def headerWord (sa ty len : Nat) : Nat :=
  let v := inField 20 12 sa + inField 16 4 ty + inField 8 8 len
  v + crc8 (msbBits 24 (v / 256))

/-- K, the information bits of a codeword (R118). -/
def infoBits (rate : Nat) (z64 : Bool) : Nat := (if rate = 0 then 8 else if rate = 1 then 12 else 14) * (if z64 then 64 else 32)

/-- The codewords of a frame of `len` payload words (R118). -/
def codewordCount (rate : Nat) (z64 : Bool) (len : Nat) : Nat := ceilDiv (64 + 16 * len) (infoBits rate z64)

/-- The sync word of a generation (R112). -/
def syncWord (gen : Nat) : Nat := if gen = 1 then 0xE4D2 else if gen = 2 then 0x8DB1 else 0x3A67

/-- The bits of one symbol: one in J1 and J2, a dibit in J3 (R111). -/
def symbolBits (gen : Nat) : Nat := if gen = 3 then 2 else 1

/-- The preamble of 24 symbols: 0, 1, 0, 1 …, or dibits 00, 11, 00, 11 … (R112). -/
def preamblePattern (gen : Nat) : List Bool := (List.range 24).flatMap fun i => List.replicate (symbolBits gen) (i % 2 == 1)

/-- A hold block of 8 symbols: 0, 0, 0, 0, 1, 1, 1, 1, or the dibits 00 and 11 as often (R113). -/
def holdPattern (gen : Nat) : List Bool := (List.range 8).flatMap fun i => List.replicate (symbolBits gen) (decide (4 ≤ i))

/-- Preamble and sync of a generation, in carrier cycles (R112). -/
def syncCycles (gen : Nat) : Nat := if gen = 1 then 1280 else if gen = 2 then 640 else 512

/-- A hold block in carrier cycles (R113). -/
def holdCycles (gen : Nat) : Nat := if gen = 1 then 256 else 128

/-- The carrier cycles of a codeword (R105, R118). -/
def codewordCycles (gen : Nat) (z64 : Bool) : Nat := (if z64 then 1024 else 512) * (if gen = 2 then 16 else 8)

/-- A frame from its preamble to its end, in carrier cycles (R117, R118). -/
def frameCycles (gen rate : Nat) (z64 : Bool) (len : Nat) : Nat :=
  if gen = 1 then (88 + 16 * len) * 32 else syncCycles gen + codewordCount rate z64 len * codewordCycles gen z64

/-- The bits of a J1 frame after its sync word (R117). -/
def Reply.j1Bits (r : Reply) : List Bool :=
  let bs := msbBits 32 (headerWord r.sa r.ty r.payload.length) ++ halfBits r.payload
  bs ++ msbBits 16 (crc16 bs)

/-! ### Reply types and reasons (R122) -/
abbrev tyData : Nat := 0
abbrev tyUid : Nat := 1
abbrev tyCaps : Nat := 2
abbrev tyAck : Nat := 3
abbrev tyNak : Nat := 4
abbrev tyMem : Nat := 5
abbrev tyPrepared : Nat := 6
abbrev tyCommitted : Nat := 7
abbrev tyConfirmed : Nat := 8
abbrev tyAuth : Nat := 9
abbrev nakBadArg : Nat := 1
abbrev nakUnsupported : Nat := 2
abbrev nakToken : Nat := 3
abbrev nakNotSecure : Nat := 4
abbrev nakRange : Nat := 5
abbrev nakNvm : Nat := 6
abbrev nakAuth : Nat := 7

/-! ### Tags -/

/-- The UID in four words, most significant first. -/
def uidWords (u : Nat) : List Half := [u >>> 48, u >>> 32, u >>> 16, u].map (BitVec.ofNat 16)

end Sys2Proof.Machine

namespace Sys2Proof

open Machine

def TagKind.j3 (k : TagKind) : Bool := k.caps.toNat.testBit 7
def TagKind.j2 (k : TagKind) : Bool := k.caps.toNat.testBit 6
def TagKind.j1 (k : TagKind) : Bool := k.caps.toNat.testBit 5
def TagKind.selfClk (k : TagKind) : Bool := k.caps.toNat.testBit 4
def TagKind.canAuth (k : TagKind) : Bool := k.caps.toNat.testBit 3
def TagKind.dualBank (k : TagKind) : Bool := k.caps.toNat.testBit 2
def TagKind.has64 (k : TagKind) : Bool := k.caps.toNat.testBit 0
/-- RATE as coded in SETGEN, offered in CAPS W1 (R122). -/
def TagKind.hasRate (k : TagKind) (rate : Nat) : Bool := rate < 3 && k.w1.toNat.testBit (15 - rate)
def TagKind.hasGen (k : TagKind) (g : Nat) : Bool := (g == 1 && k.j1) || (g == 2 && k.j2) || (g == 3 && k.j3)
def TagKind.planMask (k : TagKind) (p : Nat) : Nat := ((k.plans[p]?).map BitVec.toNat).getD 0
/-- A generation with a rate and Z that the tag offers; rate 7/8 is J3's alone (R105, R127). -/
def TagKind.offers (k : TagKind) (g rate : Nat) (z64 : Bool) : Bool :=
  k.hasGen g && (g == 1 || (k.hasRate rate && !(g == 2 && rate == 2) && (!z64 || k.has64)))
/-- The four words of the CAPS reply (R122). -/
def TagKind.capsWords (k : TagKind) : List Half :=
  [BitVec.ofNat 16 (k.caps.toNat * 256 + k.channels), k.w1, k.wsize, k.model]
/-- The identity block (R181). -/
def TagKind.identity (k : TagKind) (a : Nat) : Half :=
  if a < 4 then (uidWords k.uid.toNat).getD a 0
  else if a < 8 then k.capsWords.getD (a - 4) 0
  else (uidWords (k.planMask ((a - 8) / 4))).getD ((a - 8) % 4) 0
def TagKind.writable (k : TagKind) (a n : Nat) : Bool := 0x100 ≤ a && a + n ≤ 0x100 + k.wsize.toNat
/-- Protected words that the range meets (R132). -/
def TagKind.protects (k : TagKind) (a n : Nat) : Bool := rangesMeet a n k.protFirst k.protCount

end Sys2Proof

namespace Sys2Proof.Machine

def Tag.uid (t : Tag) : Nat := t.kind.uid.toNat
def Tag.assigned (t : Tag) : Bool := t.mode == .assigned || t.mode == .secure

def bankWord (k : TagKind) (bank : List (Nat × Half)) (a : Nat) : Half := (assocGet a bank).getD (Config.tagWord k.uid.toNat a)

/-- A word of the tag's memory, as its active bank holds it. -/
def Tag.word (t : Tag) (a : Nat) : Half := if a < 0x48 then t.kind.identity a else bankWord t.kind t.bank a

/-- Every word of the range is readable (R121). -/
def Tag.readable (t : Tag) (a n : Nat) : Bool :=
  (List.range n).all fun i => a + i < 0x48 || t.kind.writable (a + i) 1 || (a + i < 65536 && Config.tagReadable t.uid (a + i))

/-- The token of a bank: the CRC-16 over it whole (R122). -/
def bankToken (k : TagKind) (bank : List (Nat × Half)) : Nat :=
  crc16 (halfBits ((List.range k.wsize.toNat).map fun i => bankWord k bank (0x100 + i)))

/-! ### Replies -/

/-- A tag's answer before it is timed: type, payload, generation, rate, Z. -/
structure Answer where
  ty : Nat
  payload : List Half
  gen : Nat
  rate : Nat
  z64 : Bool

def Tag.answer (t : Tag) (ty : Nat) (payload : List Half) : Answer := ⟨ty, payload, t.gen, t.rate, t.z64⟩
def j1Answer (ty : Nat) (payload : List Half) : Answer := ⟨ty, payload, 1, 0, false⟩
/-- An ACK or NAK word (R122). -/
def ackWord (cmd reason : Nat) : List Half := [BitVec.ofNat 16 (cmd * 256 + reason)]

/-- When the reply starts, in carrier cycles after the command's end (R129 to R131). -/
inductive ReplyTiming where
  | onbeat (offset : Nat)
  | slot (s : Nat)
  | bounded (maxHold : Nat)

/-- The instant of the reply's first block and its hold blocks, for the tag's own choice `pick` in the bounded window. -/
def ReplyTiming.chosen (tm : ReplyTiming) (pick : Nat × Nat) : Nat × Nat :=
  match tm with
  | .onbeat o => (1024 + 16 * o, 0)
  | .slot s => (1024 + 5120 * s, 0)
  | .bounded m => (112 + pick.1 % 33, pick.2 % (m + 1))

/-- What the next reply's tag chooses: two free values. -/
def Dev.replyPick (d : Dev) : Nat × Nat := (Config.freeValue d.freeCtr, Config.freeValue (d.freeCtr + 1))

/-- The reply added to the air. In the bounded window the instant, 112 to 144, and the hold blocks are the tag's own. -/
def Dev.sendReply (d : Dev) (t : Tag) (a : Answer) (tm : ReplyTiming) : Dev :=
  let (first, hold) := tm.chosen d.replyPick
  let d := d.freeVal.2.freeVal.2
  let start := d.now + 2 * (first + hold * holdCycles a.gen)
  let locked := match tm with
    | .bounded _ => false
    | _ => true
  let r : Reply :=
    { uid := t.uid, ring := t.kind.ring.val, sa := if a.ty = tyUid then 0 else t.sa, ty := a.ty, payload := a.payload,
      gen := a.gen, rate := a.rate, z64 := a.z64, self := t.self && !locked, hold := hold, start := start,
      stop := start + 2 * frameCycles a.gen a.rate a.z64 a.payload.length }
  d.inAir fun s => { s with replies := s.replies ++ [r] }

/-- The tick of the first carrier cycle of a frame with `n` content bits whose end is now: SOF, content, CRC and EOF are n + 20 bit
periods of 16 carrier cycles (R107). -/
def Dev.sofTick (d : Dev) (n : Nat) : Nat := d.now - 32 * (n + 20)

/-- The tag hears a frame of `n` content bits: it is powered, on the frame's ring, and did not modulate at its SOF (R139). -/
def Dev.hears (d : Dev) (t : Tag) (ring n : Nat) : Bool :=
  t.powered && t.kind.ring.val == ring && !(d.air.replies.any fun r => r.uid == t.uid && r.start ≤ d.sofTick n && d.sofTick n < r.stop)

/-- The frame at the tags of its ring: each that hears it abandons a reply that it had not started at the frame's SOF, and acts where
the frame's CRC holds, BC is as the command allows and the command is for it (R115, R120, R139). `act` gives the tag after it and
its answer, from what the tag chooses for its timing. -/
def Dev.downlinkPick (d : Dev) (f : Down) (n : Nat) (bcOk : Bool) (act : Nat × Nat → Tag → Tag × Option (Answer × ReplyTiming)) : Dev :=
  let hearing := d.air.tags.filter fun t => d.hears t f.ring.val n
  let d := d.inAir fun s =>
    { s with replies := s.replies.filter fun r => !(d.sofTick n < r.start && hearing.any fun t => t.uid == r.uid) }
  if !f.ok || !bcOk then d
  else
    d.each (hearing.map Tag.uid) fun d u =>
      match d.air.tags.find? fun t => t.uid == u with
      | none => d
      | some t =>
        if f.bc || t.sa == f.sa.toNat then
          let (t', ans) := act d.replyPick t
          let d := d.inAir fun s => { s with tags := s.tags.map fun x => if x.uid == u then t' else x }
          match ans with
          | none => d
          | some (a, tm) => d.sendReply t' a tm
        else d

/-- The same for a command whose answer does not depend on that choice. -/
def Dev.downlink (d : Dev) (f : Down) (n : Nat) (bcOk : Bool) (act : Tag → Tag × Option (Answer × ReplyTiming)) : Dev :=
  d.downlinkPick f n bcOk fun _ => act

/-- The timing that the ONBEAT flag chooses (R120). -/
def Tag.timing (t : Tag) (f : Down) (hold : Nat) : ReplyTiming := if f.onbeat then .onbeat t.offset else .bounded hold

/-- A command for assigned tags alone; another tag is silent. -/
def forAssigned (g : Tag → Tag × Option (Answer × ReplyTiming)) (t : Tag) : Tag × Option (Answer × ReplyTiming) :=
  if t.assigned then g t else (t, none)

/-- UPL (R121, R128): the rate and Z of this reply, if the tag may use them. -/
def Tag.uplOf (t : Tag) (upl : Nat) : Option (Nat × Bool) :=
  let rate := if upl / 4 = 3 then t.rate else upl / 4
  let z := upl.testBit 1
  if t.gen = 1 then some (t.rate, t.z64) else if t.kind.offers t.gen rate z then some (rate, z) else none

/-! ### Commands 0x01 to 0x07 -/

/-- TREE (R131): READY tags whose UID begins with the prefix. -/
def execTree (d : Down) (l : BitVec 6) (pre : BitVec 64) (s : State) : Out State :=
  effect s fun dev => dev.downlink d 96 d.bc fun t =>
    let n := l.toNat
    if t.mode = .ready ∧ t.uid >>> (64 - n) = pre.toNat >>> (64 - n) then
      (t, some (j1Answer tyUid (uidWords t.uid), .slot (bitOf t.uid (63 - n))))
    else (t, none)

/-- ASSIGN (R124, R125): the tag of the UID takes SA and OFFSET, and J1 service until SETGEN. -/
def execAssign (d : Down) (uid : BitVec 64) (newsa : BitVec 12) (offset : BitVec 6) (s : State) : Out State :=
  effect s fun dev => dev.downlink d 108 d.bc fun t =>
    if t.kind.uid = uid then
      let t := { t with mode := .assigned, sa := newsa.toNat, offset := offset.toNat, gen := 1, rate := 0, z64 := false, self := false }
      (t, some (j1Answer tyCaps t.kind.capsWords, .onbeat offset.toNat))
    else (t, none)

/-- SETGEN (R127). Success restarts the block numbers (R123). -/
def Tag.setGen (t : Tag) (g rate : Nat) (z64 self : Bool) : Tag × Option (Answer × ReplyTiming) :=
  let nak := fun r => (t, some (j1Answer tyNak (ackWord 0x03 r), ReplyTiming.onbeat t.offset))
  let ok := fun (u : Tag) =>
    let u := { u with blocks := [], nextSeq := 0, sentFF := false, overflow := false }
    (u, some (u.answer tyAck (ackWord 0x03 0), ReplyTiming.onbeat t.offset))
  if self ∧ g ≠ 3 then nak nakBadArg
  else if g = 1 then ok { t with gen := 1, rate := 0, z64 := false, self := false }
  else if g = 0 ∨ rate = 3 ∨ t.kind.offers g rate z64 = false ∨ (self = true ∧ t.kind.selfClk = false) then nak nakUnsupported
  else ok { t with gen := g, rate := rate, z64 := z64, self := self }

def execSetgen (d : Down) (gen rate : BitVec 2) (zsel self : Bool) (s : State) : Out State :=
  effect s fun dev => dev.downlink d 32 (!d.bc) (forAssigned fun t => t.setGen gen.toNat rate.toNat zsel self)

/-- QUIET (R124): an assigned tag ignores it. -/
def execQuiet (d : Down) (s : State) : Out State :=
  effect s fun dev => dev.downlink d 24 true fun t => (if t.mode = .ready then { t with mode := .quiet } else t, none)

/-- The authentication in progress with the tag at `sa` is discarded (R137). -/
def Dev.endAuth (d : Dev) (sa : Nat) : Dev := d.inAir fun a => { a with auths := a.auths.filter fun x => x.sa != sa }

/-- RELEASE (R124, R137): ACK On-beat in the negotiated generation, then READY. -/
def execRelease (d : Down) (s : State) : Out State :=
  effect s fun dev => (dev.downlink d 24 (!d.bc) (forAssigned fun t =>
    ({ t with mode := .ready }, some (t.answer tyAck (ackWord 0x05 0), .onbeat t.offset)))).when (!d.bc) fun dev => dev.endAuth d.sa.toNat

/-- WAKE (R124). -/
def execWake (d : Down) (s : State) : Out State :=
  effect s fun dev => dev.downlink d 24 d.bc fun t => (if t.mode = .quiet then { t with mode := .ready } else t, none)

/-- PING (R120). -/
def execPing (d : Down) (s : State) : Out State :=
  effect s fun dev => dev.downlink d 24 (!d.bc) (forAssigned fun t => (t, some (t.answer tyAck (ackWord 0x07 0), t.timing d 0)))

/-! ### READ (R122, R123, R128) -/

/-- The blocks that remain once ACK has come. -/
def Tag.acknowledge (t : Tag) (ack : Nat) : Tag :=
  if ack = 0xFF ∧ t.sentFF = false then t
  else { t with blocks := t.blocks.filter fun b => !(b.sent && (ack + 256 - b.seq) % 256 < 128) }

/-- A new block of the sets sampled, unless 127 blocks wait. -/
def Tag.newBlock (t : Tag) (sets : List (List Half)) (tick spacing : Nat) : Tag :=
  if sets.isEmpty then t
  else if 127 ≤ t.blocks.length then { t with overflow := true }
  else
    { t with blocks := t.blocks ++ [{ seq := t.nextSeq, sets := sets, tick := tick, spacing := spacing, sent := false }],
             nextSeq := (t.nextSeq + 1) % 256 }

/-- The DATA payload of a block whose newest set is `age` old; `stat` is LOWPWR and NVM_BUSY as the tag finds them (R122). -/
def dataWords (b : TagBlock) (age : Nat) (overflow : Bool) (stat : Nat) : List Half :=
  [BitVec.ofNat 16 (b.seq * 256 + b.sets.length * 16 + flagOf b.sent + 2 * flagOf overflow + 4 * (stat % 4)),
   BitVec.ofNat 16 age, BitVec.ofNat 16 b.spacing] ++ b.sets.flatten

/-- READ: the oldest unacknowledged block goes out. AGE counts to the reply's first preamble symbol, which follows the hold blocks
that the tag chooses; a block not sent before carries the AGE that its command reports. A tag whose oldest block does not fit
MAXW is silent (R119; notes/assumptions/126.md). -/
def Tag.read (t : Tag) (f : Down) (pick : Nat × Nat) (now ack plan upl hold maxw : Nat) (sets : List (List Half)) (age spacing stat : Nat) :
    Tag × Option (Answer × ReplyTiming) :=
  let tm := t.timing f hold
  let nak := fun r => (t, some (t.answer tyNak (ackWord 0x10 r), tm))
  if t.kind.planMask plan = 0 then nak nakBadArg
  else
    match t.uplOf upl with
    | none => nak nakUnsupported
    | some (rate, z) =>
      let width := popCount 64 (t.kind.planMask plan)
      let room := if maxw = 0 then 128 else maxw
      let most := (room - 3) / max 1 width
      let sets := ((sets.filter fun x => x.length == width).take 15).take most
      let at? := tm.chosen pick
      let first := now + 2 * (at?.1 + at?.2 * holdCycles t.gen)
      let t := (t.acknowledge ack).newBlock sets (first - 32 * age) spacing
      match t.blocks with
      | [] => (t, none)
      | b :: bs =>
        if room < 3 + b.sets.flatten.length then (t, none)
        else
          let a := if b.sent then (first - b.tick) / 32 else age
          let t' := { t with blocks := { b with sent := true } :: bs, sentFF := t.sentFF || b.seq == 0xFF, overflow := false }
          (t', some (⟨tyData, dataWords b a t.overflow stat, t.gen, rate, z⟩, tm))

def execRead (d : Down) (ack : Byte) (plan upl hold : BitVec 4) (maxw : Byte) (samples : List (List Half)) (age spacing : Half)
    (stat : BitVec 2) (s : State) : Out State :=
  effect s fun dev => dev.downlinkPick d 52 (!d.bc) fun pick => forAssigned fun t =>
    t.read d pick dev.now ack.toNat plan.toNat upl.toNat hold.toNat maxw.toNat samples age.toNat spacing.toNat stat.toNat

/-- READ_MEM (R121, R128). -/
def execReadMem (d : Down) (addr : Half) (nw : Byte) (upl hold : BitVec 4) (s : State) : Out State :=
  effect s fun dev => dev.downlink d 56 (!d.bc) (forAssigned fun t =>
    let n := if nw = 0 then 128 else nw.toNat
    let tm := t.timing d hold.toNat
    let nak := fun r => (t, some (t.answer tyNak (ackWord 0x11 r), tm))
    if 128 < n then nak nakBadArg
    else
      match t.uplOf upl.toNat with
      | none => nak nakUnsupported
      | some (rate, z) =>
        if t.readable addr.toNat n then
          (t, some (⟨tyMem, (List.range n).map fun i => t.word (addr.toNat + i), t.gen, rate, z⟩, tm))
        else nak nakRange)

/-! ### Writes and authentication (R132, R136, R137) -/

def execPrepare (d : Down) (addr : Half) (nw hold : BitVec 4) (data : List Half) (nvmOk : Bool) (s : State) : Out State :=
  let n := if nw = 0 then 16 else nw.toNat
  effect s fun dev => dev.downlink d (48 + 16 * data.length) (!d.bc && data.length == n) (forAssigned fun t =>
    let tm := ReplyTiming.bounded hold.toNat
    let nak := fun r => (t, some (t.answer tyNak (ackWord 0x12 r), tm))
    if t.kind.dualBank = false then nak nakUnsupported
    else if t.kind.writable addr.toNat n = false then nak nakRange
    else if t.kind.protects addr.toNat n = true ∧ t.mode ≠ .secure then nak nakNotSecure
    else if nvmOk = false then nak nakNvm
    else
      let b := data.zipIdx.foldl (fun b p => assocPut (addr.toNat + p.2) p.1 b) (t.pendingBank.getD t.bank)
      let t := { t with pendingBank := some b }
      (t, some (t.answer tyPrepared [BitVec.ofNat 16 (bankToken t.kind b)], tm)))

def execCommit (d : Down) (token : Half) (hold : BitVec 4) (nvmOk : Bool) (s : State) : Out State :=
  effect s fun dev => dev.downlink d 48 (!d.bc) (forAssigned fun t =>
    let tm := ReplyTiming.bounded hold.toNat
    let nak := fun r => (t, some (t.answer tyNak (ackWord 0x13 r), tm))
    match t.pendingBank with
    | none => nak nakToken
    | some b =>
      if bankToken t.kind b ≠ token.toNat then nak nakToken
      else if nvmOk = false then nak nakNvm
      else
        let t := { t with bank := b, bankNo := 1 - t.bankNo, pendingBank := none, commits := t.commits + 1 }
        (t, some (t.answer tyCommitted [token, BitVec.ofNat 16 t.bankNo], tm)))

/-- CONFIRM: after its answer the tag frees the inactive bank (R132). -/
def execConfirm (d : Down) (token : Half) (hold : BitVec 4) (s : State) : Out State :=
  effect s fun dev => dev.downlink d 48 (!d.bc) (forAssigned fun t =>
    let same := bankToken t.kind t.bank == token.toNat
    ({ t with pendingBank := none }, some (t.answer tyConfirmed [BitVec.ofNat 16 (flagOf same), BitVec.ofNat 16 (t.commits >>> 16), BitVec.ofNat 16 t.commits],
      t.timing d hold.toNat)))

/-- The AUTH reply's payload: message kind, length, bytes two a word (R122). -/
def authWords (msg : Nat) (resp : List Byte) : List Half :=
  BitVec.ofNat 16 (msg * 256 + resp.length) :: (chunks 2 resp).map fun b => BitVec.ofNat 16 (leAt b 0 1 * 256 + leAt b 1 1)

def execAuth (d : Down) (msg hold : BitVec 4) (message : List Byte) (s : State) : Out State :=
  effect s fun dev => dev.downlink d (40 + 8 * message.length) (!d.bc && 1 ≤ message.length && message.length ≤ 64) (forAssigned fun t =>
    let tm := ReplyTiming.bounded hold.toNat
    let nak := fun r => (t, some (t.answer tyNak (ackWord 0x20 r), tm))
    if t.kind.canAuth = false then nak nakUnsupported
    else
      match Config.authReply t.uid msg.toNat message with
      | none => nak nakAuth
      | some resp => (t, some (t.answer tyAuth (authWords msg.toNat resp), tm)))

/-! ### Field at a tag (R124, R132, R133, R137) -/

/-- Loss of field: SECURE and QUIET end, the reply stops. -/
def Tag.loseField (t : Tag) : Tag :=
  { t with powered := false, mode := if t.mode = .secure then .assigned else if t.mode = .quiet then .ready else t.mode }

/-- The outcome of a write that a loss of field interrupts, by the step sent last and its reply, if one came (R133). -/
def WriteRec.collapse (w : WriteRec) : WriteRec :=
  if w.outcome.isSome then w
  else
    match w.step with
    | .prepare => { w with outcome := some (if w.last = some tyPrepared then .unknown else .none) }
    | .commit => { w with outcome := some (if w.last = some tyCommitted then .done else .unknown) }
    | .confirm => { w with outcome := some (if w.retry then .unknown else .done) }

/-- The write with the tag at `sa` as a loss of field settles it, and the authentication with it, which is discarded (R133, R137). -/
def Dev.airCollapse (d : Dev) (sa : Nat) : Dev :=
  (d.inAir fun a => { a with writes := a.writes.map fun w => if w.sa = sa then w.collapse else w }).endAuth sa

/-- What a loss of field does to the tag that holds `sa`: SECURE ends (R137). -/
def Tag.endSecure (t : Tag) : Tag := { t with mode := if t.mode = .secure then .assigned else t.mode }

/-- A tag's power-up: the first makes it READY; a later one discards a pending bank and keeps what its NVM holds (R124, R132). -/
def execTagPowerUp (k : TagKind) (s : State) : Out State :=
  effect s fun d =>
    if d.air.tags.any fun t => t.kind.uid == k.uid then
      d.inAir fun a =>
        { a with
          auths := a.auths.filter fun x => !(a.tags.any fun t => t.kind.uid == k.uid && t.assigned && t.sa == x.sa)
          tags := a.tags.map fun t =>
            if t.kind.uid = k.uid then { t.loseField with powered := true, pendingBank := none } else t
          replies := a.replies.filter fun r => r.uid != k.uid.toNat }
    else
      d.inAir fun a =>
        { a with tags := a.tags ++ [{ kind := k, mode := .ready, powered := true, sa := 0, offset := 0, gen := 1, rate := 0,
                                      z64 := false, self := false, bank := [], bankNo := 0, pendingBank := none, commits := 0,
                                      blocks := [], nextSeq := 0, sentFF := false, overflow := false }] }

end Sys2Proof.Machine
end

