-- ==== Sys2Proof/Machine/Board.lean ====
section
/-!
DEFINITION. The scoreboard, what a Caller presents to its program, and how a program ends (08_figures_callers.md R210 to R217).
-/

-- One declaration after another: the package is compiled as one text under a memory limit.
set_option Elab.async false

namespace Sys2Proof.Machine

def Dev.inFig (d : Dev) (f : FigState → FigState) : Dev := { d with fig := f d.fig }
def Dev.inCen (d : Dev) (f : CensusState → CensusState) : Dev := { d with cen := f d.cen }
def Dev.inRx (d : Dev) (f : RxState → RxState) : Dev := { d with rx := f d.rx }
def Dev.inHub (d : Dev) (f : HubState → HubState) : Dev := { d with hub := f d.hub }

/-! ### Lanes and Callers as kept -/

def Dev.lane (d : Dev) (l : Nat) : LaneState := vget d.rx.lanes l idleLane
def Dev.putLane (d : Dev) (l : Nat) (f : LaneState → LaneState) : Dev := d.inRx fun s => { s with lanes := vupdN s.lanes l f }

def Dev.caller (d : Dev) (k : Nat) : CallerState := vget d.fig.callers k idleCaller
def Dev.putCaller (d : Dev) (k : Nat) (f : CallerState → CallerState) : Dev := d.inFig fun s => { s with callers := vupdN s.callers k f }

/-! FLAGS of R220. -/
abbrev flagNoent : Nat := 0
abbrev flagUnder : Nat := 1
abbrev flagRestart : Nat := 2
abbrev flagReverse : Nat := 3
abbrev flagLateFire : Nat := 4
abbrev flagSlotNone : Nat := 5
abbrev flagRefused : Nat := 6
abbrev flagMarker : Nat := 7

def Dev.callerFlag (d : Dev) (k i : Nat) (b : Bool) : Dev := d.putCaller k fun c => { c with flags := putBit c.flags i b }

/-- A general register as a program reads it: g0 is 0 (R210). -/
def Dev.reg (d : Dev) (k r : Nat) : Word := if r = 0 then 0 else vget (d.caller k).regs r 0

/-- A general register written; g0 ignores it. -/
def Dev.putReg (d : Dev) (k r : Nat) (v : Word) : Dev :=
  if r = 0 then d else d.putCaller k fun c => { c with regs := vupdN c.regs r fun _ => v }

/-- The fields of the fired Step (R202). -/
def Fire.word (f : Fire) (i : Nat) : Nat := f.words.getD i 0
def Fire.sa (f : Fire) : Nat := bitsOf (f.word 1) 0 12
def Fire.caller (f : Fire) : Nat := bitsOf (f.word 1) 21 3
/-- The tags of the Step: SA alone, or the group from it on. -/
def Fire.tags (f : Fire) : Nat := if (f.word 0).testBit 27 then max 1 (bitsOf (f.word 1) 24 8) else 1
def Fire.entry (f : Fire) : Nat := bitsOf (f.word 2) 0 14

/-! ### Slots (R214, R224) -/

def Dev.slot (d : Dev) (i : Nat) : Option Slot := vget d.fig.slots i none
def Dev.putSlot (d : Dev) (i : Nat) (v : Option Slot) : Dev := d.inFig fun s => { s with slots := vupdN s.slots i fun _ => v }
def Dev.updSlot (d : Dev) (i : Nat) (f : Slot → Slot) : Dev := d.inFig fun s => { s with slots := vupdN s.slots i fun x => x.map f }

def Dev.slotsWhere (d : Dev) (p : Slot → Bool) : List Nat :=
  (List.range 256).filter fun i =>
    match d.slot i with
    | some x => p x
    | none => false

def Dev.busySlots (d : Dev) : Nat := (d.slotsWhere fun _ => true).length
def Dev.freeSlots (d : Dev) : Nat := 256 - d.busySlots
def Dev.kindSlots (d : Dev) (k : SlotKind) : Nat := (d.slotsWhere fun x => x.kind == k).length
/-- The kept slots, which no program owns (R215, R224). -/
def Dev.keptSlots (d : Dev) : Nat := (d.slotsWhere fun x => x.kept.isSome && x.caller.isNone).length

/-- The slots that Caller `k` owns (R224). -/
def Dev.slotsOf (d : Dev) (k : Nat) : List Nat := d.slotsWhere fun x => x.caller == some k

/-- RESERVE, at most 64. -/
def Dev.sbReserve (d : Dev) : Nat := min 64 (d.g SB_CTRL_RESERVE)

/-- A claim of this kind may take a slot now. -/
def Dev.slotFor (d : Dev) (k : SlotKind) : Bool := (if k = .bus ∨ k = .job then 0 else d.sbReserve) < d.freeSlots

/-- A slot that is granted to a program, whose operation keeps the windows under the retired segments `mask` (R76). -/
def newSlot (k : SlotKind) (caller step : Option Nat) (sa prio mask : Nat) : Slot :=
  { kind := k, caller := caller, kept := none, bound := none, home := caller, rel := false, bus := false, hub := false, carried := false,
    sent := none, target := none, step := step, sa := sa, prio := prio, mask := mask }

/-- A free slot becomes busy. Which one is the hardware's own. -/
def Dev.takeSlot (d : Dev) (x : Slot) : Nat × Dev :=
  let frees := (List.range 256).filter fun i => (d.slot i).isNone
  let (v, d) := d.freeVal
  let i := frees.getD (v % max 1 frees.length) 0
  let d := d.putSlot i (some x)
  (i, d.high SB_PEAK_PEAK 0 d.busySlots)

/-- What still holds the slot: a claim record or a queued claim, an open window, a bus transaction (R214). -/
def Dev.slotHeld (d : Dev) (i : Nat) : Bool :=
  (List.range 24).any (fun n => d.hasGranted n (.slot i)) || (d.fld.claims.any fun c => c.owner == .slot i)
    || (List.range 20).any (fun l => ((d.lane l).win.map (·.slot)) == some i || ((d.lane l).next.any fun w => w.slot == i))
    || ((d.slot i).map (·.bus)).getD false

/-- The outgoing Reel's settings end with the last carried operation (R44). -/
def Dev.settleCarry (d : Dev) : Dev :=
  if (d.slotsWhere fun x => x.carried).isEmpty then d.inReel fun r => { r with outgoing := none, swapTick := none } else d

/-! ### Commands on an entry that a slot or a job holds back (R200) -/

/-- The entry becomes FREE; its SA and its last block number go. -/
def Dev.freeEntry (d : Dev) (i : Nat) : Dev :=
  let d := d.inCen fun c => { c with bseq := assocDel (d.entSa i) c.bseq, caps1 := assocDel i c.caps1
                                     waits := c.waits.filter fun w => w.idx != i }
  (d.dropTagBase i).wws (cenBase + 8 * i) (List.replicate 8 0)

/-- An entry joins the list that the ENTRY job serves; a plan and a SETGEN that it waits for already stand (R412). -/
def Dev.joinEntry (d : Dev) (w : EntryWait) : Dev :=
  d.inCen fun c =>
    let old := c.waits.find? fun x => x.idx == w.idx
    { c with waits := c.waits.filter (fun x => x.idx != w.idx) ++
               [{ w with plan := w.plan.orElse fun _ => old.bind (·.plan), regen := w.regen || (old.map (·.regen)).getD false }]
             serve := true }

/-- RETIRE takes effect: RELEASE goes out at the tag's next pass (R182). -/
def Dev.retireNow (d : Dev) (i : Nat) : Dev := (d.putState i stRetiring).joinEntry { idx := i, plan := none, regen := false }

/-- The slot that a KEEP bound to a short address, kept or adopted since (R215). -/
def Dev.boundFor (d : Dev) (sa : Nat) : Option Nat := (d.slotsWhere fun x => x.bound == some sa).head?

/-- The job in progress is giving an SA to the tag of entry `i`: the sequence of R189 runs for it. -/
def JobStep.names (i : Nat) : JobStep → Bool
  | .assign j | .readId j | .setgen j | .pingUid _ j => i == j
  | _ => false

/-- The walk assigns the UID of entry `i` (R200). -/
def Dev.assigning (d : Dev) (i : Nat) : Bool :=
  match d.cen.job with
  | some j => j.kind == .walk && ((j.phase != .place && (j.step.map (JobStep.names i)).getD false) || j.todo.any (JobStep.names i))
  | none => false

/-- A RETIRE or FREE of entry `i` has to wait (R200). -/
def Dev.heldBack (d : Dev) (i : Nat) : Bool := (holdsSa (d.entState i) && (d.boundFor (d.entSa i)).isSome) || d.assigning i

/-- Commands held back take effect once nothing holds them back (R200). -/
def Dev.settleHeld (d : Dev) : Dev :=
  let ready := d.cen.held.filter fun h => !d.heldBack h.1
  (d.inCen fun c => { c with held := c.held.filter fun h => !ready.contains h }).each ready fun d h =>
    if h.2.1 then d.freeEntry h.1 else d.retireNow h.1

/-- The slot leaves its owner. -/
def Dev.freeSlot (d : Dev) (i : Nat) : Dev :=
  let d := d.inFig fun s => { s with callers := vmap (fun _ c => if c.cur == some i then { c with cur := none } else c) s.callers }
  (d.putSlot i none).settleCarry.settleHeld

/-- A release that was asked for takes effect once nothing holds the slot (R214). -/
def Dev.trySlotRelease (d : Dev) (i : Nat) : Dev :=
  match d.slot i with
  | none => d
  | some x => if x.rel && !d.slotHeld i then d.freeSlot i else d

/-! ### The program's progress -/

/-- A program in its fault or at its limit (R217); see `endProgram` below for the clean-up. -/
abbrev causeOpcode : Nat := 0
abbrev causeData : Nat := 1
abbrev causeFetch : Nat := 2
abbrev causeLimit : Nat := 3
abbrev causeListen : Nat := 4

/-- What a slot's END or abort does to the claims and starts that still wait (R68). -/
def Dev.dropWaiting (d : Dev) (o : Nat) : Dev := (d.dropClaims fun c => c.owner == .slot o).each (List.range 24) fun d n => d.dropHeld n o

/-- A pass of the tags of the Step that Caller `k` runs ends: the slots kept for them and not adopted count it (R134, R215). -/
def Dev.passEnds (d : Dev) (k : Nat) : Dev :=
  match (d.caller k).fire with
  | none => d
  | some f =>
    if f.job then d
    else
      let d := d.inAir fun a =>
        { a with writes := a.writes.map fun w =>
            if f.sa ≤ w.sa ∧ w.sa < f.sa + f.tags ∧ (w.outcome = some .unknown ∨ w.retry) then { w with passes := w.passes + 1 } else w }
      d.inFig fun s =>
        { s with slots := vmap (fun _ x => x.map fun x =>
            { x with kept := x.kept.map fun q => if f.sa ≤ q.sa ∧ q.sa < f.sa + f.tags ∧ x.caller = none then { q with passes := q.passes + 1 } else q }) s.slots }

/-- The clean-up of R217. -/
def Dev.endProgram (d : Dev) (k : Nat) : Dev :=
  let mine := d.slotsOf k
  let gone := mine.filter fun i => ((d.slot i).bind (·.kept)).isNone
  let drives := (List.range 24).filter fun n => gone.any fun i => d.hasGranted n (.slot i)
  let d := d.passEnds k
  let d := d.each mine fun d i =>
    match d.slot i with
    | none => d
    | some x =>
      if x.kept.isSome then (d.dropWaiting i).updSlot i fun x => { x with caller := none }
      else
        let drove := (List.range 24).any fun n => d.hasGranted n (.slot i)
        let d := (d.dropField i).when drove fun d => d.set1 CALL_EVENTS_END_DRIVE
        let open? := (List.range 20).any fun l => ((d.lane l).win.map (·.slot)) == some i || ((d.lane l).next.any fun w => w.slot == i)
        (d.updSlot i fun x => { x with caller := none, rel := true, kind := if open? then .decode else x.kind }).trySlotRelease i
  let d := d.inc CL_COUNT_PROGRAMS k
  d.putCaller k fun c => { c with st := .idle, cur := none, falls := drives }

/-- A fault or the limit ends the program (R217). -/
def Dev.abortProgram (d : Dev) (k cause : Nat) : Dev :=
  let d := ((d.p CALL_FAULT_PC 0 (d.caller k).pc).p CALL_FAULT_CALLER 0 k).p CALL_FAULT_CAUSE 0 cause
  let d := if cause = causeLimit then d.set1 CALL_EVENTS_TIMEOUT else d.set1 CALL_EVENTS_FAULT
  (d.bump CL_COUNT_ABORTS k).endProgram k

/-- The program goes on at word `a` of Call memory; beyond it, the fetch faults (R217). -/
def Dev.goTo (d : Dev) (k : Nat) (a : Int) : Dev :=
  if 0 ≤ a ∧ a ≤ 16383 then d.putCaller k fun c => { c with st := .run, pc := a.toNat }
  else d.abortProgram k causeFetch

/-- The next instruction. -/
def Dev.advance (d : Dev) (k : Nat) : Dev := d.goTo k ((d.caller k).pc + 1)

/-- A result and the next instruction. -/
def Dev.result (d : Dev) (k rd : Nat) (v : Word) : Dev := (d.putReg k rd v).advance k

abbrev allOnes : Word := 0xFFFFFFFF

/-! ### The data area (R210) -/

def dataWord (k a : Nat) : Nat := dataBase + 1792 * k + a

/-- Words stored from data address `a`; a word beyond 1,791 faults. -/
def Dev.storeData (d : Dev) (k a : Nat) : List Word → Bool × Dev
  | [] => (true, d)
  | w :: ws => if 1791 < a then (false, d) else (d.ww (dataWord k a) w.toNat).storeData k (a + 1) ws

/-- The payload of a frame, two 16-bit words a data word, first in [31:16] (R216). -/
def packHalves (ws : List Half) : List Word :=
  (chunks 2 ws).map fun p => BitVec.ofNat 32 ((p.getD 0 0).toNat * 65536 + (p.getD 1 0).toNat)

/-- RECV ends: the record and the payload go to data from `a`, the status word to rd (R213, R216). -/
def Dev.takeRecord (d : Dev) (k l rd a : Nat) : Dev :=
  match (d.lane l).record with
  | none => d
  | some (_, rec, pay) =>
    let d := d.putLane l fun x => { x with record := none }
    match d.storeData k a (rec ++ packHalves pay) with
    | (true, d) => d.result k rd (rec.getD 0 0)
    | (false, d) => d.abortProgram k causeData

/-! ### Slot claims (R214) -/

/-- The claim of a waiting Caller: priority, claim time, Caller. -/
def Dev.slotWaits (d : Dev) : List (Nat × Nat × Nat × SlotKind) :=
  (List.range 8).filterMap fun k =>
    match (d.caller k).st with
    | .slot _ kind t =>
      let kd := if kind = 1 then SlotKind.decode else if kind = 2 then .write else if kind = 3 then .bus else if kind = 4 then .job else .air
      some (((d.caller k).fire.map (·.prio)).getD 0, t, k, kd)
    | _ => none

/-- The Caller whose slot claim is granted next. -/
def Dev.slotWinner (d : Dev) : Option (Nat × Nat × Nat × SlotKind) :=
  (sortBy (fun a b => decide (b.1 < a.1) || (a.1 == b.1 && decide (a.2.1 < b.2.1))) (d.slotWaits.filter fun w => d.slotFor w.2.2.2)).head?

/-- One slot claim granted. -/
def Dev.grantSlot (d : Dev) : Dev :=
  match d.slotWinner with
  | none => d
  | some (prio, _, k, kind) =>
    let f := (d.caller k).fire
    let mask := (f.map (·.mask)).getD (d.g FLD_RETIRED_SEG)
    let (i, d) := d.takeSlot (newSlot kind (some k) (f.bind fun f => if f.job then none else some f.step) ((f.map Fire.sa).getD 0) prio mask)
    match (d.caller k).st with
    | .slot rd _ _ => (d.putCaller k fun c => { c with cur := some i }).result k rd (BitVec.ofNat 32 i)
    | _ => d

/-! ### Repeated exchanges (R13, R71) -/

/-- The exchange of the slot's Step runs again at the tag's next pass. -/
def Dev.repeatSlot (d : Dev) (i : Nat) : Dev :=
  match (d.slot i).bind (·.step) with
  | none => d
  | some s => d.inFig fun f => { f with again := if f.again.contains s then f.again else f.again ++ [s] }

/-- The exchange that drives segment `n` runs again. -/
def Dev.repeatSeg (d : Dev) (n : Nat) : Dev :=
  match (d.seg n).owner with
  | some (.slot i) => d.repeatSlot i
  | _ => d

/-! ### The segment of a firing (R76, R211) -/

def optWord (o : Option Nat) : Word :=
  match o with
  | some v => BitVec.ofNat 32 v
  | none => 0xFFFFFFFF

/-- g4 of a firing: SEG, or the segment whose effective window under the retired segments `mask` holds the tag's stator point; open
where no entry holds the SA (R211). -/
def Dev.fireSeg (d : Dev) (f : Fire) (mask : Nat) : Word × Dev :=
  let seg := bitsOf (f.word 1) 12 5
  if seg ≠ 31 then (BitVec.ofNat 32 seg, d)
  else
    match d.posOf f.sa with
    | some p => (optWord ((d.ringDef f.ring).bind fun e => e.segAt mask ((f.frac + p) % 2 ^ 24)), d)
    | none =>
      let (v, d) := d.freeVal
      (BitVec.ofNat 32 v, d)

/-- A firing that still waits for its Caller in the CCLK cycle in which it fired takes the windows of a retirement in that cycle
(R76, R227). -/
def Dev.refire (d : Dev) : List Fire → List Fire × Dev
  | [] => ([], d)
  | f :: l =>
    let (f', d) :=
      if f.job || f.tick != d.now || d.clock.cclk != 0 then (f, d)
      else let (w, d) := d.fireSeg f (d.g FLD_RETIRED_SEG); ({ f with mask := d.g FLD_RETIRED_SEG, g4 := w }, d)
    let (l', d) := d.refire l
    (f' :: l', d)

/-- The firings of the present CCLK cycle under a retirement in it. -/
def Dev.refreshFires (d : Dev) : Dev :=
  let (l, d) := d.refire d.fig.due
  (d.inFig fun s => { s with due := l }).each (List.range 8) fun d k =>
    let (q, d) := d.refire (d.caller k).queue
    d.putCaller k fun c => { c with queue := q }

/-! ### Windows of lanes (R145, R146) -/

/-- The channels of a ring in effective cover order, from `first` on. -/
def Dev.coverFrom (d : Dev) (e : RingDef) (first : Nat) : List Nat :=
  let k := e.place first
  ((e.segs.drop k) ++ (e.segs.take k)).filter fun n => !d.segIsRetired n

/-- The Reel that a slot's operation is on (R44). -/
def Dev.reelFor (d : Dev) (slot : Nat) : Option Reel :=
  if ((d.slot slot).map (·.carried)).getD false then d.reel.outgoing else d.reel.active

def Dev.ringFor (d : Dev) (slot seg : Nat) : Option RingDef := (d.reelFor slot).bind fun r => r.ringOfSeg seg

/-- The channels of a window: as many as the home WIDTH of the role that lane `l` holds. -/
def Dev.windowChans (d : Dev) (l : Nat) (w : RxWindow) : List Nat :=
  let width := max 1 ((((d.reelFor w.slot).bind fun r => r.xbar[d.g LN_CFG_ROLE_OF l]?).map (·.width)).getD 1)
  match d.ringFor w.slot w.first with
  | some e => (d.coverFrom e w.first).take width
  | none => [w.first]

/-- A window on which nothing has been received takes the next channel in place of one whose segment is now retired (R145). -/
def Dev.refreshWindow (d : Dev) (l : Nat) : Dev :=
  let x := d.lane l
  match x.win with
  | none => d
  | some w =>
    if x.pkt.isSome || (List.range 2).any (fun i => (vget x.cands i none).isSome) || !x.chans.any d.segIsRetired then d
    else
      let chans := d.windowChans l w
      (d.putLane l fun x => { x with chans := chans }).p LN_CFG_FIRST l (chans.headD w.first)

/-- What a retirement in the present CCLK cycle changes beyond the field: firings and windows. -/
def Dev.refreshRetired (d : Dev) : Dev := d.refreshFires.each (List.range 20) Dev.refreshWindow

/-! ### Faults of a driver (R70, R71, R77) -/

/-- A tuning run ends (R51, R52). -/
def execTuneDone (n : Seg) (imag : Nat) (iph : Int) (trip : Bool) (s : State) : Out State :=
  effect s fun d => (d.tuneEnd n imag iph trip).refreshRetired.settlePool

def execSegShort (n : Seg) (s : State) : Out State := effect s fun d => ((d.repeatSeg n).shortFault n).refreshRetired.settlePool

def execSegOpen (n : Seg) (s : State) : Out State :=
  effect s fun d => (((d.repeatSeg n).set1 SEG_FAULT_OPEN n).slowFault n 1).refreshRetired.settlePool

/-- A reading below FAULT is no fault. -/
def execThermalFault (n : Seg) (temp : Int) (s : State) : Out State :=
  effect s fun d =>
    let d := d.tempRead n temp
    if d.tempFault n then (((d.repeatSeg n).set1 SEG_FAULT_THERM n).slowFault n 3).refreshRetired.settlePool else d

def execVdrvLow (mv : Nat) (s : State) : Out State :=
  effect s fun d => (((d.p FLD_VDRV_VDRV 0 mv).set1 FLD_VDRV_LOW).set1 FLD_EVENTS_VDRV_LOW).brakeAll

end Sys2Proof.Machine
end

