-- ==== Sys2Proof/Machine/Audit.lean ====
section
/-!
DEFINITION. What a host does with the queues, and the audits of the conserved books (08_figures_callers.md R223 to R226;
10_queues_pool.md R254 to R271).
-/

-- One declaration after another: the package is compiled as one text under a memory limit.
set_option Elab.async false

namespace Sys2Proof.Machine

/-! ### Reading a word (R386 to R388) -/

/-- What a direct read of tenant `t` returned. -/
def Dev.putRead (d : Dev) (t : Nat) (w : Word) : Dev := d.inHost fun h => { h with readBack := vupdN h.readBack t fun _ => w }

/-- A read of a register word by tenant `t`: `f` where the access is performed. -/
def Dev.gatedRead (d : Dev) (t a : Nat) (f : Dev → Word × Dev) : Word × Dev :=
  if !d.tenantPresent t then (0, d)
  else
    let d := d.touched
    match d.judge t a false with
    | .pass => f d
    | .reserved => (0, d)
    | .perm => (0, d.permErr t a false)
    | .dark n => (BitVec.ofNat 32 (darkWord n), d.darkErr t a false)

/-! ### QnDATA (R260, R261, R271) -/

/-- A read of QnDATA: the owner pops; another reader gets 0 and pops nothing. -/
def Dev.dataRead (d : Dev) (t q : Nat) : Word × Dev :=
  if d.queueOwner q != t then (0, d)
  else if d.queueSource q = 2 then (0, d.set1 Q_EVT_DIR_ERR q)
  else d.registerPop q

/-- A write of QnDATA by the owner. -/
def Dev.dataWrite (d : Dev) (q : Nat) (w : Word) : Dev :=
  if d.queueSource q = 2 then (d.pushWord q w).2 else d.set1 Q_EVT_DIR_ERR q

/-- A write of QnEVT.RESET. -/
def Dev.resetByHost (d : Dev) (q : Nat) : Dev := if d.queueUsed q then d.restartQueue q else d

def execQueuePop (t : Tenant) (q : QueueId) (s : State) : Out State :=
  effect s fun d =>
    let (w, d) := d.gatedRead t (0x1800 + 8 * q) fun d => d.dataRead t q
    (d.putRead t w).settlePool

def execQueuePush (t : Tenant) (q : QueueId) (w : Word) (s : State) : Out State :=
  effect s fun d => (d.hostWrite t (0x1800 + 8 * q) fun d => d.dataWrite q w).settlePool

/-- R259: a pending marker enters at the end of a cycle in which it finds room. -/
def execMarkerEntry (q : QueueId) (s : State) : Out State :=
  effect s fun d => (if d.queueUsed q then d.enterMarker q else d).settlePool

def execQueueReset (t : Tenant) (q : QueueId) (s : State) : Out State :=
  effect s fun d => (d.hostWrite t (0x1805 + 8 * q) fun d => d.resetByHost q).settlePool

/-! ### The three books (R223 to R226) -/

/-- The Caller whose counter holds the tokens of an owner: that of its slot's program, ended or not. Tuning and loopback runs belong
to none. -/
def Dev.ownerHome (d : Dev) (o : Option ClaimOwner) : Option Nat :=
  match o with
  | some (.slot i) => (d.slot i).bind (·.home)
  | _ => none

/-- CLk_HELD.TOKENS (R223, R228). -/
def Dev.heldTokens (d : Dev) (k : Nat) : Nat := (((List.range 24).filter fun n => d.ownerHome (d.seg n).owner == some k).map d.held).sum

/-- The tokens held by tuning runs, and by a loopback run. -/
def Dev.tuneTokens (d : Dev) : Nat :=
  (((List.range 24).filter fun n => (d.seg n).owner == some .tune || (d.seg n).owner == some .loop).map d.held).sum

/-- FREE + CLAIMED = 600, and CLAIMED is what the Callers' counters and the tuning runs hold (R223). -/
def Dev.tokensOk (d : Dev) : Bool :=
  d.g FLD_BUDGET_FREE + d.claimed == 600 && d.claimed == ((List.range 8).map d.heldTokens).sum + d.tuneTokens

/-- BUSY is the Callers' slots, the kept ones, the hub's, and those of ended programs that await their release (R224). -/
def Dev.slotsOk (d : Dev) : Bool :=
  let loose := d.slotsWhere fun x => x.caller.isNone && x.kept.isNone && (x.hub || x.rel)
  ((List.range 8).map fun k => (d.slotsOf k).length).sum + d.keptSlots + loose.length == d.busySlots

/-- Commands accepted and not yet answered whole, each with its credit (R291). -/
def HostCtx.outstanding (c : HostCtx) : Nat :=
  (c.wait.filter (·.credit)).length + (c.out.filter (·.credit)).length + (if c.head = some .taken then 1 else 0)

/-- The credits of context `i`: a tenant's of the active Reel; 4 of T0's two contexts before a Reel (R272). -/
def Dev.creditTotal (d : Dev) (i : Nat) : Nat :=
  if d.reelOn then ((d.tenantDef i).map (·.credits)).getD 0 else if i = 0 ∨ i = 4 then 4 else 0

def Dev.ctx (d : Dev) (i : Nat) : HostCtx := vget d.host.ctx i (newCtx 0)

/-- FREE + OUTSTANDING − DEBT = CREDITS. -/
def Dev.creditsOk (d : Dev) (i : Nat) : Bool := (d.ctx i).free + (d.ctx i).outstanding == d.creditTotal i + (d.ctx i).debt

/-- The contexts that have a credit book. -/
def Dev.creditBooks (d : Dev) : List Nat := (List.range 5).filter fun i => if d.reelOn then (d.tenantDef i).isSome else i == 0 || i == 4

/-- One audit of tokens, slots and credits. The secondary counters are computed from the primary records in this model, so
that there is nothing to rebuild. -/
def Dev.auditBooks (d : Dev) : Dev :=
  let tok := d.tokensOk
  let slt := d.slotsOk
  let bad := d.creditBooks.filter fun i => !d.creditsOk i
  let d := (d.inc BOOK_AUDIT_SEQ).pf BOOK_AUDIT_TOKENS_OK 0 tok
  let d := (d.pf BOOK_AUDIT_SLOTS_OK 0 slt).pf BOOK_AUDIT_CREDITS_OK 0 bad.isEmpty
  let d := d.when (!tok) fun d => (d.bump BOOK_ERR_TOKENS).raise codeBookFault 0
  let d := d.when (!slt) fun d => (d.bump BOOK_ERR_SLOTS).raise codeBookFault 1
  d.each bad fun d i => (d.bump BOOK_ERR_CREDITS).raise codeBookFault 2 (i % 4)

def execBookAudit (t : Tenant) (s : State) : Out State :=
  effect s fun d => (d.hostWrite t 0x1218 Dev.auditBooks).settlePool

/-! ### The pool book (R269, R270) -/

/-- Free and queued cells make up the pool; each queue's cells agree with its head offset and depth by their definition. -/
def Dev.poolOk (d : Dev) : Bool := d.que.free + d.queuedCells == 65536

/-- One audit of the pool: a failure starts a mark pass. -/
def Dev.auditPool (d : Dev) : Dev :=
  let ok := d.poolOk
  let d := (d.inc POOL_AUDIT_SEQ).pf POOL_AUDIT_OK 0 ok
  if ok then d else (((d.bump POOL_ERR_FAILS).set1 POOL_EVENTS_AUDIT_FAIL).set1 POOL_AUDIT_BUSY).raise codeBookFault 3

def execPoolAudit (t : Tenant) (s : State) : Out State :=
  effect s fun d => (d.hostWrite t 0x182F Dev.auditPool).settlePool

/-- The mark pass ends: cells on no list go back to the free list. -/
def Dev.endMarkPass (d : Dev) : Dev :=
  if !d.flag POOL_AUDIT_BUSY then d
  else
    let n := d.que.orphans
    let d := (d.p POOL_AUDIT_BUSY 0 0).inQue fun s => { s with orphans := 0 }
    ((d.giveCells n).bump POOL_ERR_RECLAIMED 0 n).when (n != 0) fun d => d.set1 POOL_EVENTS_RECLAIM

def execMarkPassDone (s : State) : Out State := effect s fun d => d.endMarkPass.settlePool

end Sys2Proof.Machine
end

