-- ==== Sys2Proof/Machine/Hub.lean ====
section
/-!
DEFINITION. The sensor hub: intake, stamps, the graph of slots, statistics banks, records and events (09_sensor_hub.md).
-/

-- One declaration after another: the package is compiled as one text under a memory limit.
set_option Elab.async false

namespace Sys2Proof.Machine

/-! ### Rounding that the spec leaves open -/

/-- A rational rounded to the nearest whole number; which way a tie goes is open. -/
def Dev.roundOpen (d : Dev) (num : Int) (den : Nat) : Int × Dev :=
  let fl := num / (den : Int)
  let twice := 2 * (num - fl * (den : Int))
  if twice < den then (fl, d)
  else if (den : Int) < twice then (fl + 1, d)
  else
    let (v, d) := d.freeVal
    (fl + (v % 2 : Nat), d)

/-! ### The Reel's slots -/

def Dev.hubSlot (d : Dev) (n : Nat) : Option SlotDef := d.reel.active.bind fun r => r.hub.slots.find? fun e => e.index == n

def SlotDef.u8 (e : SlotDef) (o : Nat) : Nat := leAt e.cfg o 1
def SlotDef.u16 (e : SlotDef) (o : Nat) : Nat := leAt e.cfg o 2
def SlotDef.u32 (e : SlotDef) (o : Nat) : Nat := leAt e.cfg o 4
def SlotDef.s16 (e : SlotDef) (o : Nat) : Int := signedOf 16 (e.u16 o)
def SlotDef.queue (e : SlotDef) : Nat := e.u8 4
def SlotDef.group (e : SlotDef) : Nat := e.u8 5
def SlotDef.recEach (e : SlotDef) : Bool := (e.u16 6).testBit 0
def SlotDef.recLatch (e : SlotDef) : Bool := (e.u16 6).testBit 1
def SlotDef.irq (e : SlotDef) : Bool := (e.u16 6).testBit 2
def SlotDef.dropInvalid (e : SlotDef) : Bool := (e.u16 6).testBit 3
def SlotDef.tagWord (e : SlotDef) : Nat := e.u32 8

abbrev kindThresh : Nat := 1
abbrev kindDebounce : Nat := 2
abbrev kindCombine : Nat := 3
abbrev kindRate : Nat := 4
abbrev kindWstat : Nat := 5
abbrev kindOrder : Nat := 6
abbrev kindStream : Nat := 7

/-- The tenant of a slot: its queue's owner, or T0 (R237). -/
def Dev.slotTenant (d : Dev) (e : SlotDef) : Nat := if e.queue < 64 ∧ d.queueOwner e.queue < 4 then d.queueOwner e.queue else 0

/-! ### Statistics banks (R243, R244) -/

/-- The live bank of a slot: the one that its group has not latched. -/
def Dev.liveBank (d : Dev) (e : SlotDef) : Nat :=
  if 6 ≤ e.group then 0 else if (d.g HUB_BANKSEL_LATCHED).testBit e.group then 0 else 1

def bankWordAt (slot bank : Nat) : Nat := statBase + 32 * slot + 16 * bank

/-- A bank at the start of an interval. -/
def Dev.freshBank (d : Dev) (e : SlotDef) (bank : Nat) : Dev :=
  let w := bankWordAt e.index bank
  (d.wws w (List.replicate 16 0)).when (e.kind == kindWstat) fun d => d.ww (w + 1) 0x80007FFF

/-- A 64-bit field of a bank. -/
def Dev.bank64 (d : Dev) (w : Nat) : Nat := d.rw w + 2 ^ 32 * d.rw (w + 1)
def Dev.putBank64 (d : Dev) (w v : Nat) : Dev := (d.ww w v).ww (w + 1) (v / 2 ^ 32)
/-- A 32-bit count of a bank. -/
def Dev.bankCount (d : Dev) (w : Nat) : Dev := d.ww w (satAdd 32 (d.rw w) 1)

/-! ### Records (R247 to R250) -/

def recordHeader (kind len src : Nat) : Nat := inField 24 8 kind + inField 19 5 len + inField 0 19 src

/-- A record for a queue that must have one SOURCE (R248); a record cut short is counted (R250). -/
def Dev.pushRecord (d : Dev) (q source : Nat) (ws : List Nat) : Dev :=
  if q = 0xFF then d
  else if !(d.queueUsed q && d.queueSource q == source) then d.bump HUB_QDROP_MISROUTE
  else
    match d.pushItem q (ws.map (BitVec.ofNat 32)) with
    | (true, d) => d
    | (false, d) => d.bump HUB_QDROP_CUT

def lo32 (n : Nat) : Nat := n % 2 ^ 32
def hi32 (n : Nat) : Nat := n / 2 ^ 32 % 2 ^ 32

def eventRecord (e : SlotDef) (m : Msg) : List Nat :=
  [recordHeader 0x20 7 e.index, e.tagWord,
   inField 0 19 m.chan + inField 19 1 (flagOf m.level) + inField 20 1 (flagOf m.est) + inField 21 1 (flagOf m.inv),
   lo32 m.t, hi32 m.t, lo32 m.a, hi32 m.a,
   inField 0 16 (fieldOf 16 m.v) + inField 16 16 (min m.supp 65535)]

def sampleRecord (e : SlotDef) (m : Msg) : List Nat :=
  [recordHeader 0x11 7 m.chan, e.tagWord, lo32 m.t, hi32 m.t, lo32 m.a, hi32 m.a,
   inField 0 16 (fieldOf 16 m.v) + inField 16 2 m.ring + inField 18 1 (flagOf m.est) + inField 19 1 (flagOf m.inv)
     + inField 20 1 (flagOf m.sp.isSome),
   m.sp.getD 0]

def rawRecord (chan raw t : Nat) : List Nat :=
  [recordHeader 0x10 2 chan, lo32 t, inField 0 16 raw + inField 16 16 (t / 2 ^ 32)]

/-! ### Sending messages (R238, R239) -/

def Dev.engine (d : Dev) (e : Nat) : EngineState := vget d.hub.engines e idleEngine
def Dev.putEngine (d : Dev) (e : Nat) (f : EngineState → EngineState) : Dev := d.inHub fun s => { s with engines := vupdN s.engines e f }

/-- The engine of the slot that a message goes to; engine 0 finds a slot that is not in the graph to be undefined. -/
def Dev.engineOf (d : Dev) (m : Msg) : Nat := ((d.hubSlot m.slot).map (·.engine)).getD 0

def Dev.inboxFull (d : Dev) (m : Msg) : Bool := 256 ≤ (d.engine (d.engineOf m)).inbox.length

def Dev.deliverMsg (d : Dev) (m : Msg) : Dev := d.putEngine (d.engineOf m) fun x => { x with inbox := x.inbox ++ [m] }

/-- A message sent by engine `e`: behind those that already wait, in order (R238). Its own slots need no room in an inbox (R239). -/
def Dev.sendMsg (d : Dev) (e : Nat) (m : Msg) : Dev :=
  if 16 ≤ m.hops then d.bump HUB_ERR_HOPS
  else if d.engineOf m = e then d.deliverMsg m
  else if (d.engine e).out.isEmpty && !d.inboxFull m then d.deliverMsg m
  else d.putEngine e fun x => { x with out := x.out ++ [m] }

/-- A link field: the slot and the port it names, where it is valid (R237). -/
def linkOf (v : Nat) : Option (Nat × Nat) := if v.testBit 15 then some (bitsOf v 0 10, bitsOf v 10 2) else none

def Dev.sendLink (d : Dev) (e : SlotDef) (off : Nat) (m : Msg) : Dev :=
  match linkOf (e.u16 off) with
  | none => d
  | some (s, p) => (d.sendMsg e.engine { m with slot := s, port := p, hops := m.hops + 1 }).putEngine e.engine fun x => { x with busy := x.busy + 1 }

/-- R251: an event of the slot's tenant. -/
def Dev.hubEvent (d : Dev) (t : Nat) : Dev := (d.bump HUB_EVT_COUNT t).set1 HUB_EVT_PEND t

/-- A slot's output message: its link, its record, its event. -/
def Dev.output (d : Dev) (e : SlotDef) (m : Msg) : Dev :=
  let d := d.sendLink e 0 m
  let d := d.when e.recEach fun d => d.pushRecord e.queue 0 (if e.kind = kindStream then sampleRecord e m else eventRecord e m)
  d.when e.irq fun d => d.hubEvent (d.slotTenant e)

/-! ### The primitives (R241, R242) -/

def newRun : SlotRun :=
  { out := false, input := false, since := 0, lastT := none, ports := 0, taken := 0, refill := 0, supp := 0, count := 0, lastMsg := none }

def Dev.runOf (d : Dev) (n : Nat) : SlotRun := (assocGet n d.hub.run).getD newRun
def Dev.putRun (d : Dev) (n : Nat) (f : SlotRun → SlotRun) : Dev := d.inHub fun s => { s with run := assocPut n (f ((assocGet n s.run).getD newRun)) s.run }

/-- A VALUE taken as a level. -/
def Msg.asLevel (m : Msg) : Bool := m.v != 0

/-- IN, and HIGH_TICKS by the stamps of two messages between which the output stood at level 1 (R243). -/
def Dev.countIn (d : Dev) (e : SlotDef) (m : Msg) : Dev :=
  let w := bankWordAt e.index (d.liveBank e)
  let d := d.bankCount w
  let r := d.runOf e.index
  let high := match r.lastT with
    | some t0 => if r.out then m.t - t0 else 0
    | none => 0
  let d := if high = 0 then d else d.putBank64 (w + 2) (satAdd 64 (d.bank64 (w + 2)) high)
  d.putRun e.index fun r => { r with lastT := some m.t }

/-- OUT counts a message sent on LINK0. -/
def Dev.countOut (d : Dev) (e : SlotDef) (m : Msg) : Dev :=
  if (linkOf (e.u16 0)).isSome && m.hops < 15 then d.bankCount (bankWordAt e.index (d.liveBank e) + 1) else d

/-- OUT of a STREAM slot counts a record pushed. -/
def Dev.countPushed (d : Dev) (e : SlotDef) : Dev :=
  if e.recEach && d.queueUsed e.queue && d.queueSource e.queue == 0 then d.bankCount (bankWordAt e.index (d.liveBank e) + 1) else d

/-- The output level becomes `b`: a LEVEL message at a change. -/
def Dev.setLevel (d : Dev) (e : SlotDef) (b : Bool) (m : Msg) : Dev :=
  if (d.runOf e.index).out == b then d
  else
    let d := d.putRun e.index fun r => { r with out := b }
    (d.countOut e m).output e { m with level := true, v := (flagOf b : Nat), supp := 0 }

/-- A level at 0 may rise and one at 1 may fall. -/
def threshNext (e : SlotDef) (out : Bool) (v : Int) : Bool :=
  let hi := e.s16 16
  let lo := min (e.s16 18) hi
  let above := decide (hi ≤ v)
  let below := decide (v ≤ lo)
  if e.u8 20 = 0 then (if out then !below else above) else if out then !above else below

def Dev.debounce (d : Dev) (e : SlotDef) (m : Msg) : Dev :=
  let l := m.asLevel
  let r := d.runOf e.index
  let since := if r.input == l then r.since else m.t
  let d := d.putRun e.index fun r => { r with input := l, since := since }
  let wait := if l then e.u32 16 else e.u32 20
  if since + wait ≤ m.t then d.setLevel e l m else d

def combined (op k ports levels : Nat) : Bool :=
  let used := bitList 4 ports
  let high := (used.filter fun p => levels.testBit p).length
  if op = 0 then high == used.length else if op = 1 then 0 < high else if op = 2 then k ≤ high else false

def Dev.combine (d : Dev) (e : SlotDef) (m : Msg) : Dev :=
  let d := d.putRun e.index fun r => { r with ports := putBit r.ports m.port m.asLevel }
  d.setLevel e (combined (e.u8 16) (e.u8 17) (e.u8 18) (d.runOf e.index).ports) m

def Dev.rate (d : Dev) (e : SlotDef) (m : Msg) : Dev :=
  let r := d.runOf e.index
  if r.taken < e.u16 16 then
    let d := d.putRun e.index fun r => { r with taken := r.taken + 1, refill := if r.taken = 0 then d.now else r.refill, supp := 0 }
    (d.countOut e m).output e { m with supp := r.supp }
  else
    let w := bankWordAt e.index (d.liveBank e) + 4
    (d.bankCount w).putRun e.index fun r => { r with supp := r.supp + 1 }

def Dev.stream (d : Dev) (e : SlotDef) (m : Msg) : Dev :=
  let n := max 1 (e.u16 16)
  let c := (d.runOf e.index).count + 1
  if c < n then d.putRun e.index fun r => { r with count := c }
  else ((d.putRun e.index fun r => { r with count := 0 }).countPushed e).output e m

/-- A field of `w` bits that saturates, and whether it did. -/
def satNat (w v : Nat) : Nat × Bool := if v < 2 ^ w then (v, false) else (2 ^ w - 1, true)
def satInt (w : Nat) (v : Int) : Int × Bool := let s := satSigned w v; (s, s != v)

def Dev.wstat (d : Dev) (e : SlotDef) (m : Msg) : Dev :=
  let w := bankWordAt e.index (d.liveBank e)
  let (cnt, o1) := satNat 32 (d.rw w + 1)
  let (sum, o2) := satInt 64 (signedOf 64 (d.bank64 (w + 2)) + m.v)
  let (sq, o3) := satNat 64 (d.bank64 (w + 4) + (m.v * m.v).toNat)
  let (est, o4) := satNat 32 (d.rw (w + 6) + flagOf m.est)
  let mn := min (signedOf 16 (d.rf (w + 1) 0 16)) m.v
  let mx := max (signedOf 16 (d.rf (w + 1) 16 16)) m.v
  let first := d.rw w == 0
  let fl := d.rw (w + 7) ||| flagOf (o1 || o2 || o3 || o4) ||| 2 * flagOf m.est ||| 4 * flagOf m.inv
  let d := (d.ww w cnt).ww (w + 1) (inField 0 16 (fieldOf 16 mn) + inField 16 16 (fieldOf 16 mx))
  let d := ((d.putBank64 (w + 2) (fieldOf 64 sum)).putBank64 (w + 4) sq).wws (w + 6) [est, fl]
  let d := if first then d.putBank64 (w + 8) m.t else d
  (d.putBank64 (w + 10) m.t).putRun e.index fun r => { r with lastMsg := some m }

/-- The place in a bank of RE_k and IM_k, k = 0, 1, 2. -/
def orderPlace (w k : Nat) : Nat := w + 2 + 4 * k

def orderIdx (k frac origin : Nat) : Nat := (k * (frac + 2 ^ 24 - origin % 2 ^ 24)) % 2 ^ 24 / 4096

def Dev.order (d : Dev) (e : SlotDef) (m : Msg) : Dev :=
  let w := bankWordAt e.index (d.liveBank e)
  let d := d.putRun e.index fun r => { r with lastMsg := some m }
  if m.inv then d.bankCount (w + 1)
  else
    let late := e.group < 4 && m.a / 2 ^ 24 != (d.ring e.group).count
    let d := (d.bankCount w).when late fun d => d.bankCount (w + 14)
    d.each (List.range 3) fun d k =>
      let o := e.u8 (16 + k)
      if o = 0 then d
      else
        let i := orderIdx o (m.a % 2 ^ 24) (e.u32 20)
        let p := orderPlace w k
        let re := (satInt 64 (signedOf 64 (d.bank64 p) + m.v * orderCos i)).1
        let im := (satInt 64 (signedOf 64 (d.bank64 (p + 2)) + m.v * orderSin i)).1
        (d.putBank64 p (fieldOf 64 re)).putBank64 (p + 2) (fieldOf 64 im)

/-- The kind accepts the message's type (R241). -/
def kindAccepts (kind : Nat) (level : Bool) : Bool :=
  if kind = kindThresh ∨ kind = kindWstat ∨ kind = kindOrder then !level else 1 ≤ kind && kind ≤ 7

/-- The CCLK cycles of one application (R240). -/
def SlotDef.cycles (e : SlotDef) : Nat :=
  if e.kind = kindWstat then 8
  else if e.kind = kindOrder then 8 + 4 * ((List.range 3).filter fun k => e.u8 (16 + k) != 0).length else 6

/-- A slot applies a message (R241, R252). -/
def Dev.applyMsg (d : Dev) (m : Msg) : Dev :=
  match d.hubSlot m.slot with
  | none => d.bump HUB_ERR_TYPE_ERR
  | some e =>
    if !kindAccepts e.kind m.level then d.bump HUB_ERR_TYPE_ERR
    else if d.hub.slotsOff.contains e.index then d
    else if e.dropInvalid && m.inv then d
    else
      let d := d.putEngine e.engine fun x => { x with busy := x.busy + e.cycles }
      let d := if e.kind = kindWstat ∨ e.kind = kindOrder then d else d.countIn e m
      let d :=
        if e.kind = kindThresh then d.setLevel e (threshNext e (d.runOf e.index).out m.v) m
        else if e.kind = kindDebounce then d.debounce e m
        else if e.kind = kindCombine then d.combine e m
        else if e.kind = kindRate then d.rate e m
        else if e.kind = kindWstat then d.wstat e m
        else if e.kind = kindOrder then d.order e m
        else d.stream e m
      d.sendLink e 2 m

/-- The messages that wait for a full inbox go as far as there is room (R239). -/
def Dev.drainOut (d : Dev) (e : Nat) : Nat → Dev
  | 0 => d
  | n + 1 =>
    match (d.engine e).out with
    | [] => d
    | m :: ms => if d.inboxFull m then d else ((d.putEngine e fun x => { x with out := ms, stall := 0 }).deliverMsg m).drainOut e n

/-- R241: engine `e` applies the message at the head of its inbox, unless it is stalled. What the slot sends to slots of its own engine
comes before the messages that wait in the inbox. -/
def Dev.applyHead (d : Dev) (e : Nat) : Dev :=
  let d := d.drainOut e (d.engine e).out.length
  if !(d.engine e).out.isEmpty then d
  else
    match (d.engine e).inbox with
    | [] => d
    | m :: ms => ((d.putEngine e fun x => { x with inbox := [] }).applyMsg m).putEngine e fun x => { x with inbox := x.inbox ++ ms }

/-! ### Intake and stamps (R229 to R236) -/

def Dev.watchDef (d : Dev) (i : Nat) : Option WatchDef := d.reel.active.bind fun r => r.hub.watch[i]?
def WatchDef.en (w : WatchDef) : Bool := w.flags.testBit 0
def WatchDef.ring (w : WatchDef) : Nat := bitsOf w.flags 1 2
def WatchDef.signed (w : WatchDef) : Bool := w.flags.testBit 3
def WatchDef.raw (w : WatchDef) : Bool := w.flags.testBit 4
def WatchDef.rawQ (w : WatchDef) : Nat := bitsOf w.flags 5 6

/-- A tag channel or a wired one. -/
def tagChannel (ch : Nat) : Bool := ch < 0x40000

/-- The entries that name a channel, in entry order, with their numbers. -/
def Dev.watchers (d : Dev) (ch : Nat) : List (WatchDef × Nat) :=
  match d.reel.active with
  | none => []
  | some r => r.hub.watch.zipIdx.filter fun p => p.1.chan == ch

/-- Those that are fed. -/
def Dev.fedEntries (d : Dev) (ch : Nat) : List (WatchDef × Nat) :=
  (d.watchers ch).filter fun p => p.1.en && !d.hub.watchOff.contains p.2

/-- The scaled value of R231. -/
def Dev.scaled (d : Dev) (w : WatchDef) (i raw : Nat) : Int :=
  let x : Int := if w.signed then signedOf 16 raw else (raw % 65536 : Nat)
  let gain := signedOf 16 (d.rf (watchBase + 4 * i + 1) 0 16)
  let ofs := signedOf 16 (d.rf (watchBase + 4 * i + 1) 16 16)
  satSigned 16 ((x * gain + 0x2000) / 16384 + ofs)

/-- An angle stamp with its flags (R235). -/
structure AngleStamp where
  a : Nat
  est : Bool
  inv : Bool

def Dev.angleStamp (d : Dev) (ring : Option Nat) (t : Int) : AngleStamp :=
  match ring with
  | none => ⟨0, false, true⟩
  | some x =>
    if (d.ringDef x).isNone then ⟨0, false, true⟩
    else if !d.ringValid x then ⟨d.stamp x, false, true⟩
    else
      let r := d.ring x
      let back := (d.now : Int) - t
      let p := (r.phase.toNat : Int) - r.inc * back
      let hit := match r.disturbed with
        | none => false
        | some k => decide (t ≤ (k : Int)) && decide ((k : Int) ≤ d.now)
      if p < 0 then ⟨0, true, false⟩
      else ⟨(p.toNat % 2 ^ 80) / 65536, hit || decide (2 ^ 24 ≤ back.natAbs), false⟩

/-- The message that entry `i` sends for a sample (R233 to R236). -/
def Dev.sampleMsg (d : Dev) (s : Sample) (w : WatchDef) (i : Nat) : Msg :=
  let cen := fun k lo n => match s.entry with
    | some idx => d.rf (cenBase + 8 * idx + k) lo n
    | none => 0
  let lat : Int := if s.entry.isSome then signedOf 16 (cen 7 0 16) else signedOf 16 (d.rf (watchBase + 4 * i + 2) 16 16)
  let t := s.tick - lat
  let ring : Option Nat := if s.entry.isSome then some (cen 2 22 2) else some w.ring
  let st := d.angleStamp ring t
  let spOk := s.entry.isSome && cen 2 15 1 == 1 && !st.est && !st.inv
  { level := false, v := d.scaled w i s.raw, chan := s.chan, t := (t % 2 ^ 64).toNat, a := st.a, ring := ring.getD 0,
    est := st.est, inv := st.inv, sp := if spOk then some ((st.a + cen 4 0 24 + 256 * cen 7 16 16) % 2 ^ 24) else none,
    supp := 0, hops := 0, slot := bitsOf w.slot 0 10, port := 0 }

/-- The sample goes to one entry that it feeds. -/
def Dev.feed (d : Dev) (s : Sample) (w : WatchDef) (i : Nat) : Dev :=
  let m := d.sampleMsg s w i
  let d := d.wf (watchBase + 4 * i + 3) 0 16 (fieldOf 16 m.v)
  let d := d.when (w.raw && !tagChannel s.chan) fun d => d.pushRecord w.rawQ 4 (rawRecord s.chan s.raw m.t)
  d.deliverMsg m

/-- A poll entry's run gives its slot back (R305). -/
def Dev.endPoll (d : Dev) (p : Option Nat) : Dev :=
  match p with
  | none => d
  | some p =>
    match vget d.sbus.pollSlot p none with
    | none => d
    | some i => (d.inSbus fun s => { s with pollSlot := vupdN s.pollSlot p fun _ => none }).freeSlot i

/-- A sample stamped with a flag for an entry that it feeds is counted once (R253). -/
def Dev.countStamps (d : Dev) (s : Sample) (fed : List (WatchDef × Nat)) : Dev :=
  let ms := fed.map fun p => d.sampleMsg s p.1 p.2
  (d.when (ms.any Msg.est) fun d => d.bump HUB_ANGLE_EST).when (ms.any Msg.inv) fun d => d.bump HUB_ANGLE_INVALID

/-- The inboxes that a sample's messages go to have room for them. -/
def Dev.fedRoom (d : Dev) (s : Sample) (fed : List (WatchDef × Nat)) : Bool :=
  let goes := fed.map fun p => d.engineOf (d.sampleMsg s p.1 p.2)
  goes.all fun e => decide ((d.engine e).inbox.length + goes.count e ≤ 256)

/-- One sample taken from the intake buffer (R231, R232). It waits there for room in an inbox that it goes to. -/
def Dev.takeSample (d : Dev) : Dev :=
  match d.hub.intake with
  | [] => d
  | s :: rest =>
    let fed := d.fedEntries s.chan
    let popped := (d.inHub fun h => { h with intake := rest }).endPoll s.last
    if !d.flag HUB_CTRL_INTAKE_EN || fed.isEmpty then popped.bump HUB_INTAKE_UNWATCHED
    else if !d.fedRoom s fed then d
    else ((popped.inc HUB_SAMPLES_COUNT).countStamps s fed).each fed fun d p => d.feed s p.1 p.2

/-- Samples put into the intake buffer. -/
def Dev.intakePut (d : Dev) (l : List Sample) : Dev :=
  let d := d.inHub fun h => { h with intake := h.intake ++ l }
  d.high HUB_FIFO_PEAK 0 d.hub.intake.length

/-- A tag's DATA block offered whole: `false` where the buffer cannot hold it (R232). -/
def Dev.offerBlock (d : Dev) (l : List Sample) : Bool × Dev :=
  if 512 < d.hub.intake.length + l.length then (false, d.bump HUB_INTAKE_DEFER) else (true, d.intakePut l)

/-- A wired sample: dropped where the buffer is full (R232). -/
def Dev.offerWired (d : Dev) (s : Sample) : Dev :=
  if d.hub.intake.length < 512 then d.intakePut [s]
  else
    ((d.endPoll s.last).bump HUB_INTAKE_WIRED_DROP).each (d.watchers s.chan) fun d p =>
      let w := watchBase + 4 * p.2 + 3
      d.wf w 16 16 (satAdd 16 (d.rf w 16 16) 1)

/-! ### Latches (R101, R241, R244 to R246) -/

/-- The slots of a group, ascending. -/
def Dev.groupSlots (d : Dev) (g : Nat) : List SlotDef :=
  match d.reel.active with
  | none => []
  | some r => sortBy (fun a b => decide (a.index < b.index)) (r.hub.slots.filter fun e => e.group == g)

/-- The amplitude of R242, between whole numbers rounded either way. -/
def Dev.orderAmp (d : Dev) (re im : Int) (count : Nat) : Nat × Dev :=
  let x := 4 * (re * re + im * im).toNat
  let c := count * 32767
  let r := isqrt (x / (c * c))
  if r * r * (c * c) = x then (r, d)
  else
    let (v, d) := d.freeVal
    (r + v % 2, d)

/-- The value that a WSTAT or ORDER slot sends for its latched bank. -/
def Dev.latchValue (d : Dev) (e : SlotDef) (w : Nat) : Option Int × Dev :=
  let n := d.rw w
  if n = 0 then (none, d)
  else if e.kind = kindWstat then
    let o := e.u8 16
    if o = 1 then
      let (v, d) := d.roundOpen (signedOf 64 (d.bank64 (w + 2))) n
      (some v, d)
    else if o = 2 then (some (signedOf 16 (d.rf (w + 1) 0 16)), d)
    else if o = 3 then (some (signedOf 16 (d.rf (w + 1) 16 16)), d)
    else if o = 4 then (some (min 32767 (isqrt (d.bank64 (w + 4) / n)) : Nat), d)
    else (none, d)
  else if e.kind = kindOrder then
    let o := e.u8 19
    if 1 ≤ o ∧ o ≤ 3 then
      let p := orderPlace w (o - 1)
      let (v, d) := d.orderAmp (signedOf 64 (d.bank64 p)) (signedOf 64 (d.bank64 (p + 2))) n
      (some (satSigned 16 (v : Int)), d)
    else (none, d)
  else (none, d)

/-- The words of the latched bank of a slot that becomes live, kept for the reads of R102: for the present H2 read, and for
single reads in the boundary cycle. -/
def Dev.keepOld (d : Dev) (e : SlotDef) (bank : Nat) : Dev :=
  let key := 2 * e.index + bank
  let ws := (List.range 16).map fun i => d.rw (bankWordAt e.index bank + i)
  let put := fun (l : List (Nat × List Nat)) => if (assocGet key l).isSome then l else (key, ws) :: l
  let cyc := d.cycle
  d.inHub fun h => { h with old := put h.old, nowOld := put (if h.nowCycle = cyc then h.nowOld else []), nowCycle := cyc }

/-- R101 for one slot: the banks switch, and its interval's message goes out. -/
def Dev.latchSlot (d : Dev) (e : SlotDef) (g t a : Nat) : Dev :=
  let live := d.liveBank e
  let latched := 1 - live
  let d := d.keepOld e live
  let d := d.freshBank e live
  let (v, d) := d.latchValue e (bankWordAt e.index latched)
  match v, (d.runOf e.index).lastMsg with
  | some v, some m =>
    d.output e { m with v := v, t := t, a := a, ring := if g < 4 then g else m.ring, est := false, inv := false, sp := none,
                        supp := 0, hops := 0 }
  | _, _ => d

/-- A group's boundary cycle (R101, R244). -/
def Dev.latchGroup (d : Dev) (g a : Nat) : Dev :=
  let d := if g < 4 then d.inc RING_SEQ_REV_SEQ g else if g = 4 then d.inc TEMPO_LATCH_SEQ_PERIOD_SEQ else d.inc TEMPO_LATCH_SEQ_DAY_SEQ
  if !d.domOn domHub then d
  else
  let d := d.p HUB_BANKSEL_LATCHED 0 (d.g HUB_BANKSEL_LATCHED ^^^ 2 ^ g)
  let t := d.now
  let d := d.inHub fun h => { h with latchT := vupdN h.latchT g fun _ => t, latchA := vupdN h.latchA g fun _ => a }
  d.each (d.groupSlots g) fun d e => d.latchSlot e g t a

/-- The latch sequence number of a group. -/
def Dev.latchSeq (d : Dev) (g : Nat) : Nat :=
  if g < 4 then d.g RING_SEQ_REV_SEQ g else if g = 4 then d.g TEMPO_LATCH_SEQ_PERIOD_SEQ else d.g TEMPO_LATCH_SEQ_DAY_SEQ

/-- The LATCH record of a slot (R247). -/
def Dev.latchRecord (d : Dev) (e : SlotDef) (g : Nat) : List Nat :=
  let t := vget d.hub.latchT g 0
  let a := if g < 4 then vget d.hub.latchA g 0 else 0
  let w := bankWordAt e.index (1 - d.liveBank e)
  [recordHeader 0x30 22 e.index, e.tagWord, inField 0 3 g + inField 8 8 e.kind + inField 16 16 (d.latchSeq g), lo32 t, hi32 t, lo32 a, hi32 a]
    ++ (List.range 16).map fun i => d.rw (w + i)

def Dev.pushLatches (d : Dev) (g : Nat) : Dev :=
  d.each ((d.groupSlots g).filter SlotDef.recLatch) fun d e => d.pushRecord e.queue 0 (d.latchRecord e g)

/-! ### The graph of a new Reel (R45, R230, R252) -/

/-- The hub at a Reel's activation. -/
def Dev.setHub (d : Dev) (old : Option HubDef) (new : HubDef) : Dev :=
  let oldWatch := (old.map (·.watch)).getD []
  let oldSlots := (old.map (·.slots)).getD []
  let d := d.each new.watch.zipIdx fun d p =>
    let w := watchBase + 4 * p.2
    if oldWatch[p.2]? = some p.1 then d
    else d.wws w [inField 0 19 p.1.chan + inField 19 10 p.1.slot, 0x4000, inField 0 16 p.1.flags, 0]
  let changed := new.slots.filter fun e => !oldSlots.contains e
  let gone := (oldSlots.filter fun e => !new.slots.contains e).map (·.index)
  let fresh := changed.map (·.index) ++ gone
  let d := d.each changed fun d e =>
    let d := d.wws (slotBase + 16 * e.index) (wordsOf e.cfg)
    (d.freshBank e 0).freshBank e 1
  let lost := (d.hub.engines.toList.map fun x => ((x.inbox ++ x.out).filter fun m => fresh.contains m.slot).length).sum
  let d := d.bump HUB_ERR_SWAP_DROP 0 lost
  let d := d.inHub fun h =>
    { h with run := h.run.filter fun p => !fresh.contains p.1
             slotsOff := [], watchOff := []
             engines := vmap (fun _ x => { x with inbox := x.inbox.filter fun m => !fresh.contains m.slot
                                                  out := x.out.filter fun m => !fresh.contains m.slot }) h.engines }
  ((d.p HUB_STATUS_WATCHED 0 new.watch.length).p HUB_STATUS_SLOTS 0 new.slots.length).p HUB_STATUS_ENGINES 0 new.mask

/-! ### The commands -/

def execSampleIntake (s : State) : Out State := effect s fun d => d.takeSample.settlePool

def execMessageApply (e : Engine) (s : State) : Out State := effect s fun d => (d.applyHead e).settlePool

/-- R239: the stalled engine discards the message that waits; the next one begins a stall of its own. -/
def execStallDrop (e : Engine) (s : State) : Out State :=
  effect s fun d =>
    match (d.engine e).out with
    | [] => d
    | _ :: ms => (d.bump HUB_ENG_STALL_DROP e).putEngine e fun x => { x with out := ms, stall := 0 }

/-- R241: a RATE bucket gains a token, REFILL ticks after the last. -/
def execRateRefill (n : Fin 1024) (s : State) : Out State :=
  effect s fun d =>
    match d.hubSlot n with
    | none => d
    | some e =>
      let r := d.runOf n
      let due := r.refill + max 1 (e.u32 20)
      if e.kind = kindRate ∧ 0 < r.taken ∧ due ≤ d.now then d.putRun n fun r => { r with taken := r.taken - 1, refill := due } else d

/-- R247: the LATCH records of a boundary, in ascending slot order. -/
def execLatchRecords (g : Fin 6) (s : State) : Out State := effect s fun d => (d.pushLatches g).settlePool

end Sys2Proof.Machine
end

