-- ==== Sys2Proof/Machine/Vault.lean ====
section
/-!
DEFINITION. The Vault: key slots, authentication and wipes (14_dependability_longevity.md R366 to R369, R371, R375;
05_jenuri_air.md R136, R137).
-/

-- One declaration after another: the package is compiled as one text under a memory limit.
set_option Elab.async false

namespace Sys2Proof.Machine

/-- Life-cycle state (R371): 0 BLANK, 1 MAKE, 2 FIELD, 3 RETURN. -/
def Fuses.lifeCycle (f : Fuses) : Nat := if f.ret ≠ 0 then 3 else if f.field ≠ 0 then 2 else if f.make ≠ 0 then 1 else 0

/-- The Vault is enabled in MAKE and FIELD (R371). -/
def Dev.vaultEnabled (d : Dev) : Bool := d.fuses.lifeCycle == 1 || d.fuses.lifeCycle == 2

def emptyKey : KeySlot := { active := none, staged := none, tenants := 0, tam := false, mam := false, uses := 0, intact := true }

/-- Slot `i`; an empty one is not listed. -/
def Dev.keySlot (d : Dev) (i : Nat) : KeySlot := (assocGet i d.vault.slots).getD emptyKey

def Dev.putKey (d : Dev) (i : Nat) (s : KeySlot) : Dev := d.inVault fun v => { v with slots := assocPut i s v.slots }
def Dev.zeroKey (d : Dev) (i : Nat) : Dev := d.inVault fun v => { v with slots := assocDel i v.slots }

def KeySlot.holds (s : KeySlot) : Bool := s.active.isSome || s.staged.isSome

/-- The 16 key bytes of VAULT_KEY_DATA, the first in [31:24] of the first word (R375). -/
def Dev.keyData (d : Dev) : BitVec 128 := BitVec.ofNat 128 (d.vault.data.toList.foldl (fun n w => n * 2 ^ 32 + w.toNat) 0)

/-- The key check value: the first three bytes of the encryption of a zero block, first byte in [23:16] (R367). -/
def keyCheck (k : BitVec 128) : Nat := beNat ((aesEncrypt (beBytes 16 k.toNat) (List.replicate 16 0)).take 3)

/-- LOAD (R367). -/
def Dev.loadKey (d : Dev) : Dev :=
  if !d.vaultEnabled then d
  else
    let i := d.g VAULT_KEY_SEL_KEYID
    let s := d.keySlot i
    let s := { s with tenants := d.g VAULT_KEY_SEL_TENANTS, tam := d.flag VAULT_KEY_SEL_TAM, mam := d.flag VAULT_KEY_SEL_MAM, intact := true }
    d.putKey i (if d.flag VAULT_KEY_SEL_STAGED then { s with staged := some d.keyData } else { s with active := some d.keyData })

/-- PROMOTE (R367); without a staged key it has nothing to make active. -/
def Dev.promoteKey (d : Dev) : Dev :=
  let i := d.g VAULT_KEY_SEL_KEYID
  let s := d.keySlot i
  if d.vaultEnabled && s.staged.isSome then d.putKey i { s with active := s.staged, staged := none } else d

/-- ERASE (R367). -/
def Dev.eraseKey (d : Dev) : Dev := if d.vaultEnabled then d.zeroKey (d.g VAULT_KEY_SEL_KEYID) else d

/-- A wipe of the Vault (R369): the number of key slots wiped. Authentications in progress end; their tags stay ASSIGNED. -/
def Dev.wipeVault (d : Dev) : Nat × Dev :=
  if d.domOn domVault then
    let n := (d.vault.slots.filter fun s => s.2.holds).length
    (n, ({ d with vault := resetDev.vault }.set1 VAULT_STATUS_WIPED).inAir fun a => { a with auths := [] })
  else (0, d)

/-! ### Authentication (R136, R137, R366, R367) -/

/-- The KeyID of a TAM1 or MAM1 message: its second byte, as ISO/IEC 29167-10 lays the message out (PRESUMED). -/
def messageKey (message : List Byte) : Nat := leAt message 1 1

/-- The Vault asked for message `msg` of an authentication with the tag at `sa`, for a Step of tenant `t`: whether it may be
sent, and the block after it. -/
def Dev.askVault (d : Dev) (t sa msg : Nat) (message : List Byte) : Bool × Dev :=
  let run := d.air.auths.find? fun x => x.sa == sa && x.msg == 2
  let key := if msg = 3 then run.map (·.key) else some (messageKey message)
  match key with
  | none => (false, d)
  | some i =>
    if !d.domTakes domVault || !d.vaultEnabled then (false, d)
    else
      let s := d.keySlot i
      let start := msg == 1 || msg == 2
      if !s.intact then (false, (d.zeroKey i).bump VAULT_CNT_MISSES)
      else if s.active.isNone then (false, d.bump VAULT_CNT_MISSES)
      else if !s.tenants.testBit t || !(if msg = 1 then s.tam else s.mam) then (false, d)
      else
        let d := d.when start fun d => (d.inc VAULT_CNT_AUTH).putKey i { s with uses := s.uses + 1 }
        (true, (d.endAuth sa).inAir fun a => { a with auths := a.auths ++ [{ sa := sa, key := i, msg := msg, message := message }] })

/-- The tag at `sa` enters SECURE (R137). -/
def Dev.tagSecure (d : Dev) (ring sa : Nat) : Dev :=
  d.inAir fun a =>
    { a with tags := a.tags.map fun t => if t.kind.ring.val = ring ∧ t.sa = sa ∧ t.mode = .assigned then { t with mode := .secure } else t }

/-- The bytes of an AUTH reply's payload (R122). -/
def authBytes (payload : List Half) : List Byte :=
  (((payload.drop 1).flatMap fun w => beBytes 2 w.toNat)).take ((payload.getD 0 0).toNat % 256)

/-- What an OK AUTH reply says of the authentication in progress: none, valid or not. -/
def Dev.authVerdict (d : Dev) (sa : Nat) (payload : List Half) : Option (AuthRun × Bool) :=
  (d.air.auths.find? fun x => x.sa == sa && x.msg == (payload.getD 0 0).toNat / 256).map fun x =>
    (x, match (d.keySlot x.key).active with
      | some k => Config.authValid k x.msg x.message (authBytes payload)
      | none => false)

end Sys2Proof.Machine
end

