-- ==== Sys2Proof/Machine/Census.lean ====
section
/-!
DEFINITION. The tag census: entries, short addresses, the resolution of frames and the learning of positions (07_census.md).
-/

-- One declaration after another: the package is compiled as one text under a memory limit.
set_option Elab.async false

namespace Sys2Proof.Machine

/-! ### Entries (R178) -/

/-- The entry of a UID, in any state but FREE. -/
def Dev.uidEntry (d : Dev) (uid : Nat) : Option Nat := entries.find? fun i => d.entState i != stFree && d.entUid i == uid

def Dev.countState (d : Dev) (p : Nat → Bool) : Nat := (entries.filter fun i => p (d.entState i)).length

/-- The lowest free short address of a ring's range (R180). -/
def Dev.freeSa (d : Dev) (x : Nat) : Option Nat :=
  let first := d.g CENSUS_RING_SA_FIRST x
  (List.range (d.g CENSUS_RING_SA_LAST x + 1 - first)).map (· + first) |>.find? fun sa => (d.holder sa).isNone

/-- A FREE entry, which one is the census's own. -/
def Dev.freeEntryOf (d : Dev) : Option Nat × Dev :=
  let l := entries.filter fun i => d.entState i == stFree
  if l.isEmpty then (none, d)
  else
    let (v, d) := d.freeVal
    (l[v % l.length]?, d)

/-- The slot kept for a short address, which no program has adopted (R215). -/
def Dev.keptFor (d : Dev) (sa : Nat) : Option Nat := (d.slotsWhere fun x => x.caller == none && (x.kept.map (·.sa)) == some sa).head?

/-- A kept slot released by the device (R215). -/
def Dev.dropKept (d : Dev) (i : Nat) : Dev :=
  (d.updSlot i fun x => { x with kept := none, bound := none, caller := none, rel := true }).trySlotRelease i

/-- The slot kept for `sa`, if one is, released by the device. -/
def Dev.dropKeptFor (d : Dev) (sa : Nat) : Dev :=
  match d.keptFor sa with
  | some k => d.dropKept k
  | none => d

/-- R134: the entry that holds `sa` is marked. -/
def Dev.markUnresolved (d : Dev) (sa : Nat) : Dev :=
  match d.holder sa with
  | none => d.set1 CENSUS_EVENTS_WRITE_UNRESOLVED
  | some i => (d.putCe i 3 22 1 1).set1 CENSUS_EVENTS_WRITE_UNRESOLVED

/-! ### Passes (R182, R192) -/

def Dev.missLimit (d : Dev) : Nat := max 1 (d.g CENSUS_MISS_MISS_LIMIT)

/-- A pass of the tag at `sa` ends with NO_REPLY. -/
def Dev.missPass (d : Dev) (sa : Nat) : Dev :=
  match d.holder sa with
  | none => d
  | some i =>
    let m := satAdd 4 (d.ce i 3 28 4) 1
    let d := d.putCe i 3 28 4 m
    if d.entState i = stActive ∧ d.missLimit ≤ m then (d.putState i stLost).set1 CENSUS_EVENTS_LOST else d

/-- An OK frame of an entry. -/
def Dev.hitPass (d : Dev) (i : Nat) : Dev :=
  (d.putCe i 3 28 4 0).when (d.entState i == stLost) fun d => d.putState i stActive

/-! ### Frames (R85, R191, R193) -/

/-- An OK frame as the lane hands it on (R174). -/
structure Heard where
  ring : Nat
  sa : Nat
  ty : Nat
  payload : List Half
  /-- The tick of its first preamble symbol. -/
  first : Nat
  crossings : List Crossing
  genMis : Bool

/-- The stator point of a seam: the forward end of the segment's effective window (R73, R160). -/
def Dev.seamPoint (d : Dev) (n : Nat) : Nat := d.g SEG_WIN_END_FRACTION n

/-- The way from angle `a` to the next angle at which REF_TAG or a trusted tag of the ring reaches a seam (R83). -/
def Dev.transitRoom (d : Dev) (x a : Nat) (rev : Bool) : Option Nat :=
  let tags := entries.filter fun i => holdsSa (d.entState i) && d.entRing i == x && (d.entRef i || d.entTrusted i)
  let seams := ((d.ringDef x).map RingDef.segs).getD [] |>.filter fun n => !d.segIsRetired n
  let ways := tags.flatMap fun i => seams.map fun n =>
    let w := wayFrom rev a (((d.seamPoint n + 2 ^ 24 - d.entPos i) % 2 ^ 24) * 65536)
    if w = 0 then turn40 else w
  match ways with
  | [] => none
  | w :: ws => some (ws.foldl min w)

/-- R85: a crossing taken as a transit mark, at its own tick. -/
def Dev.transit (d : Dev) (x i : Nat) (c : Crossing) : Dev :=
  let a := ((d.seamPoint c.seam + 2 ^ 24 - d.entPos i) % 2 ^ 24) * 65536
  d.transitMark x a c.tick c.backward (d.transitRoom x a c.backward)

/-- d / 4 rounded towards zero. -/
def quarter (v : Int) : Int := if 0 ≤ v then v / 4 else -(-v / 4)

/-- R193: a crossing updates the entry's position. -/
def Dev.learnPos (d : Dev) (x i : Nat) (c : Crossing) : Dev :=
  if !(d.ringValid x && !d.flag RING_STATUS_PROVISIONAL x) || d.entRef i then d
  else
    let phi := (d.angleStamp (some x) c.tick).a % 2 ^ 24
    let ps := (d.seamPoint c.seam + 2 ^ 24 - phi) % 2 ^ 24
    let dd := signedOf 24 ((ps + 2 ^ 24 - d.entPos i) % 2 ^ 24)
    if dd.natAbs ≤ 16 * d.g CENSUS_POS_TOL then
      let n := satAdd 4 (d.ce i 3 24 4) 1
      let trusted := d.entTrusted i
      let d := if trusted then d else d.putCe i 4 0 24 (((d.entPos i : Int) + quarter dd) % 2 ^ 24).toNat
      let d := d.putCe i 3 24 4 n
      if !trusted && max 1 (d.g CENSUS_POS_POS_N) ≤ n then (d.putCe i 2 15 1 1).set1 CENSUS_EVENTS_POS_TRUSTED else d
    else ((d.putCe i 4 0 24 ps).putCe i 3 24 4 0).putCe i 2 15 1 0

/-- The last accepted block number of a short address, 0xFF when none (R123). -/
def Dev.lastBseq (d : Dev) (sa : Nat) : Nat := (assocGet sa d.cen.bseq).getD 0xFF

/-- The samples of a DATA block (R233): `vs` in NSET sets of the channels in `chans`. -/
def blockSamples (i sa first age spacing nset : Nat) (chans : List Nat) (vs : List Half) : List Sample :=
  ((chunks chans.length vs).zipIdx).flatMap fun p =>
    (chans.zip p.1).map fun q =>
      { chan := 64 * sa + q.1, raw := q.2.toNat, entry := some i,
        tick := (first : Int) - (32 * (age + (nset - 1 - p.2) * spacing) : Nat) }

/-- A DATA frame of an ACTIVE entry: `true` where its block was already accepted (R123, R191, R232). -/
def Dev.takeBlock (d : Dev) (i : Nat) (f : Heard) : Bool × Dev :=
  let h := fun k => (f.payload.getD k 0).toNat
  let bseq := bitsOf (h 0) 8 8
  let nset := bitsOf (h 0) 4 4
  let chans := bitList 64 (d.entMask i)
  let ahead := (bseq + 256 - d.lastBseq f.sa) % 256
  if !(1 ≤ ahead && ahead ≤ 127) then (true, d)
  else if f.payload.length < 3 || f.payload.length - 3 != nset * chans.length then (false, d.bump CENSUS_ERR_B_PLAN_MISMATCH)
  else
    match d.offerBlock (blockSamples i f.sa f.first (h 1) (h 2) nset chans (f.payload.drop 3)) with
    | (true, d) => (false, d.inCen fun c => { c with bseq := assocPut f.sa bseq c.bseq })
    | (false, d) => (false, d)

/-- The code of the command that carries out a step of a write (R114). -/
def WriteStep.cmd (s : WriteStep) : Nat :=
  match s with
  | .prepare => 0x12
  | .commit => 0x13
  | .confirm => 0x14

/-- What a reply does to the write that the tag of its SA has in progress: CONFIRMED settles it by W0, and a NAK of the step sent last
leaves the old data (R132 to R134). -/
def WriteRec.reply (w : WriteRec) (ty : Nat) (payload : List Half) : WriteRec :=
  let w := { w with last := some ty }
  let w0 := (payload.getD 0 0).toNat
  if ty = tyConfirmed then { w with outcome := some (if w0 % 2 = 1 then .done else .none), retry := false, passes := 0 }
  else if ty = tyNak ∧ w.outcome = none ∧ w.step ≠ .confirm ∧ w0 / 256 = w.step.cmd then { w with outcome := some .none }
  else w

/-- The slot kept for a write whose outcome is no longer W_UNKNOWN is released (R133, R134). -/
def Dev.releaseWrite (d : Dev) (sa : Nat) : Dev :=
  if d.air.writes.any fun w => w.sa == sa && (w.outcome == some .none || w.outcome == some .done) then d.dropKeptFor sa else d

/-- A reply at a short address settles its write; W_UNKNOWN waits for CONFIRMED. -/
def Dev.writeReply (d : Dev) (f : Heard) : Dev :=
  (d.inAir fun a => { a with writes := a.writes.map fun w => if w.sa = f.sa then w.reply f.ty f.payload else w }).releaseWrite f.sa

/-- A reply window of the tag at `sa` closes empty, or its drive is lost: a field collapse for its write and its authentication, which
ends SECURE (R133, R137). -/
def Dev.tagCollapse (d : Dev) (x sa : Nat) : Dev :=
  let d := (d.airCollapse sa).inAir fun a =>
    { a with tags := a.tags.map fun t => if t.assigned && t.sa == sa && t.kind.ring.val == x then t.endSecure else t }
  d.releaseWrite sa

/-- A failed authentication, charged against the entry (R137). -/
def Dev.chargeAuth (d : Dev) (i sa : Nat) : Dev := (d.putCe i 3 18 4 (satAdd 4 (d.ce i 3 18 4) 1)).endAuth sa

/-- An AUTH reply, or the NAK AUTH_FAIL of one (R137). -/
def Dev.authReply (d : Dev) (i : Nat) (f : Heard) : Dev :=
  if f.ty = tyNak ∧ (f.payload.getD 0 0).toNat = 0x2000 + nakAuth ∧ d.air.auths.any (fun x => x.sa == f.sa) then d.chargeAuth i f.sa
  else if f.ty = tyAuth then
    match d.authVerdict f.sa f.payload with
    | none => d
    | some (_, false) => d.chargeAuth i f.sa
    | some (x, true) => if x.msg = 3 then (d.endAuth f.sa).tagSecure f.ring f.sa else if x.msg = 1 then d.endAuth f.sa else d
  else d

/-- R191: an OK frame resolved. `true`: DUP_BLOCK. -/
def Dev.resolveFrame (d : Dev) (f : Heard) : Bool × Dev :=
  if f.ty = tyUid then (false, d)
  else
    match d.holder f.sa with
    | none => (false, d.bump CENSUS_ERR_A_UNKNOWN_SA)
    | some i =>
      let st := d.entState i
      let cross := d.entRing i != f.ring
      let marks := !cross && (d.entRef i || d.entTrusted i)
      let d := d.when cross fun d => d.bump CENSUS_ERR_A_CROSS_RING
      let d := d.when f.genMis fun d => d.joinEntry { idx := i, plan := none, regen := true }
      let d := (d.writeReply f).authReply i f
      let ordered := sortBy (fun (a b : Crossing) => decide (a.tick < b.tick)) f.crossings
      let d := d.when marks fun d => d.each ordered fun d c => d.transit f.ring i c
      let d := d.hitPass i
      let d := d.when (st == stRetiring && f.ty == tyAck && (f.payload.getD 0 0).toNat / 256 == 5) fun d => d.putState i stRetired
      if st = stActive ∨ st = stLost then
        let d := d.when (!cross && st == stActive) fun d => d.each ordered fun d c => d.learnPos f.ring i c
        let d := d.when (f.ty == tyConfirmed) fun d =>
          let n := (f.payload.getD 1 0).toNat * 65536 + (f.payload.getD 2 0).toNat
          d.putCe i 4 24 8 (min 255 (n / 4096))
        if f.ty = tyData then d.takeBlock i f else (false, d)
      else (false, d)

/-! ### Commands on entries (R179, R180, R185, R200) -/

def Dev.cmdRefused (d : Dev) : Dev := d.set1 CENSUS_EVENTS_CMD_REFUSED

/-- Whether a job holds entry commands back (R185, R200). -/
def Dev.jobRuns (d : Dev) : Bool := d.cen.job.isSome

/-- A RETIRE or FREE of entry `i`: FORCE releases a slot kept for its SA at once, and what else holds the command back delays it
(R200). -/
def Dev.entryCommand (d : Dev) (i : Nat) (isFree force : Bool) : Dev :=
  let sa := d.entSa i
  let d := d.when (force && holdsSa (d.entState i) && (d.keptFor sa).isSome) fun d => (d.dropKeptFor sa).markUnresolved sa
  if d.heldBack i then d.inCen fun c => { c with held := c.held.filter (fun h => h.1 != i) ++ [(i, isFree, force)] }
  else if isFree then d.freeEntry i else d.retireNow i

/-- R185, RETIRE. -/
def Dev.retireCmd (d : Dev) (sa : Nat) (force : Bool) : Dev :=
  match entries.find? fun i => (d.entState i == stCandidate || d.entState i == stActive || d.entState i == stLost) && d.entSa i == sa with
  | none => d.cmdRefused
  | some i => d.entryCommand i false force

/-- R185, FREE. -/
def Dev.freeCmd (d : Dev) (i : Nat) (force : Bool) : Dev :=
  if 8191 < i then d.cmdRefused
  else
    let st := d.entState i
    if st = stRetired ∨ st = stDuplicate ∨ (st = stRetiring ∧ force = true) then d.entryCommand i true force else d.cmdRefused

/-- R185, SETPLAN. -/
def Dev.setplanCmd (d : Dev) (sa plan : Nat) : Dev :=
  match entries.find? fun i => (d.entState i == stCandidate || d.entState i == stActive || d.entState i == stLost) && d.entSa i == sa with
  | none => d.cmdRefused
  | some i => d.joinEntry { idx := i, plan := some plan, regen := false }

/-- R180: the range of ring `x` written. -/
def Dev.writeRange (d : Dev) (x first last : Nat) : Dev :=
  let meets := (List.range 4).any fun y => y != x && decide (first ≤ d.g CENSUS_RING_SA_LAST y) && decide (d.g CENSUS_RING_SA_FIRST y ≤ last)
  if last < first || meets then d.set1 CENSUS_EVENTS_RANGE_ERR
  else (d.p CENSUS_RING_SA_FIRST x first).p CENSUS_RING_SA_LAST x last

/-- R200: an uncorrectable error in an entry. -/
def Dev.loseEntry (d : Dev) (i : Nat) : Dev :=
  let sa := d.entSa i
  let was := holdsSa (d.entState i)
  let d := d.inCen fun c =>
    { c with scanAdd := if was then c.scanAdd.filter (fun q => q.2 != sa) ++ [(d.entRing i, sa)] else c.scanAdd, held := c.held.filter fun h => h.1 != i }
  (d.when was fun d => d.dropKeptFor sa).freeEntry i

/-! ### The commands -/

def execRetire (t : Tenant) (sa : BitVec 12) (force : Bool) (s : State) : Out State :=
  effect s fun d => d.hostWrite t 0x1100 fun d => d.retireCmd sa.toNat force

def execFree (t : Tenant) (idx : BitVec 13) (force : Bool) (s : State) : Out State :=
  effect s fun d => d.hostWrite t 0x1100 fun d => d.freeCmd idx.toNat force

def execSetplan (t : Tenant) (sa : BitVec 12) (plan : BitVec 4) (s : State) : Out State :=
  effect s fun d => d.hostWrite t 0x1100 fun d => d.setplanCmd sa.toNat plan.toNat

def execCensusRingSa (t : Tenant) (r : Ring) (first last : BitVec 12) (s : State) : Out State :=
  effect s fun d => d.hostWrite t (0x1109 + r) fun d => d.writeRange r first.toNat last.toNat

def execCensusLookup (t : Tenant) (sa : BitVec 12) (s : State) : Out State :=
  effect s fun d => d.hostWrite t 0x1110 fun d => d.p CENSUS_LOOKUP_SA 0 sa.toNat

/-- Passes of the tag at `sa` that ended with its write W_UNKNOWN and no CONFIRMED, CONFIRM sent again or not (R134). -/
def Dev.unknownPasses (d : Dev) (sa : Nat) : Nat :=
  ((d.air.writes.find? fun w => w.sa == sa && w.outcome == some .unknown).map (·.passes)).getD 0

/-- R134: 16 passes brought no CONFIRMED. -/
def execWriteUnresolved (sa : BitVec 12) (s : State) : Out State :=
  effect s fun d =>
    match d.keptFor sa.toNat with
    | none => d
    | some i =>
      if 16 ≤ max ((((d.slot i).bind (·.kept)).map (·.passes)).getD 0) (d.unknownPasses sa.toNat) then
        ((d.dropKept i).markUnresolved sa.toNat).settleHeld
      else d

/-- The field at a tag collapses (R124, R132, R133, R137). -/
def execFieldCollapse (uid : BitVec 64) (s : State) : Out State :=
  effect s fun d =>
    match d.air.tags.find? fun t => t.kind.uid == uid with
    | none => d
    | some t =>
      let d := d.inAir fun a =>
        { a with
          tags := a.tags.map fun x => if x.kind.uid = uid then x.loseField else x
          replies := a.replies.filter fun r => r.uid != uid.toNat }
      d.when t.assigned fun d => (d.airCollapse t.sa).releaseWrite t.sa

end Sys2Proof.Machine
end

