-- ==== Sys2Proof/Machine/Chain.lean ====
section
/-!
DEFINITION. The signal chain of a receive lane: converters, subcarrier mix, symbols, combining, tracking, qualification and soft
bits (06_receive_decode.md R141 to R161, R175). Every step is exact but for the whole numbers that the converter gives and the
correction by a frequency offset (notes/assumptions/127.md).
-/

-- One declaration after another: the package is compiled as one text under a memory limit.
set_option Elab.async false

namespace Sys2Proof.Machine

end Sys2Proof.Machine

namespace Sys2Proof

/-! ### Complex numbers -/

def Cplx.add (a b : Cplx) : Cplx := ⟨a.re + b.re, a.im + b.im⟩
def Cplx.smul (k : Int) (a : Cplx) : Cplx := ⟨k * a.re, k * a.im⟩
/-- a · conj(b). -/
def Cplx.mulConj (a b : Cplx) : Cplx := ⟨a.re * b.re + a.im * b.im, a.im * b.re - a.re * b.im⟩
def Cplx.norm2 (a : Cplx) : Nat := (a.re * a.re + a.im * a.im).toNat

end Sys2Proof

namespace Sys2Proof.Machine

def cplx0 : Cplx := ⟨0, 0⟩
def sumCplx (l : List Cplx) : Cplx := l.foldl Cplx.add cplx0
def prodNat (l : List Nat) : Nat := l.foldl (· * ·) 1

/-! ### Converters (R141, R143, R144) -/

/-- What a channel's converter works with: the cosine and sine of θ, and the carrier copy that it subtracts, times 255. -/
structure Adc where
  cosθ : Int
  sinθ : Int
  copy : Cplx

/-- A 12-bit conversion of num / (255 · 2⁶⁰), and whether it lies at an end of the range. -/
def convert (num : Int) : Int × Nat :=
  let v := clampInt (-2048) 2047 (roundDiv num (255 * 2 ^ 60))
  (v, flagOf (v == -2048 || v == 2047))

/-- I at carrier phase θ and Q at θ + 90 °c, after the carrier copy has been subtracted, with the samples that clip. -/
def Adc.sample (x : Adc) (z : Cplx) : Cplx × Nat :=
  let i := convert (255 * (z.re * x.cosθ + z.im * x.sinθ) - x.copy.re * trigOne)
  let q := convert (255 * (z.im * x.cosθ - z.re * x.sinθ) - x.copy.im * trigOne)
  (⟨i.1, q.1⟩, i.2 + q.2)

/-! ### Subcarrier and symbols (R149, stages 1 to 4) -/

/-- The carrier cycles of a subcarrier period: fc/16 or fc/8 (R105). -/
def subPeriod (fc16 : Bool) : Nat := if fc16 then 16 else 8
/-- The carrier cycles of a symbol. -/
def symCycles (fc16 : Bool) : Nat := 2 * subPeriod fc16

/-- The subcarrier reference in carrier cycle `k`: the tag's square wave, in phase and in quadrature (R110). -/
def subRef (p k : Nat) : Cplx := ⟨if k % p < p / 2 then 1 else -1, if (k + p - p / 4) % p < p / 2 then 1 else -1⟩

/-- A value turned back by the offset's phase at carrier cycle `t` of the packet (R175). -/
def unspin (off : Int) (t : Nat) (z : Cplx) : Cplx :=
  if off = 0 then z
  else
    let c := cosPi (2 * off.natAbs * t) 13560000
    let s := sinPi (2 * off.natAbs * t) 13560000
    let s := if off < 0 then -s else s
    ⟨roundDiv (z.re * c + z.im * s) (2 ^ 60), roundDiv (z.im * c - z.re * s) (2 ^ 60)⟩

/-- One symbol of a branch in units of 1/64 converter unit: its samples less the residue, mixed, corrected and added up. -/
def symbolOf (p : Nat) (off : Int) (t0 : Nat) (resid : Cplx) (xs : List Cplx) : Cplx :=
  sumCplx (xs.zipIdx.map fun x =>
    unspin off (t0 + x.2) (((Cplx.smul 64 x.1).add (Cplx.smul (-1) resid)).mulConj (subRef p x.2)))

/-- The symbols of some branches: for each symbol a value and a count of clipped samples a branch. `n0` symbols came before. -/
def symbolsOf (fc16 : Bool) (off : Int) (n0 : Nat) (resids : List Cplx) (xss : List (List (Cplx × Nat))) : List (List (Cplx × Nat)) :=
  let p := subPeriod fc16
  let n := symCycles fc16
  let count := ((xss.map List.length).foldl max 0) / n
  (List.range count).map fun k =>
    xss.zipIdx.map fun b =>
      let xs := slice b.1 (n * k) n
      (symbolOf p off (n * (n0 + k)) (resids.getD b.2 cplx0) (xs.map (·.1)), (xs.map (·.2)).sum)

/-! ### Symbols of a generation (R111 to R113) -/

/-- A bit as a sign: 0 is +1. -/
def bitSign (b : Bool) : Int := if b then -1 else 1

/-- The symbol of its bits, where J3's dibits stand at √2 times their unit: the first bit in the imaginary part (R111). -/
def symbolAt (gen : Nat) (bs : List Bool) : Cplx :=
  if gen = 3 then ⟨bitSign (bs.getD 1 false), bitSign (bs.getD 0 false)⟩ else ⟨bitSign (bs.getD 0 false), 0⟩

/-- |d|² of those symbols. -/
def symbolNorm (gen : Nat) : Nat := if gen = 3 then 2 else 1

/-- The hard decision on a combined symbol. -/
def decideSym (gen : Nat) (y : Cplx) : Cplx :=
  if gen = 3 then ⟨bitSign (decide (y.re < 0)), bitSign (decide (y.im < 0))⟩ else ⟨bitSign (decide (y.re < 0)), 0⟩

def bitsSyms (gen : Nat) (bs : List Bool) : List Cplx := (chunks (symbolBits gen) bs).map (symbolAt gen)

/-- The symbols of the sync word. -/
def syncSyms (gen : Nat) : List Cplx := bitsSyms gen (msbBits 16 (syncWord gen))
def preambleSyms (gen : Nat) : List Cplx := bitsSyms gen (preamblePattern gen)
def holdSyms (gen : Nat) : List Cplx := bitsSyms gen (holdPattern gen)

/-- The `k` symbols that stand before a sync word: the preamble, and hold blocks before it. -/
def leadSyms (gen k : Nat) : List Cplx :=
  (List.range k).map fun j =>
    let p := k - 1 - j
    if p < 24 then (preambleSyms gen).getD (23 - p) cplx0 else (holdSyms gen).getD (7 - (p - 24) % 8) cplx0

/-! ### Gains, combining and decisions (R156, R157, R161) -/

/-- The product of the variances of all branches but the `i`th. -/
def otherVars (bs : List Branch) (i : Nat) : Nat := prodNat ((bs.zipIdx.filter fun b => b.2 != i).map fun b => b.1.var)
def allVars (bs : List Branch) : Nat := prodNat (bs.map (·.var))

/-- |h|² / σ² of each branch, in one common unit. -/
def Chain.parts (c : Chain) : List Nat := c.branches.zipIdx.map fun b => b.1.gain.norm2 * otherVars c.branches b.2

/-- Γ as a fraction, for a generation's symbols. -/
def Chain.gamma (c : Chain) (gen : Nat) : Nat × Nat := (c.parts.sum, symbolNorm gen * 4096 * 4 ^ c.exp * allVars c.branches)

/-- Γ · y: the branches combined, each with weight conj(h) / σ², a clipped one with weight 0 (R144, R156); a fraction over
4096 · 2^exp · Πσ². -/
def Chain.combine (c : Chain) (sym : List (Cplx × Nat)) : Cplx :=
  sumCplx (c.branches.zipIdx.map fun b =>
    match sym[b.2]? with
    | some (r, clips) => if 4 ≤ clips then cplx0 else Cplx.smul (otherVars c.branches b.2) (r.mulConj b.1.gain)
    | none => cplx0)

/-- The gains after a symbol that is `known` (R157): h + 2^-TRK (r conj(d) - h). -/
def Chain.track (c : Chain) (trk : Nat) (known : Cplx) (sym : List (Cplx × Nat)) : Chain :=
  { c with
    was := c.parts
    branches := c.branches.zipIdx.map fun b =>
      let r := ((sym[b.2]?).map (·.1)).getD cplx0
      { b.1 with gain := (Cplx.smul (2 ^ trk - 1) b.1.gain).add (Cplx.smul (2 ^ c.exp) (r.mulConj known)) }
    exp := c.exp + trk }

/-- The mean of the first 8 symbols times their conjugate known ones (R157). -/
def Chain.start (c : Chain) (known : List Cplx) (run : List (List (Cplx × Nat))) : Chain :=
  let first := (run.take 8).zip known
  { c with
    branches := c.branches.zipIdx.map fun b => { b.1 with gain := sumCplx (first.map fun p => (((p.1[b.2]?).map (·.1)).getD cplx0).mulConj p.2) }
    exp := 3, was := [] }

/-- Γ after a symbol counts in the frame's mean (R174). -/
def Chain.countGamma (c : Chain) (gen : Nat) : Chain :=
  let (n, k) := c.gamma gen
  if k % c.gamDen = 0 then { c with gamNum := c.gamNum * (k / c.gamDen) + n, gamDen := k, gamN := c.gamN + 1 }
  else { c with gamNum := c.gamNum * k + n * c.gamDen, gamDen := c.gamDen * k, gamN := c.gamN + 1 }

/-- The mean of the linear Γ, as a fraction. -/
def Chain.gammaMean (c : Chain) : Nat × Nat := (c.gamNum, c.gamDen * max 1 c.gamN)

/-- A soft bit: `num` / `den` limited to ±15.5, in steps of 0.5. -/
def softBit (num : Int) (den : Nat) : Int := clampInt (-31) 31 (roundDiv (2 * num) den)

/-- The soft bits of a combined symbol (R161). -/
def Chain.llr (c : Chain) (gen : Nat) (gy : Cplx) : List Int :=
  let den := 4096 * 2 ^ c.exp * allVars c.branches
  if gen = 3 then [softBit (2 * gy.im) den, softBit (2 * gy.re) den] else [softBit (4 * gy.re) den]

/-- The branch at which a channel stands no longer counts: its segment is retired (R176). -/
def Chain.drop (c : Chain) (gone : Nat → Bool) : Chain :=
  { c with branches := c.branches.map fun b => if gone b.chan then { b with gain := cplx0 } else b }

/-- The trailing branch's share is below 1/64; `rev`: the window moves against the cover order (R159). -/
def Chain.trailLow (c : Chain) (rev : Bool) : Bool :=
  let ps := c.parts
  decide (64 * (if rev then ps.getLastD 0 else ps.headD 0) < ps.sum)

/-- The leading branch's share is at least 1/2. -/
def Chain.leadHalf (c : Chain) (rev : Bool) : Bool :=
  let ps := c.parts
  decide (ps.sum ≤ 2 * (if rev then ps.headD 0 else ps.getLastD 0))

def Chain.countLow (c : Chain) (rev : Bool) : Chain := { c with low := if c.trailLow rev then c.low + 1 else 0 }

/-- A symbol of the frame after its sync word: its soft bits, and the gains after the hard decision on it. -/
def Chain.data (gen trk : Nat) (rev : Bool) (off : Int) (gone : Nat → Bool) (c : Chain) (sym : List (Cplx × Nat)) : Chain :=
  let c := c.drop gone
  let gy := c.combine sym
  let soft := c.llr gen gy
  let c := (((c.track trk (decideSym gen gy) sym).drop gone).countGamma gen).countLow rev
  { c with soft := c.soft ++ soft, syms := c.syms + 1, offSum := c.offSum + off }

/-- A symbol of a candidate that has not qualified, decided as one bit. -/
def Chain.lead (trk : Nat) (rev : Bool) (gone : Nat → Bool) (c : Chain) (sym : List (Cplx × Nat)) : Chain :=
  let c := c.drop gone
  ((c.track trk (decideSym 1 (c.combine sym)) sym).drop gone).countLow rev

/-- Where |h_a|² / σ_a² − |h_b|² / σ_b² in shares stood before the latest symbol and stands after it, as numbers of one sign and
size rule: the two differences, each over the same denominator (R160). -/
def Chain.crossing (c : Chain) (i : Nat) : Int × Int :=
  let now := c.parts
  let dif := fun (l : List Nat) => ((l.getD i 0 : Nat) : Int) - (l.getD (i + 1) 0 : Nat)
  (dif c.was * (now.sum : Nat), dif now * (c.was.sum : Nat))

/-! ### Qualification (R151) -/

/-- How many items at the end of a list hold. -/
def tailRun (l : List Bool) : Nat := (l.reverse.takeWhile id).length

/-- The candidate's symbols taken as those of generation `gen` up to the end of its sync word: the chain after them, the hard
decisions, and which of them are as expected. -/
def Chain.walk (c : Chain) (gen trk : Nat) (gone : Nat → Bool) (run : List (List (Cplx × Nat))) : Chain × List (Cplx × Cplx) :=
  let want := leadSyms gen (run.length - (syncSyms gen).length) ++ syncSyms gen
  let c := ({ c with gamNum := 0, gamDen := 1, gamN := 0 }.start want run).drop gone
  let first := ((run.zip want).take 8).map fun p => (decideSym gen (c.combine p.1), p.2)
  ((run.zip want).drop 8).foldl (fun (s : Chain × List (Cplx × Cplx)) p =>
    let got := decideSym gen (s.1.combine p.1)
    (((s.1.track trk p.2 p.1).drop gone).countGamma gen, s.2 ++ [(got, p.2)])) (c, first)

/-- Bits of a symbol that are as they should be. -/
def bitsRight (gen : Nat) (p : Cplx × Cplx) : Nat :=
  if gen = 3 then flagOf (p.1.re == p.2.re) + flagOf (p.1.im == p.2.im) else flagOf (p.1 == p.2)

/-- The greatest offset that a path acquires, in Hz (R175). -/
def offsetRange (fc16 : Bool) : Nat := if fc16 then 1000 else 2000

/-- A sync word of `gen` at the end of a candidate's symbols qualifies it: at least `qual` of its bits match, after 8 symbols of the
preamble, within 96 symbols from the candidate's first one or from the end of its last hold block. The number of hold blocks, and
the chain. -/
def Chain.qualify (c : Chain) (gen trk qual : Nat) (gone : Nat → Bool) (run : List (List (Cplx × Nat))) : Option (Nat × Chain) :=
  let n := run.length
  let k := n - (syncSyms gen).length
  let (c', ds) := c.walk gen trk gone run
  let right := (ds.take k).map fun p => p.1 == p.2
  let pre := min 24 (tailRun right)
  let holds := tailRun (right.take (k - 24)) / 8
  let bits := ((ds.drop k).map (bitsRight gen)).sum
  if (syncSyms gen).length + 8 ≤ n ∧ qual ≤ bits ∧ 8 ≤ pre ∧ (0 < holds ∨ n ≤ 96) then some (min 15 holds, c') else none

end Sys2Proof.Machine
end

