-- ==== Sys2Proof/Machine/Ldpc.lean ====
section
/-!
DEFINITION. The LDPC code of the uplink and its decoder (06_receive_decode.md R163 to R168).
-/

-- One declaration after another: the package is compiled as one text under a memory limit.
set_option Elab.async false

namespace Sys2Proof.Machine

/-! ### The code (R163 to R166) -/

/-- The base graph: the columns and shifts of each row. -/
def baseRows : List (List (Nat × Nat)) :=
  [[(0, 17), (1, 42), (14, 0)], [(2, 9), (3, 55), (8, 0)], [(4, 31), (5, 6), (12, 0)], [(6, 48), (7, 23), (9, 0)],
   [(2, 38), (4, 11), (13, 0), (14, 27)], [(0, 52), (6, 19), (8, 44), (10, 0)], [(1, 5), (7, 60), (12, 35), (15, 0)],
   [(3, 26), (5, 47), (9, 13), (11, 0)]]

/-- The check rows of a rate: the rows, pairs, or quads merged (R165). -/
def checkRows (rate : Nat) : List (List (Nat × Nat)) :=
  if rate = 0 then baseRows else if rate = 1 then (chunks 2 baseRows).map List.flatten else (chunks 4 baseRows).map List.flatten

/-- The bits that check `i` of a row connects. -/
def checkBits (z i : Nat) (row : List (Nat × Nat)) : List Nat := row.map fun p => z * p.1 + (i + p.2 % z) % z

/-- Every check of a rate, layer by layer. -/
def allChecks (rate z : Nat) : List (List Nat) := (checkRows rate).flatMap fun row => (List.range z).map fun i => checkBits z i row

/-- The order in which the parity columns are solved: row of `checkRows`, column (R166). -/
def solveOrder (rate : Nat) : List (Nat × Nat) :=
  if rate = 0 then [(0, 14), (1, 8), (2, 12), (3, 9), (4, 13), (5, 10), (6, 15), (7, 11)]
  else if rate = 1 then [(0, 14), (1, 12), (2, 13), (3, 15)] else [(0, 14), (1, 15)]

/-- The XOR of the bits at some places. -/
def xorAt (w : Array Bool) (ps : List Nat) : Bool := ps.foldl (fun b p => b != w.getD p false) false

/-- One parity column solved. -/
def solveColumn (z : Nat) (rows : List (List (Nat × Nat))) (w : Array Bool) (rc : Nat × Nat) : Array Bool :=
  (List.range z).foldl (fun w i =>
    let bit := z * rc.2 + i
    w.setIfInBounds bit (xorAt w ((checkBits z i (rows.getD rc.1 [])).filter (· != bit)))) w

/-- A codeword from its information bits (R118, R166). -/
def encodeWord (rate z : Nat) (info : List Bool) : List Bool :=
  let k := (if rate = 0 then 8 else if rate = 1 then 12 else 14) * z
  let w := ((info.take k) ++ List.replicate (16 * z - min k info.length) false).toArray
  ((solveOrder rate).foldl (solveColumn z (checkRows rate)) w).toList

/-- Every check is zero (R165). -/
def isCodeword (rate z : Nat) (w : Array Bool) : Bool := (allChecks rate z).all fun ps => !xorAt w ps

/-! ### The decoder (R167) -/

/-- A message magnitude scaled by 0.75: exact where it is a whole number of steps, else one of its two neighbours. -/
def scaleMag (m : Nat) : Nat := if m % 4 = 0 then 3 * m / 4 else 3 * m / 4 + Config.minSumScale m % 2

/-- The message to bit `j` of a check, from the inputs of the others. -/
def checkMessage (qs : List (Nat × Int)) (j : Nat) : Int :=
  let others := (qs.filter fun p => p.1 != j).map (·.2)
  let neg := (others.filter fun q => decide (q < 0)).length % 2 == 1
  let least := (others.map Int.natAbs).foldl min 127
  let m : Int := scaleMag least
  satSigned 8 (if neg then -m else m)

/-- One check: bit posteriors and its own messages before and after. -/
def checkStep (post : Array Int) (ps : List Nat) (rs : List Int) : Array Int × List Int :=
  let qs := (ps.zip rs).map fun p => (p.1, satSigned 8 (post.getD p.1 0 - p.2))
  let rs' := ps.map (checkMessage qs)
  (((qs.zip rs').foldl (fun a p => a.setIfInBounds p.1.1 (satSigned 10 (p.1.2 + p.2))) post), rs')

/-- One iteration over all layers. -/
def iterate : List (List Nat) → List (List Int) → Array Int → Array Int × List (List Int)
  | ps :: pss, rs :: rss, post =>
    let (post, rs') := checkStep post ps rs
    let (post, rss') := iterate pss rss post
    (post, rs' :: rss')
  | _, _, post => (post, [])

def hardBits (post : Array Int) : Array Bool := post.map fun v => decide (v < 0)

/-- Iterations until the syndrome is zero or the limit: hard decisions, iterations, success. -/
def decodeLoop (rate z : Nat) (checks : List (List Nat)) : Nat → Nat → Array Int → List (List Int) → List Bool × Nat × Bool
  | 0, n, post, _ => ((hardBits post).toList, n, false)
  | fuel + 1, n, post, rss =>
    let (post, rss) := iterate checks rss post
    if isCodeword rate z (hardBits post) then ((hardBits post).toList, n + 1, true) else decodeLoop rate z checks fuel (n + 1) post rss

/-- A codeword decoded: information bits, iterations, and whether the syndrome came to zero. -/
def decodeWord (rate z maxIter : Nat) (llr : List Int) : List Bool × Nat × Bool :=
  let checks := allChecks rate z
  let (bits, n, ok) := decodeLoop rate z checks maxIter 0 (llr.map (satSigned 6)).toArray (checks.map fun ps => ps.map fun _ => 0)
  (bits.take ((if rate = 0 then 8 else if rate = 1 then 12 else 14) * z), n, ok)

end Sys2Proof.Machine
end

