-- ==== Sys2Proof/Machine/Rx.lean ====
section
/-!
DEFINITION. Receive lanes, the crossbar, detection, the decoder cores, checks and delivery (06_receive_decode.md).
-/

-- One declaration after another: the package is compiled as one text under a memory limit.
set_option Elab.async false

namespace Sys2Proof.Machine

/-! ### Decibels in steps of 0.25 -/

/-- The ratio num / den is above `k` quarter decibels. -/
def aboveDb (num den k : Nat) : Bool := 10 ^ k * den ^ 40 < num ^ 40

/-- A ratio in whole quarter decibels, rounded down, 0 to 255. -/
def quarterDb (num den : Nat) : Nat := ((List.range 256).filter fun k => decide (10 ^ k * den ^ 40 ≤ num ^ 40)).getLastD 0

/-- A ratio in quarter decibels, rounded to nearest, 0 to 255 (R174). -/
def nearestDb (num den : Nat) : Nat :=
  ((List.range 256).filter fun k => k != 0 && decide (10 ^ (2 * k - 1) * den ^ 80 ≤ num ^ 80)).getLastD 0

/-! ### Crossbar and windows (R145, R146, R159) -/

/-- A role's home window (R22). -/
def Dev.homeOf (d : Dev) (role : Nat) : XbarDef :=
  ((d.reel.active.bind fun r => r.xbar[role]?)).getD { mode := 0, first := 0, width := 1 }

def Dev.laneMode (d : Dev) (l : Nat) : Nat := d.g LN_CFG_MODE l

/-- The lane that serves a role: the one that holds it, or one that shares it (R148, R350). -/
def Dev.laneFor (d : Dev) (role : Nat) : Option Nat :=
  match (List.range 20).find? fun l => d.laneMode l == 1 && d.g LN_CFG_ROLE_OF l == role with
  | some l => some l
  | none => (List.range 20).find? fun l => d.laneMode l == 1 && (d.lane l).shares.contains role

/-- The lane that serves a role for a slot's operation: a carried one keeps the lanes in service of the outgoing Reel (R44). -/
def Dev.laneForSlot (d : Dev) (slot : Option Nat) (role : Nat) : Option Nat :=
  match (slot.bind d.slot).bind fun x => if x.carried then d.reel.outgoing else none with
  | none => d.laneFor role
  | some r =>
    if ((r.xbar[role]?).map (·.mode)) == some 1 then
      (List.range 20).find? fun l => d.g LN_CFG_ROLE_OF l == role && !(d.g LANE_FAILED_LANE).testBit l
    else none

def Dev.putLaneState (d : Dev) (l v : Nat) : Dev := d.p LN_STATE_STATE l v

/-- A lane's registers from the active Reel: role `role`, in service (R22, R177). -/
def Dev.assignRole (d : Dev) (l role : Nat) : Dev :=
  let h := d.homeOf role
  let first := match d.ringFor 256 h.first with
    | some e => (d.coverFrom e h.first).headD h.first
    | none => h.first
  (((d.p LN_CFG_MODE l 1).p LN_CFG_FIRST l first).p LN_CFG_WIDTH l h.width).p LN_CFG_ROLE_OF l role

/-- A window opens on a lane that serves no other. -/
def Dev.startWindow (d : Dev) (l : Nat) (w : RxWindow) : Dev :=
  let chans := d.windowChans l w
  let d := d.putLane l fun x =>
    { x with win := some w, chans := chans, noise := [], chain := newChain, cands := Vector.ofFn fun _ => none, pkt := none, displaced := false,
             crossings := [], words := [], bufFull := false }
  (((d.putLaneState l 1).p LN_CFG_FIRST l (chans.headD w.first)).p LN_STATE_SEARCH l 0).p LN_STATE_GEN l 0

/-- LISTEN's window, which waits for a delivery that is due (R146, R176). -/
def Dev.openWindow (d : Dev) (l : Nat) (w : RxWindow) : Dev :=
  if (d.lane l).win.isSome then d.putLane l fun x => { x with next := x.next ++ [w] }
  else (d.putLane l fun x => { x with record := none }).startWindow l w

/-! ### Reply timing (R129 to R131, R153) -/

/-- The ticks of a symbol. -/
def symTicks (gen : Nat) : Nat := if gen = 1 then 64 else 32

/-- The instant of an On-beat reply. -/
def RxWindow.beat (w : RxWindow) : Nat :=
  w.cmdEnd + 2 * (match w.tree with
    | some s => 1024 + 5120 * s
    | none => 1024 + 16 * w.offset)

/-- The last tick of a valid first symbol. -/
def RxWindow.limit (w : RxWindow) : Nat :=
  if w.onbeat then w.beat + 2 else w.cmdEnd + 2 * (160 + w.hold * holdCycles w.gen)

/-- The tick at which a window with no candidate closes: a first symbol at the limit has shown its strength over 8 symbols of the
longer kind (R151, R153). -/
def RxWindow.close (w : RxWindow) : Nat := w.limit + 8 * symTicks 1

/-- Status bits of R174. -/
abbrev stOk : Nat := 0
abbrev stNoReply : Nat := 1
abbrev stEarly : Nat := 2
abbrev stLate : Nat := 3
abbrev stHoldOver : Nat := 4
abbrev stOffbeat : Nat := 5
abbrev stHdrErr : Nat := 6
abbrev stLenOver : Nat := 7
abbrev stCrcErr : Nat := 8
abbrev stTypeErr : Nat := 9
abbrev stGenMismatch : Nat := 10
abbrev stDupBlock : Nat := 11
abbrev stCaptured : Nat := 12
abbrev stCollided : Nat := 13
abbrev stInterferer : Nat := 14
abbrev stDecFail : Nat := 15
abbrev stDecDispute : Nat := 16
abbrev stFalsePre : Nat := 17
abbrev stBufFull : Nat := 18
abbrev stCrossed : Nat := 19
abbrev stLaneFail : Nat := 29

/-- The timing failure of a packet, if any (R153). -/
def timingFlag (w : RxWindow) (p : Packet) : Option Nat :=
  if w.onbeat then
    if p.holds ≠ 0 ∨ p.first + 2 < w.beat ∨ w.beat + 2 < p.first then some stOffbeat else none
  else if w.hold < p.holds then some stHoldOver
  else if p.first < w.cmdEnd + 192 + 2 * (p.holds * holdCycles p.gen) then some stEarly
  else if w.cmdEnd + 2 * (160 + p.holds * holdCycles p.gen) < p.first then some stLate
  else none

/-! ### Delivery (R173, R174) -/

/-- The six words of a frame record. -/
def recordOf (w : RxWindow) (status header : Nat) (p : Option Packet) (c : Chain) (iters : Nat) (cs : List Crossing) : List Word :=
  let last := cs.getLast?
  [status, header,
   inField 0 16 (((p.map (·.first)).getD w.cmdEnd) - w.cmdEnd) + (if p.isSome then inField 16 16 c.syms else 0),
   inField 0 8 ((p.map (·.strength)).getD 0) + (if p.isSome then inField 8 8 (nearestDb c.gammaMean.1 c.gammaMean.2) else 0) + inField 16 6 iters,
   if p.isSome then inField 0 16 (fieldOf 16 (clampInt (-32767) 32767 (roundDiv c.offSum (2 * max 1 c.syms)))) else 0,
   match last with
   | none => 0
   | some c => inField 0 24 (c.tick - w.cmdEnd) + inField 24 5 c.seam + inField 29 1 (flagOf c.backward) + inField 30 1 (flagOf c.fill)
       + inField 31 1 1].map (BitVec.ofNat 32)

/-- RATE and Z of a record, from the request (R174). -/
def RxWindow.asked (w : RxWindow) : Nat := inField 26 2 w.rate + inField 28 1 (flagOf w.z64)

/-- A lane that has not failed takes its settings of the active Reel (R45). -/
def Dev.settleLane (d : Dev) (l : Nat) : Dev :=
  let d := d.putLane l fun x => { x with resettle := false }
  if (d.g LANE_FAILED_LANE).testBit l then d
  else
    let d := d.p LN_CFG_ROLE_OF l l
    let h := d.homeOf l
    if h.mode = 1 then d.assignRole l l else d.p LN_CFG_MODE l h.mode

/-- A lane takes the settings of the active Reel that waited for the delivery of its windows (R44, R176). -/
def Dev.laneSettings (d : Dev) (l : Nat) : Dev := if (d.lane l).resettle && (d.lane l).win.isNone then d.settleLane l else d

/-- The window closes with its record: to the program that opened it, or to the census job (R174, R183, R217). -/
def Dev.closeWindow (d : Dev) (l : Nat) (rec : List Word) (pay : List Half) : Dev :=
  match (d.lane l).win with
  | none => d
  | some w =>
    let chans := (d.lane l).chans
    let s0 := d.g LN_SHARE_S0 l
    let s1 := d.g LN_SHARE_S1 l
    let s2 := d.g LN_SHARE_S2 l
    let chan := chans.getD (if s1 ≤ s0 ∧ s2 ≤ s0 then 0 else if s2 ≤ s1 then 1 else 2) w.first
    let rest := (d.lane l).next
    let d := d.each rec.zipIdx fun d p => d.p { LN_FRAME0_WORD with base := LN_FRAME0_WORD.base + p.2 } l p.1.toNat
    let d := d.putLane l fun x =>
      { x with win := none, next := rest.drop 1, pkt := none, cands := Vector.ofFn fun _ => none, words := [],
               record := some (w.slot, rec, pay) }
    let d := (d.putLaneState l 0).p LN_STATE_SEARCH l 0
    let isJob := (d.cen.job.bind (·.slot)) == some w.slot
    let d := if !isJob then d
      else
        let r : JobReply := { lane := l, slot := w.tree.getD 0, status := (rec.getD 0 0).toNat, header := (rec.getD 1 0).toNat,
                              payload := pay, chan := chan, chans := chans }
        (d.putLane l fun x => { x with record := none }).inCen fun c => { c with job := c.job.map fun j => { j with replies := j.replies ++ [r] } }
    let d := match rest with
      | [] => d.laneSettings l
      | n :: _ => d.startWindow l n
    let d := match (d.slot w.slot).bind (·.caller) with
      | none => d
      | some k =>
        match (d.caller k).st with
        | .frame l' rd a => if l' = l then d.takeRecord k l rd a else d
        | _ => d
    d.trySlotRelease w.slot

/-- A window that closes with no frame: its status word holds `bit`, and `extra`. -/
def Dev.closeEmpty (d : Dev) (l bit extra : Nat) : Dev :=
  match (d.lane l).win with
  | none => d
  | some w => d.closeWindow l (recordOf w (2 ^ bit + extra + w.asked) 0 none newChain 0 []) []

/-- Windows that waited for the delivery of a lane that has failed meanwhile fail with it (R148). -/
def Dev.failNext (l : Nat) : Nat → Dev → Dev
  | 0, d => d
  | n + 1, d =>
    match (d.lane l).win with
    | none => d
    | some w => if (d.g LANE_FAILED_LANE).testBit l then failNext l n ((d.repeatSlot w.slot).closeEmpty l stLaneFail 0) else d

/-- A delivery, and what it lets follow. -/
def Dev.deliver (d : Dev) (l : Nat) (rec : List Word) (pay : List Half) : Dev :=
  Dev.failNext l (d.lane l).next.length (d.closeWindow l rec pay)

def Dev.deliverEmpty (d : Dev) (l bit : Nat) (extra : Nat := 0) : Dev :=
  Dev.failNext l (d.lane l).next.length (d.closeEmpty l bit extra)

/-- A 32-bit header's fields (R116). -/
def headerLen (h : Nat) : Nat := bitsOf h 8 8
def headerOk (h : Nat) : Bool := crc8 (msbBits 24 (h / 256)) == bitsOf h 0 8

/-- Bits of a frame as 16-bit words. -/
def bitHalves (bs : List Bool) : List Half := (chunks 16 bs).map fun c => BitVec.ofNat 16 (msbNat c)
def bitBytes (bs : List Bool) : List Byte := (chunks 8 bs).map fun c => BitVec.ofNat 8 (msbNat c)

/-- How a frame's checks end (R173): the failing status bit or none, the header word and the payload. -/
structure FrameCheck where
  fail : Option Nat
  header : Nat
  payload : List Half

/-- A J1 frame, from hard decisions. -/
def checkJ1 (hard : List Bool) : FrameCheck :=
  let h := msbNat (hard.take 32)
  let n := headerLen h
  let body := hard.take (32 + 16 * n)
  let pay := bitHalves (body.drop 32)
  let fail :=
    if !headerOk h then some stHdrErr
    else if 128 < n then some stLenOver
    else if crc16 body != msbNat (slice hard (32 + 16 * n) 16) then some stCrcErr
    else if 10 ≤ bitsOf h 16 4 then some stTypeErr else none
  ⟨fail, h, pay⟩

/-- A J2 or J3 frame, from its decoded codewords. -/
def checkCoded (rate : Nat) (z64 : Bool) (hard : List Bool) (words : List LaneWord) : FrameCheck :=
  let hh := msbNat (hard.take 32)
  let info := words.flatMap fun w => w.info.getD []
  let decoded := words.all fun w => w.info.isSome
  let h := if decoded then msbNat (info.take 32) else hh
  let n := headerLen h
  let body := info.take (32 + 16 * n)
  let failed := words.any (·.failed)
  let fail :=
    if !decoded then some stDecFail
    else if !headerOk h then some stHdrErr
    else if 128 < n || 128 < headerLen hh then some stLenOver
    else if codewordCount rate z64 n != codewordCount rate z64 (headerLen hh) then some stHdrErr
    else if words.any (·.dispute) then some stDecDispute
    else if failed then some stDecFail
    else if crc32c (bitBytes body) != msbNat (slice info (32 + 16 * n) 32) then some stCrcErr
    else if 10 ≤ bitsOf h 16 4 then some stTypeErr else none
  ⟨fail, h, bitHalves (body.drop 32)⟩

/-- The codewords that a frame's delivery needs, by the hard decisions on its header (R162). -/
def wordsNeeded (w : RxWindow) (gen : Nat) (hard : List Bool) : Nat :=
  if gen = 1 then 0
  else
    let n := headerLen (msbNat (hard.take 32))
    if 128 < n then 1 else codewordCount w.rate w.z64 n

/-- No core is left to decode on (R350). -/
def Dev.decLost (d : Dev) : Bool := (List.range 4).all fun c => d.g DECC_STATUS_ROLE c == 2 || (d.g DEC_STATUS_CHECKER == c && !d.flag DEC_STATUS_SPARED)

/-- The informational status bits of a packet. -/
def statusBase (w : RxWindow) (p : Packet) (cs : List Crossing) : Nat :=
  let mis := !w.anyGen && p.gen != w.gen
  (p.flags ||| (if mis then 2 ^ stGenMismatch else 0)) ||| ((if cs.isEmpty then 0 else 2 ^ stCrossed)
    + inField 20 4 p.holds + inField 24 2 p.gen + w.asked)

/-- Soft bits as hard decisions. -/
def hardOf (l : List Int) : List Bool := l.map fun v => decide (v < 0)

/-- The hard decisions that a frame's header and, in J1, the whole frame are read from (R161, R162). -/
def LaneState.hard (x : LaneState) (gen : Nat) : List Bool :=
  if gen = 1 then hardOf x.chain.soft else hardOf ((x.words.flatMap (·.llr)) ++ x.chain.soft)

/-- The frame's end: checks, census, record (R155, R173, R174). -/
def Dev.finishFrame (d : Dev) (l : Nat) : Dev :=
  let x := d.lane l
  match x.win, x.pkt with
  | some w, some p =>
    if (List.range 2).any fun s => s != p.searcher && (vget x.cands s none).isSome then d.putLaneState l 6
    else
      let base := statusBase w p x.crossings
      let iters := (x.words.map (·.iters)).foldl max 0
      let hard := x.hard p.gen
      let hh := msbNat (hard.take 32)
      let early := timingFlag w p
      let need := wordsNeeded w p.gen hard
      if early.isSome || p.flags.testBit stCollided then
        d.deliver l (recordOf w (base ||| (early.map (2 ^ ·)).getD 0) hh (some p) x.chain iters x.crossings) []
      else if x.bufFull then d.deliver l (recordOf w (base ||| 2 ^ stBufFull) hh (some p) x.chain iters x.crossings) []
      else if p.gen ≠ 1 ∧ (x.words.length < need ∨ (x.words.take need).any fun v => v.info.isNone && !v.failed || v.checking) then
        d.putLaneState l 7
      else
        let words := x.words.take need
        let c := if p.gen = 1 then checkJ1 hard else checkCoded w.rate w.z64 hard words
        match c.fail with
        | some b =>
          d.deliver l (recordOf w (base ||| 2 ^ b) c.header (some p) x.chain iters x.crossings) (if b = stLenOver then [] else c.payload)
        | none =>
          let ring := ((d.ringFor w.slot w.first).map (·.ring)).getD 0
          let f : Heard := { ring := ring, sa := bitsOf c.header 20 12, ty := bitsOf c.header 16 4, payload := c.payload,
                             first := p.first, crossings := x.crossings, genMis := (base.testBit stGenMismatch) }
          let (dup, d) := d.resolveFrame f
          let status := base ||| 1 ||| (if dup then 2 ^ stDupBlock else 0)
          (d.bump LN_CNT_A_FRAMES l).deliver l (recordOf w status c.header (some p) x.chain iters x.crossings) c.payload
  | _, _ => d

/-! ### The level under ASK (R58, R108) -/

/-- The depth at which a frame goes out on a segment, in percent. A service frame, which has no Jenuri content, goes out at 100 %. -/
def Dev.downDepth (d : Dev) (x : Downlink) (n : Nat) : Nat :=
  let cmd := msbNat (slice x.content 0 8)
  let sa := msbNat (slice x.content 12 12)
  let plain := x.content.getD 8 false || (((d.holder sa).map fun i => (d.entCaps i).testBit 1).getD true)
  if x.content = [] ∨ cmd = 0x01 ∨ cmd = 0x02 ∨ cmd = 0x06 ∨ plain = false then 100
  else if x.depth = 0 then d.askDepth n
  else max 8 (min 100 x.depth)

/-- The code applied in a carrier cycle `c` of a frame, the unmodulated code `a`. -/
def Dev.askLevel (d : Dev) (x : Downlink) (n a c : Nat) : Nat × Dev :=
  match x.seqs[c / x.period]?.bind pauseOf with
  | none => (a, d)
  | some (first, last) =>
    let j := c % x.period
    let lo := first * (x.period / 16)
    let hi := (last + 1) * (x.period / 16) - 1
    if j < lo then (a, d)
    else
      let (p, d) := d.roundOpen (a * (100 - d.downDepth x n) : Nat) 100
      let p := p.toNat
      let e := d.g SEG_CTRL_ASK_EDGE n
      let falling := j - lo + 1
      if j ≤ hi then
        if e ≤ falling then (p, d)
        else
          let (s, d) := d.roundOpen ((a - p) * falling : Nat) e
          (a - s.toNat, d)
      else if e ≤ j - hi then (a, d)
      else
        let (s, d) := d.roundOpen ((a - p) * (j - hi) : Nat) e
        (p + s.toNat, d)

/-- SEGn_AMP.LEVEL. -/
def Dev.appliedLevel (d : Dev) (n : Nat) : Nat × Dev :=
  let a := (d.seg n).level
  match d.air.downlinks.find? fun x => x.segs.contains n && x.start ≤ d.now && d.now < x.stop with
  | none => (a, d)
  | some x => d.askLevel x n a ((d.now - x.start) / 2)

/-! ### Converters and the chain (R141 to R161) -/

/-- The converter of channel `k` as it works in the present carrier cycle (R141, R143). -/
def Dev.adc (d : Dev) (k : Nat) : Adc :=
  let θ := (d.effPhase k + d.g SNS_CFG_SPH k) % 64
  let lev : Int := (d.appliedLevel k).1
  { cosθ := cosPi (2 * θ) 64, sinθ := sinPi (2 * θ) 64
    copy := if d.flag SNS_CFG_CANCEL_EN k then ⟨lev * d.gs SNS_CANCEL_CI k, lev * d.gs SNS_CANCEL_CQ k⟩ else cplx0 }

/-- The samples of a lane's channels, with the count of those that clip. -/
def Dev.samples (d : Dev) (chans : List Nat) (rx : Pickup) : List (List (Cplx × Nat)) :=
  chans.zipIdx.map fun c => let x := d.adc c.1; (rx.branches.getD c.2 []).map x.sample

/-- RMS of the last 64 samples. -/
def rmsOf (xs : List (Cplx × Nat)) : Nat := isqrt (((xs.drop (xs.length - 64)).map fun x => x.1.norm2).sum / 64)

/-- What the sense channels show of samples: clips, the residue over 64 carrier cycles, and a symbol with four clips (R144). -/
def Dev.noteSamples (d : Dev) (chans : List Nat) (xss : List (List (Cplx × Nat))) (syms : List (List (Cplx × Nat))) : Dev :=
  d.each chans.zipIdx fun d c =>
    let xs := xss.getD c.2 []
    let d := d.bump SNS_LEVEL_CLIP c.1 ((xs.map (·.2)).sum)
    let d := d.when (decide (64 ≤ xs.length)) fun d => d.p SNS_LEVEL_RESID c.1 (rmsOf xs)
    d.when (syms.any fun sym => decide (4 ≤ ((sym[c.2]?).map (·.2)).getD 0)) fun d => d.set1 SNS_STATUS_OVER c.1

/-- LNn_SHARE and Γ as the chain has them (R156). -/
def Dev.putShares (d : Dev) (l gen : Nat) : Dev :=
  let c := (d.lane l).chain
  let ps := c.parts
  let sh := fun i => if ps.sum = 0 then 0 else min 255 (256 * ps.getD i 0 / ps.sum)
  (((d.p LN_SHARE_S0 l (sh 0)).p LN_SHARE_S1 l (sh 1)).p LN_SHARE_S2 l (sh 2)).p LN_SHARE_GAMMA l (nearestDb (c.gamma gen).1 (c.gamma gen).2)

/-- The tracking step 2^-TRK (R157). -/
def Dev.trk (d : Dev) (l : Nat) : Nat := max 1 (d.g LN_CFG_TRK l)

/-- The ring of a lane's window moves against the cover order. -/
def Dev.windowRev (d : Dev) (w : RxWindow) : Bool := ((d.ringFor w.slot w.first).map fun e => d.ringReverse e.ring).getD false

/-- The tick now and the path of a lane that receives: the packet's, or the candidate's. -/
def LaneState.path (x : LaneState) : Bool :=
  match x.pkt with
  | some p => p.gen == 1
  | none => ((((vget x.cands 0 none).orElse fun _ => vget x.cands 1 none)).map (·.fc16)).getD false

/-- The next symbols of what a lane receives go through its chain (R149 to R158). -/
def Dev.feedLane (d : Dev) (l : Nat) (rx : Pickup) : Dev :=
  let x := d.lane l
  match x.win with
  | none => d
  | some w =>
    let xss := d.samples x.chans rx
    let resids := x.chain.branches.map (·.resid)
    let rev := d.windowRev w
    match x.pkt with
    | some p =>
      let syms := symbolsOf x.path rx.offsetHz x.chain.syms resids xss
      let c := syms.foldl (Chain.data p.gen (d.trk l) rev rx.offsetHz d.segIsRetired) x.chain
      ((d.noteSamples x.chans xss syms).putLane l fun x => { x with chain := c }).putShares l p.gen
    | none =>
      match (List.range 2).find? fun s => (vget x.cands s none).isSome with
      | none => d
      | some s =>
        let n := ((vget x.cands s none).map fun c => c.run.length).getD 0
        let syms := symbolsOf x.path rx.offsetHz n resids xss
        let c := syms.foldl (Chain.lead (d.trk l) rev d.segIsRetired) x.chain
        let d := d.noteSamples x.chans xss syms
        (d.putLane l fun x => { x with chain := c, cands := vupdN x.cands s fun k => k.map fun k => { k with run := k.run ++ syms } }).putShares l 1

/-! ### Detection (R151 to R155) -/

/-- The strength measure over a run, E / W, as a fraction (R151). -/
def Chain.strength (c : Chain) (run : List (List (Cplx × Nat))) : Nat × Nat :=
  let sq := fun (sym : List (Cplx × Nat)) => (c.branches.zipIdx.map fun b => (((sym[b.2]?).map fun r => r.1.norm2).getD 0) * otherVars c.branches b.2).sum
  ((run.map sq).sum, 8 * c.branches.length * 4096 * allVars c.branches)

def Dev.setSearch (d : Dev) (l : Nat) : Dev :=
  let c := (d.lane l).cands
  d.p LN_STATE_SEARCH l (flagOf (vget c 0 none).isSome + 2 * flagOf (vget c 1 none).isSome)

def Dev.putCand (d : Dev) (l s : Nat) (c : Option Cand) : Dev :=
  (d.putLane l fun x => { x with cands := vupdN x.cands s fun _ => c }).setSearch l

/-- The noise variances that a window keeps: the first that are measured for its ring, in cover order (R151). -/
def Dev.windowNoise (d : Dev) (l : Nat) (w : RxWindow) (noise : List Nat) : List (Nat × Nat) :=
  let x := d.lane l
  if x.noise.isEmpty then
    let order := ((d.ringFor w.slot w.first).map fun e => d.coverFrom e w.first).getD x.chans
    (order.zip noise).map fun p => (p.1, max 1 p.2)
  else x.noise

def varOf (noise : List (Nat × Nat)) (k : Nat) : Nat := (assocGet k noise).getD 1

/-- The tick of the first of 8 symbols that end now. -/
def Dev.runTick (d : Dev) (fc16 : Bool) : Nat := d.now - 8 * symTicks (if fc16 then 1 else 2)

/-- The chain of a run's branches, before the gains are set. -/
def runChain (chans : List Nat) (noise : List (Nat × Nat)) (xss : List (List (Cplx × Nat))) : Chain :=
  { newChain with branches := chans.zipIdx.map fun c =>
      { chan := c.1, gain := cplx0, var := varOf noise c.1, resid := sumCplx (((xss.getD c.2 []).take 64).map (·.1)) } }

/-- A run against the preamble and against a hold block: whether it is a hold block, and its chain (R113, R157). -/
def Chain.known (c : Chain) (run : List (List (Cplx × Nat))) : Bool × Chain :=
  let p := c.start (preambleSyms 1) run
  let h := c.start (holdSyms 1) run
  if p.parts.sum < h.parts.sum then (true, h) else (false, p)

/-- R151: a candidate, where no other is held and the window still admits its first symbol. -/
def Dev.takeCandidate (d : Dev) (l s : Nat) (fc16 : Bool) (rx : Pickup) (noise : List Nat) : Dev :=
  let x := d.lane l
  match x.win with
  | none => d
  | some w =>
    let xss := d.samples x.chans rx
    let ns := d.windowNoise l w noise
    let c := runChain x.chans ns xss
    let run := symbolsOf fc16 rx.offsetHz 0 (c.branches.map (·.resid)) (xss.map (·.drop 64))
    let (n, k) := c.strength run
    let d := (d.noteSamples x.chans xss run).putLane l fun x => { x with noise := ns }
    if x.pkt.isSome || (List.range 2).any (fun i => (vget x.cands i none).isSome) || w.limit < d.runTick fc16 || run.length != 8
        || !aboveDb n k (d.g LN_DET_THRESH l) then d
    else
      let (hold, c) := c.known run
      let k : Cand := { tick := d.runTick fc16, fc16 := fc16, strength := quarterDb n k, run := run, hold := hold, behind := false, captor := false }
      (((d.putLane l fun x => { x with chain := c }).putCand l s (some k)).putLaneState l 2).putShares l 1

/-- The sync bits that have to match (R177). -/
def Dev.qual (d : Dev) (l : Nat) : Nat := max 12 (min 16 (d.g LN_DET_QUAL l))

/-- The generation of the sync word with which a candidate's symbols `run` end, its hold blocks and the chain after it: of those that
its path carries, the first that qualifies, within the offset that the path acquires (R151, R175). -/
def Dev.qualifies (d : Dev) (l : Nat) (c : Cand) (off : Int) (run : List (List (Cplx × Nat))) : Option (Nat × Nat × Chain) :=
  if offsetRange c.fc16 < off.natAbs then none
  else
    (if c.fc16 then [1] else [2, 3]).findSome? fun g =>
      ((d.lane l).chain.qualify g (d.trk l) (d.qual l) d.segIsRetired run).map fun r => (g, r)

/-- The tick of the first preamble symbol of a packet whose sync word ends with symbol `n` of its candidate (R151). -/
def Cand.firstOf (c : Cand) (gen n : Nat) : Nat := c.tick + (n - (syncSyms gen).length) * symTicks gen - 24 * symTicks gen

/-- R151, R154: a candidate qualifies. -/
def Dev.qualify (d : Dev) (l s : Nat) (rx : Pickup) : Dev :=
  let x := d.lane l
  match x.win, vget x.cands s none with
  | some _, some c =>
    let xss := d.samples x.chans rx
    let syms := symbolsOf c.fc16 rx.offsetHz c.run.length (x.chain.branches.map (·.resid)) xss
    let d := d.noteSamples x.chans xss syms
    let run := c.run ++ syms
    match d.qualifies l c rx.offsetHz run with
    | none => d
    | some (gen, holds, chain) =>
      match x.pkt with
      | some p =>
        if p.searcher = s then d
        else
          let d := d.bump LN_CNT_B_COLLIDED l 2
          (d.putLane l fun x => { x with pkt := some { p with flags := p.flags ||| 2 ^ stCollided } }).putCand l s none
      | none =>
        let other := (List.range 2).find? fun i => i != s && (vget x.cands i none).isSome
        let older := match other.bind fun i => vget x.cands i none with
          | some o => decide (o.tick ≤ c.tick)
          | none => false
        let fl := (if c.captor then 2 ^ stCaptured else 0) + (if other.isSome then (if older then 2 ^ stFalsePre else 2 ^ stInterferer) else 0)
        let p : Packet := { searcher := s, gen := gen, first := c.firstOf gen run.length, strength := c.strength, holds := holds, flags := fl }
        let n := 24 + (syncSyms gen).length
        let chain := { chain with syms := n, offSum := rx.offsetHz * n, low := 0, soft := [] }
        let d := d.when (other.isSome && older) fun d => d.bump LN_CNT_A_FALSE_DET l
        let d := match other with
          | some i => d.putCand l i none
          | none => d
        (((d.putLane l fun x => { x with pkt := some p, chain := chain, displaced := false }).putLaneState l 4).p LN_STATE_GEN l gen).putShares l gen
  | _, _ => d

/-- The tick at which a packet's header ends (R154). -/
def Packet.headerEnd (p : Packet) : Nat :=
  p.first + 2 * syncCycles p.gen + (if p.gen = 3 then 16 else 32) * symTicks p.gen

/-- R152, R154: the idle searcher reports an arrival. -/
def Dev.arrival (d : Dev) (l : Nat) (fc16 : Bool) (eighths : Nat) (rx : Pickup) : Dev :=
  let x := d.lane l
  let held := (List.range 2).find? fun s => (vget x.cands s none).isSome
  let free := (List.range 2).find? fun s => (vget x.cands s none).isNone
  match x.win, held.bind fun s => vget x.cands s none with
  | some _, some c =>
    let xss := d.samples x.chans rx
    let run := symbolsOf fc16 rx.offsetHz 0 (x.chain.branches.map (·.resid)) xss
    let (n, k) := x.chain.strength run
    let strength := quarterDb n k
    let d := d.noteSamples x.chans xss run
    if run.length != 8 || !aboveDb n k (d.g LN_DET_THRESH l) || (fc16 == c.fc16 && (eighths % 8 < 2 || 6 < eighths % 8)) then d
    else
      match free with
      | none => d.bump LN_CNT_B_DET_BUSY l
      | some s =>
        let tick := d.runTick fc16
        let behind := match x.pkt with
          | some p => decide (p.headerEnd < tick)
          | none => false
        let captor := !behind && decide (c.strength + d.g LN_DET_CAPTURE l ≤ strength)
        let a : Cand := { tick := tick, fc16 := fc16, strength := strength, run := run, hold := (x.chain.known run).1, behind := behind, captor := captor }
        if behind then d.putCand l s (some a)
        else if captor then
          let d := d.bump LN_CNT_B_CAPTURED l
          let d := (d.putLane l fun x => { x with pkt := none, words := [], crossings := [] }).putCand l (1 - s) none
          (d.putCand l s (some a)).putLaneState l 2
        else
          match x.pkt with
          | some p => d.putLane l fun x => { x with pkt := some { p with flags := p.flags ||| 2 ^ stInterferer } }
          | none => d.putCand l s (some a)
  | _, _ => d

/-- R154: a candidate dropped unqualified. -/
def Dev.dropCandidate (d : Dev) (l s : Nat) : Dev :=
  let x := d.lane l
  match vget x.cands s none with
  | none => d
  | some c =>
    if (x.pkt.map (·.searcher)) = some s then d
    else
      let d := (d.bump LN_CNT_A_FALSE_DET l).putCand l s none
      let d := d.when c.captor fun d => d.putLane l fun x => { x with displaced := true }
      d.when (x.pkt.isNone && ((List.range 2).all fun i => (vget (d.lane l).cands i none).isNone)) fun d => d.putLaneState l 1

/-! ### Promenade (R158 to R160) -/

/-- Two channels of a window are joined across a retired run (R160). -/
def Dev.filled (d : Dev) (w : RxWindow) (a b : Nat) : Bool :=
  match d.ringFor w.slot a with
  | some e => (e.runBetween (d.slotMask w.slot) false a b).getD 0 != 0
  | none => false

/-- R160: the shares of branches `i` and `i + 1` have become equal between the last two symbol ends: a crossing, interpolated
between them. -/
def Dev.crossed (d : Dev) (l i : Nat) : Dev :=
  let x := d.lane l
  match x.win, x.chans[i]?, x.chans[i + 1]? with
  | some w, some a, some b =>
    let (u, v) := x.chain.crossing i
    if (0 < u ∧ v ≤ 0) ∨ (u < 0 ∧ 0 ≤ v) then
      let st := symTicks (if x.path then 1 else 2)
      let off := roundDiv (st * u.natAbs : Nat) (u.natAbs + v.natAbs)
      let c : Crossing := { tick := ((d.now : Int) - st + off).toNat, seam := a, backward := decide (u < 0), fill := d.filled w a b }
      d.putLane l fun x => { x with crossings := x.crossings ++ [c] }
    else d
  | _, _, _ => d

def Dev.seamCrossing (d : Dev) (l i : Nat) (rx : Pickup) : Dev := (d.feedLane l rx).crossed l i

/-- The channel that a slide adds: the next in effective cover order, or before it, that the window does not hold. -/
def Dev.slideTo (d : Dev) (e : RingDef) (rev : Bool) (chans : List Nat) : Option Nat :=
  let order := (d.coverFrom e (if rev then chans.headD 0 else chans.getLastD 0)).filter fun n => !chans.contains n
  if rev then order.getLast? else order.head?

/-- R159: the window slides by one channel where its shares let it. The branch that joins starts with h = 0. -/
def Dev.slide (d : Dev) (l : Nat) (resid : Cplx) : Dev :=
  let x := d.lane l
  match x.win, x.win.bind fun w => d.ringFor w.slot (x.chans.headD w.first) with
  | some w, some e =>
    let rev := d.ringReverse e.ring
    match d.slideTo e rev x.chans with
    | none => d
    | some new =>
      if x.chain.low < 8 || !x.chain.leadHalf rev || x.chans.length < 2 || e.segCount ≤ 2 then d
      else
        let b : Branch := { chan := new, gain := cplx0, var := varOf x.noise new, resid := resid }
        let chans := if rev then new :: x.chans.dropLast else x.chans.drop 1 ++ [new]
        let bs := if rev then b :: x.chain.branches.dropLast else x.chain.branches.drop 1 ++ [b]
        let d := d.putLane l fun x => { x with chans := chans, chain := { x.chain with branches := bs, low := 0, was := [] } }
        (d.p LN_CFG_FIRST l (chans.headD w.first)).putShares l ((x.pkt.map (·.gen)).getD 1)
  | _, _ => d

/-- A lane receives its next symbols, after which its window may slide; one more branch of `rx` is the channel that joins. -/
def Dev.slideWindow (d : Dev) (l : Nat) (rx : Pickup) : Dev :=
  let x := d.lane l
  let d := d.feedLane l rx
  let e := x.win.bind fun w => d.ringFor w.slot (x.chans.headD w.first)
  let new := e.bind fun e => d.slideTo e (d.ringReverse e.ring) x.chans
  let xs := (new.map fun n => (rx.branches.getD x.chans.length []).map fun z => ((d.adc n).sample z).1).getD []
  d.slide l (sumCplx (xs.drop (xs.length - 64)))

/-! ### Codewords and cores (R162, R167 to R172) -/

def Dev.core (d : Dev) (c : Nat) : CoreState := vget d.rx.cores c { queue := [], acc := 0 }
def Dev.putCore (d : Dev) (c : Nat) (f : CoreState → CoreState) : Dev := d.inRx fun s => { s with cores := vupdN s.cores c f }
def Dev.coreFailed (d : Dev) (c : Nat) : Bool := (d.g DEC_STATUS_FAILED).testBit c

/-- The core that a lane's role is routed to under a Reel (R24). -/
def Reel.coreOf (r : Reel) (l : Nat) : Nat := ((List.range 4).find? fun c => ((r.dec[c]?).map fun e => e.lanes.testBit l).getD false).getD 0

/-- The core of a lane's codewords: the outgoing Reel's for the window of a carried operation, while that core works (R44). -/
def Dev.routeOf (d : Dev) (l : Nat) : Nat :=
  let now := vget d.rx.route l 0
  let slot := ((d.lane l).win.map (·.slot)).getD 256
  if ((d.slot slot).map (·.carried)).getD false then
    match d.reel.outgoing with
    | some r => if d.coreFailed (r.coreOf (d.g LN_CFG_ROLE_OF l)) then now else r.coreOf (d.g LN_CFG_ROLE_OF l)
    | none => now
  else now

def Dev.laneWord (d : Dev) (l w : Nat) : Option LaneWord := (d.lane l).words[w]?
def Dev.putWord (d : Dev) (l w : Nat) (f : LaneWord → LaneWord) : Dev :=
  d.putLane l fun x => { x with words := x.words.zipIdx.map fun p => if p.2 = w then f p.1 else p.1 }

/-- Codewords that wait enter core `c`'s queue while it has room, the lower-numbered lane first (R169, R176). -/
def Dev.fillCore (d : Dev) (c : Nat) : Nat → Dev
  | 0 => d
  | n + 1 =>
    if 4 ≤ (d.core c).queue.length || d.coreFailed c then d
    else
      let want := (List.range 20).findSome? fun l =>
        if d.routeOf l = c then
          ((d.lane l).words.zipIdx.find? fun p => !p.1.sent).map fun p => (l, p.2)
        else none
      match want with
      | none => d
      | some (l, w) =>
        ((d.putWord l w fun x => { x with sent := true }).putCore c fun x => { x with queue := x.queue ++ [{ lane := l, word := w, first := none }] }).fillCore c n

/-- R162, R169: a codeword's soft bits reach the lane buffer, of 5,461 soft bits, and its core's queue. -/
def Dev.takeCodeword (d : Dev) (l : Nat) : Dev :=
  let x := d.lane l
  match x.win, x.pkt with
  | some w, some p =>
    let n := if w.z64 then 1024 else 512
    let llr := x.chain.soft.take n
    if p.gen = 1 ∨ llr.length ≠ n then d
    else
      let d := d.putLane l fun x => { x with chain := { x.chain with soft := x.chain.soft.drop n } }
      if 128 < headerLen (msbNat ((x.hard p.gen).take 32)) ∧ x.words ≠ [] then d
      else if 5461 < n * (x.words.length + 1) then d.putLane l fun x => { x with bufFull := true }
      else
        let word : LaneWord :=
          { llr := llr, sent := false, info := none, iters := 0, failed := d.decLost, dispute := false, checking := false }
        let d := (d.putLane l fun x => { x with words := x.words ++ [word] }).putLaneState l 5
        let c := d.routeOf l
        if d.decLost then d
        else if (d.core c).queue.length < 4 then d.fillCore c 4 else d.bump LN_CNT_B_DEC_WAIT l
  | _, _ => d

def Dev.queueCodeword (d : Dev) (l : Nat) (rx : Pickup) : Dev := (d.feedLane l rx).takeCodeword l

def Dev.maxIter (d : Dev) : Nat := max 1 (min 32 (d.g DEC_CTRL_MAX_ITER))

/-- A run of a codeword on core `c`: spoilt, its result is whatever the fault leaves. -/
def Dev.runOn (d : Dev) (l w c : Nat) (bad : Bool) : Option DecodeRun × Dev :=
  let win := (d.lane l).win
  let rate := (win.map (·.rate)).getD 0
  let z := if (win.map (·.z64)).getD false then 64 else 32
  match d.laneWord l w with
  | none => (none, d)
  | some x =>
    let r := decodeWord rate z d.maxIter x.llr
    let (v, d) := if bad then d.freeVal else (0, d)
    let (u, d) := if bad then d.freeVal else (0, d)
    let run : DecodeRun :=
      if bad then { bits := msbBits r.1.length v, iters := u % (d.maxIter + 1), ok := r.2.2 } else { bits := r.1, iters := r.2.1, ok := r.2.2 }
    let d := (d.inc DECC_CW_COUNT c).inc DECC_ITER_COUNT c run.iters
    (some run, d.when (!run.ok) fun d => d.bump DECC_FAIL_COUNT c)

/-- A result stands in the lane's buffer. -/
def Dev.putRunOf (d : Dev) (l w : Nat) (r : DecodeRun) : Dev :=
  d.putWord l w fun x => { x with info := some r.bits, iters := r.iters, failed := !r.ok }

/-- Two runs agree: the same information bits and iteration count (R171). -/
def DecodeRun.agrees (a b : DecodeRun) : Bool := a.bits == b.bits && a.iters == b.iters

/-- A mismatch charged (R171). -/
def Dev.chargeCore (d : Dev) (c : Nat) : Dev := d.p DECC_MISMATCH_COUNT c (min 15 (d.g DECC_MISMATCH_COUNT c + 1))

/-- The lowest-numbered active core other than `c` and the checker. -/
def Dev.thirdCore (d : Dev) (c : Nat) : Option Nat :=
  (List.range 4).find? fun k => k != c && k != d.g DEC_STATUS_CHECKER && !d.coreFailed k

/-- What the runs of three cores settle: the result that two of them share, and each core that disagreed charged; else a dispute. -/
def Dev.settleRuns (d : Dev) (l w : Nat) (runs : List (Nat × DecodeRun)) : Dev :=
  match runs.find? fun a => runs.any fun b => a.1 != b.1 && a.2.agrees b.2 with
  | some a => (d.putRunOf l w a.2).each (runs.filter fun b => !b.2.agrees a.2) fun d b => d.chargeCore b.1
  | none => (d.putWord l w fun x => { x with dispute := true }).set1 DEC_EVENTS_DISPUTE

/-- The checker's run against the first; where they differ, the codeword is decoded a third time (R171). -/
def Dev.crossCheck (d : Dev) (l w chk first : Nat) (r1 : DecodeRun) (bad : List Nat) : Dev :=
  let d := d.putWord l w fun x => { x with checking := false }
  match d.runOn l w chk (bad.contains chk) with
  | (none, d) => d
  | (some r2, d) =>
    if r1.agrees r2 then d
    else
      let d := d.set1 DEC_EVENTS_MISMATCH
      match d.thirdCore first with
      | none => d.settleRuns l w [(first, r1), (chk, r2)]
      | some t =>
        match d.runOn l w t (bad.contains t) with
        | (none, d) => d
        | (some r3, d) => d.settleRuns l w [(first, r1), (chk, r2), (t, r3)]

/-- R170: the checker selects the codeword that core `c` has finished. -/
def Dev.selectCheck (d : Dev) (l w c : Nat) (r : DecodeRun) : Dev :=
  let chk := d.g DEC_STATUS_CHECKER
  if !d.flag DEC_STATUS_CHECKING || c == chk then d
  else
    let share := ((d.reel.active.bind fun r => r.dec[chk]?).map (·.share)).getD 0
    let a := (d.core c).acc + share
    let d := d.putCore c fun x => { x with acc := a % 256 }
    if a < 256 then d
    else if 4 ≤ (d.core chk).queue.length then d.bump DECC_FAIL_CHECK_SKIP c
    else
      (d.putWord l w fun x => { x with checking := true }).putCore chk fun x =>
        { x with queue := x.queue ++ [{ lane := l, word := w, first := some (c, r) }] }

/-- R167: core `c` ends the codeword at the head of its queue. -/
def Dev.decodeHead (d : Dev) (c : Nat) (bad : List Nat) : Dev :=
  match (d.core c).queue with
  | [] => d
  | j :: js =>
    let d := d.putCore c fun x => { x with queue := js }
    let d := match j.first with
      | some (c0, r) => d.crossCheck j.lane j.word c c0 r bad
      | none =>
        match d.runOn j.lane j.word c (bad.contains c) with
        | (none, d) => d
        | (some r, d) => (d.putRunOf j.lane j.word r).selectCheck j.lane j.word c r
    d.fillCore c 4

/-! ### Failures (R148, R172, R350) -/

/-- R148: a lane fails. -/
def Dev.laneFailure (d : Dev) (l : Nat) : Dev :=
  if (d.g LANE_FAILED_LANE).testBit l then d
  else
    let spare := d.laneMode l == 2
    let d := ((d.setBit LANE_FAILED_LANE 0 l).set1 LANE_EVENTS_LANE_FAIL).p LN_CFG_MODE l 3
    let d := d.when spare fun d => (d.p HEALTH_SPARES_LANES 0 (d.g HEALTH_SPARES_LANES - 1)).raise codeLaneSpareFail l
    let d := d.putLane l fun x => { x with failing := !spare }
    match (d.lane l).win with
    | none => d
    | some w => if d.g LN_STATE_STATE l = 7 then d else (d.repeatSlot w.slot).deliverEmpty l stLaneFail

/-- The role passes to lane `dst`, with the failed lane's home window and decoder route (R148). -/
def Dev.passRole (d : Dev) (l dst : Nat) : Dev :=
  let role := d.g LN_CFG_ROLE_OF l
  let c := vget d.rx.route l 0
  (d.assignRole dst role).inRx fun s => { s with route := vupdN s.route dst fun _ => c }

/-- R148, R350: the failed lane's role is taken over. The last hot spare left shows SEV 2 on HEALTH_SPARES. -/
def Dev.spareLane (d : Dev) (l : Nat) : Dev :=
  if !(d.lane l).failing then d
  else
    let d := d.putLane l fun x => { x with failing := false }
    let pass := fun (d : Dev) (dst : Nat) => d.passRole l dst
    let last := ((List.range 20).filter fun k => d.laneMode k == 2).length == 1
    match (List.range 20).find? fun k => d.laneMode k == 2 with
    | some k =>
      let d := (pass d k).set1 LANE_EVENTS_SPARE_USED
      let d := if d.g LANE_SPARE_SPARE0 = k then d.set1 LANE_SPARE_USED0 else d.set1 LANE_SPARE_USED1
      let d := (d.p HEALTH_SPARES_LANES 0 (d.g HEALTH_SPARES_LANES - 1)).raise codeLaneSpared l k
      d.when last fun d => d.high HEALTH_SPARES_SEV 0 2
    | none =>
      let d := d.set1 LANE_EVENTS_NO_SPARE
      match (List.range 20).find? fun k => d.laneMode k == 0 with
      | some k => (pass d k).raise codeLaneShared l k
      | none =>
        let role := d.g LN_CFG_ROLE_OF l
        let ring := d.ringOfSeg (d.homeOf role).first
        match (List.range 20).find? fun k => d.laneMode k == 1 && d.ringOfSeg (d.homeOf (d.g LN_CFG_ROLE_OF k)).first == ring with
        | none => d
        | some k => (d.putLane k fun x => { x with shares := x.shares ++ [role] }).raise codeLaneShared l k

/-- Codewords routed to a core that is gone are to be queued again. -/
def Dev.requeue (d : Dev) (c : Nat) : Dev :=
  let jobs := (d.core c).queue
  let d := d.putCore c fun x => { x with queue := [] }
  d.each jobs fun d j => d.putWord j.lane j.word fun x => if j.first.isSome then { x with checking := false } else { x with sent := false }

/-- The lanes of core `c` routed to core `k`. -/
def Dev.reroute (d : Dev) (c k : Nat) : Dev :=
  let d := d.inRx fun s => { s with route := vmap (fun _ r => if r = c then k else r) s.route }
  d.fillCore k 4

/-- Cross-checking stops. -/
def Dev.stopChecks (d : Dev) : Dev :=
  let chk := d.g DEC_STATUS_CHECKER
  ((d.requeue chk).p DEC_STATUS_CHECKING 0 0).p HEALTH_SPARES_CHECKER 0 0

/-- R172, R350: a core fails. -/
def Dev.coreFailure (d : Dev) (c : Nat) : Dev :=
  if d.coreFailed c then d
  else
    let chk := d.g DEC_STATUS_CHECKER
    let serving := d.flag DEC_STATUS_SPARED
    let d := (d.setBit DEC_STATUS_FAILED 0 c).p DECC_STATUS_ROLE c 2
    if c = chk ∧ serving = false then ((d.stopChecks).set1 DEC_EVENTS_CHECKER_FAIL).raise codeDecCheckerFail c
    else if serving = false ∧ d.coreFailed chk = false then
      let d := (d.stopChecks).requeue c
      let d := ((d.p DEC_STATUS_TAKEN_FOR 0 c).set1 DEC_STATUS_SPARED).p DECC_STATUS_ROLE chk 0
      ((d.reroute c chk).set1 DEC_EVENTS_SPARED).raise codeDecSpared c chk
    else
      let d := d.requeue c
      let alive := (List.range 4).filter fun k => !d.coreFailed k && (k != chk || serving)
      let routes := fun k => (d.rx.route.toList.filter (· == k)).length
      match sortBy (fun a b => decide (routes a < routes b)) alive with
      | k :: _ => (d.reroute c k).raise codeDecShared c k
      | [] =>
        let d := d.inRx fun s => { s with lanes := vmap (fun _ x => { x with words := x.words.map fun w => if w.info.isNone then { w with failed := true } else w }) s.lanes }
        d.raise codeDecLost c

/-! ### A Reel's activation (R45, R351) -/

/-- Lanes under a new Reel: failures persist, roles of failed lanes go to its spares. -/
def Dev.setLanes (d : Dev) (r : Reel) : Dev :=
  let failed := fun l => (d.g LANE_FAILED_LANE).testBit l
  let spares := (List.range 20).filter fun l => ((r.xbar[l]?).map (·.mode)) == some 2
  let free := (spares.filter fun l => !failed l).length
  let d := ((d.p LANE_SPARE_SPARE0 0 (spares.getD 0 0)).p LANE_SPARE_SPARE1 0 (spares.getD 1 0))
  let d := ((d.pf LANE_SPARE_USED0 0 false).pf LANE_SPARE_USED1 0 false).p HEALTH_SPARES_LANES 0 free
  let d := d.inRx fun s => { s with route := Vector.ofFn fun i => r.coreOf i.val }
  let d := d.each (List.range 20) fun d l =>
    let h := (r.xbar[l]?).getD { mode := 0, first := 0, width := 1 }
    let d := d.putLane l fun x => { x with shares := [], failing := failed l && h.mode == 1, resettle := x.win.isSome }
    if failed l then ((d.p LN_CFG_ROLE_OF l l).p LN_CFG_MODE l 3).when (h.mode == 2) fun d => d.raise codeLaneSpareFail l
    else if (d.lane l).win.isSome then d
    else d.settleLane l
  d.each (List.range 20) Dev.spareLane

/-- Decoder roles under a new Reel (R45, R351). -/
def Dev.setCores (d : Dev) (r : Reel) : Dev :=
  let chk := ((List.range 4).find? fun c => ((r.dec[c]?).map (·.role)) == some 1).getD 3
  let d := (d.p DEC_STATUS_CHECKER 0 chk).pf DEC_STATUS_SPARED 0 false
  let d := d.pf DEC_STATUS_CHECKING 0 (!d.coreFailed chk)
  let d := d.pf HEALTH_SPARES_CHECKER 0 (!d.coreFailed chk)
  let d := d.each (List.range 4) fun d c => d.p DECC_STATUS_ROLE c (if d.coreFailed c then 2 else if c = chk then 1 else 0)
  let d := d.when (d.coreFailed chk) fun d => d.raise codeDecCheckerFail chk
  d.each ((List.range 4).filter fun c => c != chk && d.coreFailed c) fun d c =>
    if !d.coreFailed chk && !d.flag DEC_STATUS_SPARED then
      let d := ((d.p DEC_STATUS_TAKEN_FOR 0 c).set1 DEC_STATUS_SPARED).p DECC_STATUS_ROLE chk 0
      ((d.stopChecks.reroute c chk).set1 DEC_EVENTS_SPARED).raise codeDecSpared c chk
    else
      let routes := fun k => (d.rx.route.toList.filter (· == k)).length
      match sortBy (fun a b => decide (routes a < routes b)) ((List.range 4).filter fun k => !d.coreFailed k && (k != chk || d.flag DEC_STATUS_SPARED)) with
      | k :: _ => (d.reroute c k).raise codeDecShared c k
      | [] => d.raise codeDecLost c

/-! ### The commands -/

/-- R143: the stored carrier vector is refined, every 64 carrier cycles; the spec gives no formula for its new value. -/
def Dev.refine (d : Dev) (k : Nat) (meanI meanQ : Int) : Dev :=
  let busy := (List.range 20).any fun l => (d.lane l).chans.contains k && (d.lane l).win.isSome && (d.lane l).pkt.isSome
  if d.segState k != segDrive || busy || !d.flag SNS_CFG_CANCEL_EN k || (d.seg k).driveCycles % 64 != 0 then d
  else if meanI = 0 ∧ meanQ = 0 then d
  else
    let (a, d) := d.freeVal
    let (b, d) := d.freeVal
    (d.p SNS_CANCEL_CI k a).p SNS_CANCEL_CQ k b

def execCancelRefine (k : Seg) (meanI meanQ : Int) (s : State) : Out State := effect s fun d => d.refine k meanI meanQ

def execCandidate (l : Lane) (i : Fin 2) (fc16 : Bool) (rx : Pickup) (noise : List Nat) (s : State) : Out State :=
  effect s fun d => d.takeCandidate l i fc16 rx noise

def execSyncQualify (l : Lane) (i : Fin 2) (rx : Pickup) (s : State) : Out State := effect s fun d => d.qualify l i rx

def execFalseDet (l : Lane) (i : Fin 2) (s : State) : Out State := effect s fun d => d.dropCandidate l i

def execArrival (l : Lane) (fc16 : Bool) (eighths : Nat) (rx : Pickup) (s : State) : Out State :=
  effect s fun d => d.arrival l fc16 eighths rx

def execSeamCrossing (l : Lane) (i : Fin 2) (rx : Pickup) (s : State) : Out State := effect s fun d => d.seamCrossing l i rx

def execWindowSlide (l : Lane) (rx : Pickup) (s : State) : Out State := effect s fun d => d.slideWindow l rx

/-- R133, R153: the window reaches its limit with no candidate held; for its tag this is a missed pass and a field collapse. -/
def Dev.expire (d : Dev) (l : Nat) : Dev :=
  let x := d.lane l
  match x.win with
  | none => d
  | some w =>
    if d.now < w.close || x.pkt.isSome || (List.range 2).any fun i => (vget x.cands i none).isSome then d
    else
      let isJob := (d.cen.job.bind (·.slot)) == some w.slot
      let d := match if isJob then none else w.sa with
        | some sa => (d.missPass sa).tagCollapse (((d.ringFor w.slot w.first).map RingDef.ring).getD 4) sa
        | none => d
      d.deliverEmpty l stNoReply (if x.displaced then 2 ^ stCaptured else 0)

def execReplyWindowExpiry (l : Lane) (s : State) : Out State := effect s fun d => (d.expire l).settlePool

def execCodewordQueued (l : Lane) (rx : Pickup) (s : State) : Out State := effect s fun d => d.queueCodeword l rx

def execCodewordDecoded (c : Core) (bad : List Core) (s : State) : Out State := effect s fun d => d.decodeHead c (bad.map Fin.val)

def execFrameDelivery (l : Lane) (rx : Pickup) (s : State) : Out State := effect s fun d => ((d.feedLane l rx).finishFrame l).settlePool

def execLaneFail (l : Lane) (s : State) : Out State := effect s fun d => (d.laneFailure l).settlePool

def execLaneSpared (l : Lane) (s : State) : Out State := effect s fun d => (d.spareLane l).settlePool

def execDecCoreFail (c : Core) (s : State) : Out State := effect s fun d => (d.coreFailure c).settlePool

end Sys2Proof.Machine
end

