-- ==== Sys2Proof/Machine/Figure.lean ====
section
/-!
DEFINITION. The Figure: Steps, commits, firing and dispatch (08_figures_callers.md R202 to R209).
-/

-- One declaration after another: the package is compiled as one text under a memory limit.
set_option Elab.async false

namespace Sys2Proof.Machine

/-! ### Steps (R202) -/

def Dev.stepWord (d : Dev) (i k : Nat) : Nat := d.rw (figBase + 4 * i + k)
def Dev.stepWords (d : Dev) (i : Nat) : List Nat := (List.range 4).map (d.stepWord i)

def Dev.stepAngle (d : Dev) (i : Nat) : Nat := bitsOf (d.stepWord i 0) 0 24
def Dev.stepRing (d : Dev) (i : Nat) : Nat := bitsOf (d.stepWord i 0) 24 2
def Dev.stepEn (d : Dev) (i : Nat) : Bool := (d.stepWord i 0).testBit 26
def Dev.stepPrio (d : Dev) (i : Nat) : Nat := bitsOf (d.stepWord i 0) 28 4
def Dev.stepSa (d : Dev) (i : Nat) : Nat := bitsOf (d.stepWord i 1) 0 12
def Dev.stepSeg (d : Dev) (i : Nat) : Nat := bitsOf (d.stepWord i 1) 12 5
def Dev.stepGcount (d : Dev) (i : Nat) : Nat := bitsOf (d.stepWord i 1) 24 8
def Dev.stepBoth (d : Dev) (i : Nat) : Bool := (d.stepWord i 2).testBit 27
def Dev.stepCycle (d : Dev) (i : Nat) : Nat := max 1 (bitsOf (d.stepWord i 3) 0 8)
def Dev.stepPhase (d : Dev) (i : Nat) : Nat := bitsOf (d.stepWord i 3) 8 8

/-- A window write to a word of the Step (R203). -/
def Dev.markDirty (d : Dev) (i : Nat) : Dev := d.inFig fun f => { f with dirty := if f.dirty.contains i then f.dirty else f.dirty ++ [i] }

/-! ### Commit (R204) -/

/-- The commit check of a Step for tenant `t`. -/
def Dev.stepPasses (d : Dev) (t : TenantDef) (i : Nat) : Bool :=
  match d.ringDef (d.stepRing i) with
  | none => false
  | some e =>
    (d.stepSeg i == 31 || e.segMask.testBit (d.stepSeg i)) && d.stepPhase i < d.stepCycle i
      && t.chFirst ≤ 64 * d.stepSa i && 64 * (d.stepSa i + max (d.stepGcount i) 1) ≤ t.chFirst + t.chCount

/-- The dirty Steps of a tenant's slice. -/
def Dev.dirtyOf (d : Dev) (t : TenantDef) : List Nat := d.fig.dirty.filter fun i => t.figFirst ≤ i && i < t.figFirst + t.figCount

/-- A commit starts: the Steps that pass leave the dirty ones, and the index is rebuilt. -/
def Dev.startCommit (d : Dev) (t : Nat) : Dev :=
  match d.tenantDef t with
  | none => d
  | some e =>
    let mine := d.dirtyOf e
    let ok := mine.filter (d.stepPasses e)
    let d := d.when (ok.length != mine.length) fun d => d.set1 FIG_EVENTS_COMMIT_REJECT
    let run : Rebuild := { tenant := t, adds := ok, cycle := d.cycle, index := d.fig.index }
    (d.inFig fun f => { f with dirty := f.dirty.filter fun i => !ok.contains i
                               index := f.index.filter fun i => !ok.contains i
                               rebuild := some run }).set1 FIG_STATUS_BUSY

/-- A rebuild that has not begun its work gives way: its Steps are as before it, and its commit is held. -/
def Dev.deferRebuild (d : Dev) (r : Rebuild) : Dev :=
  (d.inFig fun f => { f with dirty := f.dirty ++ r.adds, index := r.index, rebuild := none }).setBit FIG_STATUS_PENDING 0 r.tenant

/-- A write of FIG_COMMIT; during a rebuild it is held, but of the commits of one CCLK cycle the lowest-numbered tenant's runs first
(R204, R227). -/
def Dev.commit (d : Dev) (t : Nat) : Dev :=
  match d.fig.rebuild with
  | none => d.startCommit t
  | some r => if r.cycle = d.cycle ∧ t < r.tenant ∧ (d.tenantDef t).isSome then (d.deferRebuild r).startCommit t else d.setBit FIG_STATUS_PENDING 0 t

/-- The rebuild ends, and the lowest-numbered tenant's held commit runs. -/
def Dev.rebuilt (d : Dev) : Dev :=
  match d.fig.rebuild with
  | none => d
  | some r =>
    let d := (d.inFig fun f => { f with index := f.index.filter (fun i => !r.adds.contains i) ++ r.adds, rebuild := none }).p FIG_STATUS_BUSY 0 0
    match (List.range 4).find? fun t => (d.g FIG_STATUS_PENDING).testBit t with
    | none => d
    | some t => (d.clearBit FIG_STATUS_PENDING 0 t).startCommit t

/-! ### Firing (R206 to R208) -/

/-- What a fired Step takes with it: its words, the tick, the ring, and the windows and the segment of the firing (R211, R221). -/
def Dev.fireOf (d : Dev) (i way : Nat) (late : Bool) : Fire × Dev :=
  let x := d.stepRing i
  let r := d.ring x
  let mask := d.g FLD_RETIRED_SEG
  let f : Fire :=
    { job := false, step := i, words := d.stepWords i, tenant := (d.stepOwner i).getD 0, ring := x, prio := d.stepPrio i, tick := d.now,
      rev := r.count, late := late, reverse := d.ringReverse x, way := way, frac := r.frac, mask := mask, g4 := 0 }
  let (g4, d) := d.fireSeg f mask
  ({ f with g4 := g4 }, d)

/-- The order of R207 among the Steps due in one tick. -/
def fireBefore (a b : Fire) : Bool :=
  decide (a.tick < b.tick) || (a.tick == b.tick &&
    (decide (a.way < b.way) || (a.way == b.way && (decide (b.prio < a.prio) || (a.prio == b.prio && decide (a.step < b.step))))))

/-- Whether Step `i` may fire, its angle apart. -/
def Dev.mayFire (d : Dev) (i : Nat) : Bool :=
  let x := d.stepRing i
  d.fig.index.contains i && !d.fig.dirty.contains i && d.stepEn i && (d.ringDef x).isSome && d.ringValid x && !d.ringStill x
    && !(d.ring x).skipBack && (!d.ringReverse x || d.stepBoth i) && !(vget d.fig.fired x []).contains i
    && ((d.ring x).count % d.stepCycle i == d.stepPhase i || d.fig.again.contains i)

/-- The Step is noted as fired in this revolution. -/
def Dev.noteFired (d : Dev) (i : Nat) : Dev :=
  let x := d.stepRing i
  (d.inFig fun f => { f with fired := vupdN f.fired x fun l => l ++ [i], again := f.again.filter (· != i) }).putRing x fun r => { r with lastFire := some r.frac }

/-- R206, R208: Step `i` falls due. -/
def Dev.fireStep (d : Dev) (i : Nat) : Dev :=
  if !d.mayFire i then d
  else
    let x := d.stepRing i
    let r := d.ring x
    let rev := d.ringReverse x
    match r.reseatFrom with
    | some f0 =>
      match passedAt rev f0 r.frac (d.stepAngle i) with
      | none => d
      | some w =>
        let jump := if rev then (f0 + 2 ^ 24 - r.frac) % 2 ^ 24 else (r.frac + 2 ^ 24 - f0) % 2 ^ 24
        if jump ≤ 256 * d.g FIG_CTRL_SKIP_MAX then
          let (f, d) := d.fireOf i w true
          ((d.noteFired i).bump FIG_CNT_B_LATE).inFig fun g => { g with due := insertBy fireBefore f g.due }
        else ((d.noteFired i).bump FIG_CNT_B_SKIPPED).set1 FIG_EVENTS_SKIPPED
    | none =>
      match passedAt rev r.prevFrac r.frac (d.stepAngle i) with
      | none => d
      | some w =>
        let (f, d) := d.fireOf i w false
        (d.noteFired i).inFig fun g => { g with due := insertBy fireBefore f g.due }

/-! ### Dispatch (R205, R209) -/

def Dev.pairWorks (d : Dev) (k : Nat) : Bool := !(d.g CALL_PAIR_FAILED).testBit (d.g CL_STATUS_PAIR k)

/-- The ENTRY check of R209. -/
def Dev.entryOk (d : Dev) (f : Fire) : Bool :=
  let w := d.rw (callBase + f.entry)
  bitsOf w 26 6 == 0x3F && (bitsOf w 0 4).testBit f.tenant

/-- A fired Step goes into its Caller's fire queue of 4, or is dropped. -/
def Dev.dispatch (d : Dev) (f : Fire) : Dev :=
  let k := f.caller
  let drop := d.bump FIG_CNT_B_DROPPED
  if !d.domTakes domCall || !((List.range 8).any d.pairWorks) then drop.set1 FIG_EVENTS_DARK
  else if d.flag CALL_CTRL_HOLD then drop
  else if !d.entryOk f then drop.set1 FIG_EVENTS_ENTRY_FAULT
  else if 4 ≤ (d.caller k).queue.length then (d.bump FIG_CNT_B_OVERRUN).set1 FIG_EVENTS_OVERRUN
  else (d.inc FIG_CNT_A_FIRED).putCaller k fun c => { c with queue := c.queue ++ [f] }

/-- One Step a CCLK cycle (R207). -/
def Dev.dispatchHead (d : Dev) : Dev :=
  match d.fig.due with
  | [] => d
  | f :: fs => (d.inFig fun g => { g with due := fs }).dispatch f

/-- The way, in 2⁻²⁴ revolution, that ring `x` still turns until Step `i` fires: to its angle, and on through whole revolutions to
one of its cycle's phase in which it has not fired (R206). -/
def Dev.wayToFire (d : Dev) (x i : Nat) : Nat :=
  let r := d.ring x
  let a := d.stepAngle i
  let rev := d.ringReverse x
  let here := if rev then decide (a < r.frac) else decide (r.frac < a)
  let w := (if rev then r.frac + 2 ^ 24 - a else a + 2 ^ 24 - r.frac) % 2 ^ 24
  let w := if w = 0 then 2 ^ 24 else w
  let at? := fun (j : Nat) => (r.count + j + if here then 0 else 1) % d.stepCycle i == d.stepPhase i || (j == 0 && d.fig.again.contains i)
  let free := fun (j : Nat) => !(here && j == 0 && (vget d.fig.fired x []).contains i)
  w + 2 ^ 24 * (((List.range 256).find? fun j => at? j && free j).getD 256)

/-- The Step that ring `x` fires next, among those committed and enabled (R228). -/
def Dev.nextStep (d : Dev) (x : Nat) : Nat :=
  let l := d.fig.index.filter fun i =>
    d.stepRing i == x && d.stepEn i && !d.fig.dirty.contains i && (!d.ringReverse x || d.stepBoth i)
  (sortBy (fun a b => decide (a.1 < b.1)) (l.map fun i => (d.wayToFire x i, i))).head?.elim 0 (·.2)

/-! ### The commands -/

def execFigCommit (t : Tenant) (s : State) : Out State := effect s fun d => d.hostWrite t 0x1201 fun d => d.commit t

def execFigRebuildDone (s : State) : Out State := effect s fun d => d.rebuilt

def execStepFire (i : StepId) (s : State) : Out State := effect s fun d => d.fireStep i

def execStepDispatch (s : State) : Out State := effect s fun d => d.dispatchHead

end Sys2Proof.Machine
end

