-- ==== Sys2Proof/Machine/Caller.lean ====
section
/-!
DEFINITION. The Callers' instructions, program limits, lockstep failures and the books (08_figures_callers.md R210 to R227).
-/

-- One declaration after another: the package is compiled as one text under a memory limit.
set_option Elab.async false

namespace Sys2Proof.Machine

/-- An instruction of logical Caller `k`: it is run while the program runs, and nothing happens otherwise. -/
def Dev.instr (d : Dev) (k : Nat) (f : Dev → Dev) : Dev := if (d.caller k).st = .run then f d else d

/-! ### The program's Step -/

def Dev.fireOfCaller (d : Dev) (k : Nat) : Option Fire := (d.caller k).fire
def Dev.progRing (d : Dev) (k : Nat) : Nat := ((d.caller k).fire.map (·.ring)).getD 0
def Dev.progTenant (d : Dev) (k : Nat) : Nat := ((d.caller k).fire.map (·.tenant)).getD 0
def Dev.progPrio (d : Dev) (k : Nat) : Nat := ((d.caller k).fire.map (·.prio)).getD 0
def Dev.fireTick (d : Dev) (k : Nat) : Nat := ((d.caller k).fire.map (·.tick)).getD 0

/-- Carrier cycles since the firing tick. -/
def Dev.progNow (d : Dev) (k : Nat) : Nat := (d.now - d.fireTick k) / 2

/-- The RING entry that the program sees: of the outgoing Reel while its current slot is carried (R227). -/
def Dev.progEntry (d : Dev) (k : Nat) : Option RingDef :=
  let r := match (d.caller k).cur with
    | some i => d.reelFor i
    | none => d.reel.active
  r.bind fun r => r.ring.find? fun e => e.ring == d.progRing k

/-- The retired segments whose windows the program sees: those of its current slot's operation, or of its firing (R76). -/
def Dev.progMask (d : Dev) (k : Nat) : Nat :=
  match (d.caller k).cur.bind d.slot, (d.caller k).fire with
  | some x, _ => x.mask
  | none, some f => f.mask
  | none, none => d.g FLD_RETIRED_SEG

/-! ### Arithmetic -/

def Dev.alu (d : Dev) (k rd : Nat) (v : Word) : Dev := d.instr k fun d => d.result k rd v

def sext18 (i : BitVec 18) : Word := i.signExtend 32
def zext18 (i : BitVec 18) : Word := i.setWidth 32
def sh5 (w : Word) : Nat := w.toNat % 32

def execNop (k : CallerId) (s : State) : Out State := effect s fun d => d.instr k fun d => d.advance k
def execAdd (k : CallerId) (rd ra rb : GReg) (s : State) : Out State := effect s fun d => d.alu k rd (d.reg k ra + d.reg k rb)
def execSub (k : CallerId) (rd ra rb : GReg) (s : State) : Out State := effect s fun d => d.alu k rd (d.reg k ra - d.reg k rb)
def execAnd (k : CallerId) (rd ra rb : GReg) (s : State) : Out State := effect s fun d => d.alu k rd (d.reg k ra &&& d.reg k rb)
def execOr (k : CallerId) (rd ra rb : GReg) (s : State) : Out State := effect s fun d => d.alu k rd (d.reg k ra ||| d.reg k rb)
def execXor (k : CallerId) (rd ra rb : GReg) (s : State) : Out State := effect s fun d => d.alu k rd (d.reg k ra ^^^ d.reg k rb)
def execShl (k : CallerId) (rd ra rb : GReg) (s : State) : Out State := effect s fun d => d.alu k rd (d.reg k ra <<< sh5 (d.reg k rb))
def execShr (k : CallerId) (rd ra rb : GReg) (s : State) : Out State := effect s fun d => d.alu k rd (d.reg k ra >>> sh5 (d.reg k rb))
def execSar (k : CallerId) (rd ra rb : GReg) (s : State) : Out State :=
  effect s fun d => d.alu k rd ((d.reg k ra).sshiftRight (sh5 (d.reg k rb)))
def execMul (k : CallerId) (rd ra rb : GReg) (s : State) : Out State := effect s fun d => d.alu k rd (d.reg k ra * d.reg k rb)
def execAddi (k : CallerId) (rd ra : GReg) (imm : BitVec 18) (s : State) : Out State := effect s fun d => d.alu k rd (d.reg k ra + sext18 imm)
def execAndi (k : CallerId) (rd ra : GReg) (imm : BitVec 18) (s : State) : Out State := effect s fun d => d.alu k rd (d.reg k ra &&& zext18 imm)
def execOri (k : CallerId) (rd ra : GReg) (imm : BitVec 18) (s : State) : Out State := effect s fun d => d.alu k rd (d.reg k ra ||| zext18 imm)
def execLui (k : CallerId) (rd : GReg) (imm : BitVec 18) (s : State) : Out State := effect s fun d => d.alu k rd (zext18 imm <<< 14)
def execShli (k : CallerId) (rd ra : GReg) (imm : BitVec 18) (s : State) : Out State := effect s fun d => d.alu k rd (d.reg k ra <<< (imm.toNat % 32))
def execShri (k : CallerId) (rd ra : GReg) (imm : BitVec 18) (s : State) : Out State := effect s fun d => d.alu k rd (d.reg k ra >>> (imm.toNat % 32))

/-! ### Memory -/

/-- The data address ra + imm14. -/
def Dev.dataAddr (d : Dev) (k ra : Nat) (imm : BitVec 14) : Nat := (d.reg k ra + imm.setWidth 32).toNat

def execLd (k : CallerId) (rd ra : GReg) (imm : BitVec 14) (s : State) : Out State :=
  effect s fun d => d.instr k fun d =>
    let a := d.dataAddr k ra imm
    if 1791 < a then d.abortProgram k causeData else d.result k rd (d.rword (dataWord k a))

def execSt (k : CallerId) (rd ra : GReg) (imm : BitVec 14) (s : State) : Out State :=
  effect s fun d => d.instr k fun d =>
    let a := d.dataAddr k ra imm
    if 1791 < a then d.abortProgram k causeData else (d.ww (dataWord k a) (d.reg k rd).toNat).advance k

/-- LDC above 16,383 reads no word of Call memory: the result is open. -/
def execLdc (k : CallerId) (rd ra : GReg) (imm : BitVec 14) (s : State) : Out State :=
  effect s fun d => d.instr k fun d =>
    let a := d.dataAddr k ra imm
    if a ≤ 16383 then d.result k rd (d.rword (callBase + a))
    else
      let (v, d) := d.freeVal
      d.result k rd (BitVec.ofNat 32 v)

/-- The special registers of R220. -/
def Dev.special (d : Dev) (k i : Nat) : Option Nat :=
  let c := d.caller k
  let t := d.fireTick k
  if i = 0 then some (match c.fire with
    | some f => if f.job then 0x3FFF else f.step
    | none => 0)
  else if i = 1 then some (d.progTenant k)
  else if i = 2 then some (lo32 t)
  else if i = 3 then some (hi32 t)
  else if i = 4 then some (d.progNow k % 2 ^ 32)
  else if i = 5 then some (d.ring (d.progRing k)).frac
  else if i = 6 then some (lo32 ((c.fire.map (·.rev)).getD 0))
  else if i = 7 then some k
  else if i = 8 then some c.flags
  else if i = 9 then some (c.cur.getD 0xFFFFFFFF)
  else if i = 10 then some ((d.slotsOf k).headD 0xFFFFFFFF)
  else none

/-- An index that R220 does not name reads an open value. -/
def execRds (k : CallerId) (rd : GReg) (imm : BitVec 14) (s : State) : Out State :=
  effect s fun d => d.instr k fun d =>
    match d.special k imm.toNat with
    | some v => d.result k rd (BitVec.ofNat 32 v)
    | none =>
      let (v, d) := d.freeVal
      d.result k rd (BitVec.ofNat 32 v)

def execWrs (k : CallerId) (ra : GReg) (imm : BitVec 14) (s : State) : Out State :=
  effect s fun d => d.instr k fun d =>
    let clear := bitList 7 (d.reg k ra).toNat |>.filter fun i => 4 ≤ i
    let d := d.when (imm == 8) fun d => d.each clear fun d i => d.callerFlag k i false
    d.advance k

/-! ### Control -/

def Dev.branch (d : Dev) (k : Nat) (b : Bool) (off : BitVec 18) : Dev :=
  d.instr k fun d => d.goTo k ((d.caller k).pc + 1 + if b then off.toInt else 0)

def execBeq (k : CallerId) (ra rb : GReg) (off : BitVec 18) (s : State) : Out State := effect s fun d => d.branch k (d.reg k ra == d.reg k rb) off
def execBne (k : CallerId) (ra rb : GReg) (off : BitVec 18) (s : State) : Out State := effect s fun d => d.branch k (d.reg k ra != d.reg k rb) off
def execBlt (k : CallerId) (ra rb : GReg) (off : BitVec 18) (s : State) : Out State := effect s fun d => d.branch k ((d.reg k ra).slt (d.reg k rb)) off
def execBltu (k : CallerId) (ra rb : GReg) (off : BitVec 18) (s : State) : Out State := effect s fun d => d.branch k ((d.reg k ra).ult (d.reg k rb)) off

def execJmp (k : CallerId) (target : BitVec 14) (s : State) : Out State := effect s fun d => d.instr k fun d => d.goTo k target.toNat

def execCall (k : CallerId) (target : BitVec 14) (s : State) : Out State :=
  effect s fun d => d.instr k fun d => (d.putReg k 15 (BitVec.ofNat 32 ((d.caller k).pc + 1))).goTo k target.toNat

def execRet (k : CallerId) (s : State) : Out State := effect s fun d => d.instr k fun d => d.goTo k ((d.reg k 15).toNat % 16384)

def execEndProgram (k : CallerId) (s : State) : Out State := effect s fun d => d.instr k fun d => (d.endProgram k).settleHeld

/-! ### Slots (R214, R215) -/

/-- SLOT: the claim is entered, and the grants that are due are made; with NOWAIT it is then withdrawn. A kind code that R214
does not name is one of its kinds, which is open. -/
def Dev.slotClaim (d : Dev) (k rd : Nat) (imm : BitVec 14) : Dev :=
  let code := imm.toNat % 8
  let (kind, d) := if code ≤ 4 then (code, d) else
    let (v, d) := d.freeVal
    (v % 5, d)
  let d := (d.putCaller k fun c => { c with st := .slot rd kind d.cycle }).grantSlot
  match (d.caller k).st with
  | .slot _ _ _ => if imm.toNat.testBit 13 then ((d.callerFlag k flagSlotNone true).putReg k rd allOnes).advance k else d
  | _ => d

def execSlot (k : CallerId) (rd : GReg) (imm : BitVec 14) (s : State) : Out State := effect s fun d => d.instr k fun d => d.slotClaim k rd imm

/-- R214: the next slot claim is granted. -/
def execSlotGrant (s : State) : Out State := effect s Dev.grantSlot

/-- Whether the program of Caller `k` owns a slot. -/
def Dev.owns (d : Dev) (k i : Nat) : Bool := ((d.slot i).bind (·.caller)) == some k

def execRel (k : CallerId) (ra : GReg) (s : State) : Out State :=
  effect s fun d => d.instr k fun d =>
    let i := (d.reg k ra).toNat
    let d := d.when (d.owns k i) fun d => (d.updSlot i fun x => { x with rel := true }).trySlotRelease i
    d.advance k

/-- R214: a release that was asked for takes effect. -/
def execSlotRelease (i : SlotId) (s : State) : Out State := effect s fun d => d.trySlotRelease i

def execKeep (k : CallerId) (ra rb : GReg) (s : State) : Out State :=
  effect s fun d => d.instr k fun d =>
    let i := (d.reg k ra).toNat
    let sa := (d.reg k rb).toNat % 4096
    let d := d.when (d.owns k i) fun d => d.updSlot i fun x => { x with kind := .write, kept := some { sa := sa, passes := 0 }, bound := some sa }
    d.advance k

def execAdopt (k : CallerId) (rd ra : GReg) (s : State) : Out State :=
  effect s fun d => d.instr k fun d =>
    let sa := (d.reg k ra).toNat % 4096
    match d.keptFor sa with
    | none => d.result k rd allOnes
    | some i =>
      let f := (d.caller k).fire
      let d := d.updSlot i fun x =>
        { x with caller := some k, home := some k, kept := none, rel := false, mask := d.progMask k, prio := d.progPrio k,
                 step := f.bind fun f => if f.job then none else some f.step, sa := (f.map Fire.sa).getD 0 }
      (d.putCaller k fun c => { c with cur := some i }).result k rd (BitVec.ofNat 32 i)

/-- R215: a kept slot is released after 16 passes with no ADOPT. -/
def execKeptSlotRelease (i : SlotId) (s : State) : Out State :=
  effect s fun d =>
    match (d.slot i).bind (·.kept) with
    | none => d
    | some q => if 16 ≤ q.passes then (d.dropKept i).settleHeld else d

def execUseSlot (k : CallerId) (ra : GReg) (s : State) : Out State :=
  effect s fun d => d.instr k fun d =>
    let i := (d.reg k ra).toNat
    (d.when (d.owns k i) fun d => d.putCaller k fun c => { c with cur := some i }).advance k

/-! ### Field (R61 to R77) -/

def Dev.refuse (d : Dev) (k : Nat) : Dev := d.callerFlag k flagRefused true

def execClaim (k : CallerId) (rd ra rb : GReg) (s : State) : Out State :=
  effect s fun d => d.instr k fun d =>
    let n := (d.reg k ra).toNat
    match (d.caller k).cur with
    | none => (d.refuse k).result k rd allOnes
    | some i =>
      let t := d.tokens n (d.reg k rb).toNat
      if 24 ≤ n then (d.refuse k).result k rd allOnes
      else
        match d.claimTokens { seg := n, owner := .slot i, tokens := t, prio := d.progPrio k, cycle := d.cycle, caller := k } false with
        | (true, d) => (d.refuse k).result k rd allOnes
        | (false, d) => d.result k rd (BitVec.ofNat 32 t)

/-- The tag of the program's Step, for R75. -/
def Dev.progTag (d : Dev) (k : Nat) : Option Nat := (d.caller k).fire.bind fun f => if f.job then none else some f.sa

def execField (k : CallerId) (ra rb : GReg) (s : State) : Out State :=
  effect s fun d => d.instr k fun d =>
    let n := (d.reg k ra).toNat
    match (d.caller k).cur with
    | none => (d.when ((d.reg k rb) != 0) fun d => d.refuse k).advance k
    | some i =>
      if 24 ≤ n then (d.refuse k).advance k
      else
        match d.fieldTo n i (d.reg k rb).toNat (d.progTag k) with
        | (true, d) => (d.refuse k).advance k
        | (false, d) => d.advance k

def execGlide (k : CallerId) (rd ra rb : GReg) (s : State) : Out State :=
  effect s fun d => d.instr k fun d =>
    let o := (d.reg k ra).toNat
    let n := (d.reg k rb).toNat
    match (d.caller k).cur with
    | none => ((d.glideAbort o n).refuse k).advance k
    | some i =>
      match d.glideTo o n i (d.reg k rd).toNat with
      | (true, d) => (d.refuse k).advance k
      | (false, d) => d.advance k

def execSegl (k : CallerId) (rd ra : GReg) (s : State) : Out State :=
  effect s fun d => d.instr k fun d =>
    d.result k rd (optWord ((d.progEntry k).bind fun e => e.segAt (d.progMask k) ((d.reg k ra).toNat % 2 ^ 24)))

/-- SEAM of a segment that the Step's ring does not have is open. -/
def execSeam (k : CallerId) (rd ra : GReg) (s : State) : Out State :=
  effect s fun d => d.instr k fun d =>
    let n := (d.reg k ra).toNat
    match (d.progEntry k).bind fun e => if e.segs.contains n then some (e.windowAt (d.progMask k) (e.place n)) else none with
    | some w => d.result k rd (BitVec.ofNat 32 (if d.ringReverse (d.progRing k) then w.1 else w.2.1))
    | none =>
      let (v, d) := d.freeVal
      d.result k rd (BitVec.ofNat 32 v)

/-- SPOS; with no entry, the bits below 31 are open. -/
def execSpos (k : CallerId) (rd ra : GReg) (s : State) : Out State :=
  effect s fun d => d.instr k fun d =>
    let x := d.progRing k
    match d.tagPoint x ((d.reg k ra).toNat % 4096) with
    | some p => d.result k rd (BitVec.ofNat 32 (p + if d.ringValid x then 0 else 2 ^ 31))
    | none =>
      let (v, d) := d.freeVal
      d.result k rd (BitVec.ofNat 32 (v % 2 ^ 31 + 2 ^ 31))

/-! ### Air (R216) -/

/-- The content bits of a SEND buffer. -/
def Dev.sendBits (d : Dev) (k a n : Nat) : List Bool :=
  ((List.range (ceilDiv n 32)).flatMap fun i => msbBits 32 (d.rw (dataWord k (a + 1 + i)))).take n

/-- The segments that a slot's SEND goes out on: those with its claim record that drive or rise to drive, and both segments of its
Glides (R63, R216). -/
def Dev.sendSegs (d : Dev) (i : Nat) : List Nat :=
  (List.range 24).filter fun n =>
    d.hasGranted n (.slot i) && [segDrive, segRampUp, segLevel, segGlideIn, segGlideOut].contains (d.segState n)

/-- The tick from which a segment's carrier is steady, the pair of a Glide taken as one. -/
def Dev.steadyFrom (d : Dev) (n : Nat) : Nat :=
  match (d.seg n).ramp, (d.seg n).partner with
  | some r, none => d.now + 2 * (r.n - r.k + if r.begun then 0 else 1)
  | _, _ => (d.seg n).steady

/-- The tick from which no frame is on the air on a segment (R107). -/
def Dev.quietFrom (d : Dev) (n : Nat) : Nat := ((d.air.downlinks.filter fun x => x.segs.contains n).map (·.stop)).foldl max 0

/-- The first 16-aligned fire-relative carrier cycle that follows 32 cycles of steady carrier. -/
def Dev.sendStart (d : Dev) (fire : Nat) (segs : List Nat) : Nat :=
  let at? := (segs.map fun n => max (d.steadyFrom n) (d.quietFrom n) + 64).foldl max d.now
  16 * ceilDiv (ceilDiv (at? - fire) 2) 16

/-- What a downlink command does to the record of a write (R132, R133). -/
def Dev.noteWrite (d : Dev) (content : List Bool) : Dev :=
  let f := fun o w => msbNat (slice content o w)
  let cmd := f 0 8
  let sa := f 12 12
  let old := d.air.writes.find? fun w => w.sa == sa
  let put := fun (w : WriteRec) => d.inAir fun a => { a with writes := (a.writes.filter fun x => x.sa != sa) ++ [w] }
  let passes := (old.map (·.passes)).getD 0
  let retry := (old.map fun w => w.retry || w.outcome == some .unknown).getD false
  if cmd = 0x12 then put { sa := sa, step := .prepare, token := 0, last := none, retry := false, passes := 0, outcome := none }
  else if cmd = 0x13 then put { sa := sa, step := .commit, token := f 24 16, last := none, retry := false, passes := 0, outcome := none }
  else if cmd = 0x14 then put { sa := sa, step := .confirm, token := f 24 16, last := none, retry := retry, passes := passes, outcome := none }
  else if cmd = 0x05 ∧ content.getD 8 false = false then d.endAuth sa
  else d

/-- Bit periods of `period` carrier cycles go out for slot `i`: the tick that ends the command, and the block after it. -/
def Dev.putOnAir (d : Dev) (i fire depth period : Nat) (content : List Bool) (seqs : List DownSeq) : Nat × Dev :=
  let segs := d.sendSegs i
  let start := fire + 2 * d.sendStart fire segs
  let stop := start + 2 * (period * seqs.length)
  let dl : Downlink := { slot := i, segs := segs, depth := depth, content := content, crc := crc16 content, seqs := seqs, period := period,
                         start := start, stop := stop }
  (stop, d.inAir fun a => { a with downlinks := a.downlinks.filter (fun x => d.now < x.stop) ++ [dl] })

/-- A frame goes out for slot `i` (R107, R216). -/
def Dev.sendFrame (d : Dev) (i fire depth : Nat) (content : List Bool) : Nat × Dev :=
  let (stop, d) := d.putOnAir i fire depth 16 content (codeFrame content)
  let sa := msbNat (slice content 12 12)
  (stop, (d.noteWrite content).updSlot i fun x => { x with sent := some stop, target := if content.getD 8 false then none else some sa })

/-- Whether the frame may go out: an AUTH frame asks the Vault (R136, R366, R367). -/
def Dev.mayTransmit (d : Dev) (t : Nat) (content : List Bool) : Bool × Dev :=
  let f := fun o w => msbNat (slice content o w)
  if f 0 8 = 0x20 ∧ 40 ≤ content.length then
    d.askVault t (f 12 12) (f 24 4) (((List.range (f 32 8)).map fun i => BitVec.ofNat 8 (f (40 + 8 * i) 8)))
  else (true, d)

/-- SEND; a content length outside 1 to 1,024, no current slot, or an AUTH that the Vault does not serve, sends nothing and
the result is open. -/
def execSend (k : CallerId) (rd ra : GReg) (imm : BitVec 14) (s : State) : Out State :=
  effect s fun d => d.instr k fun d =>
    let a := (d.reg k ra).toNat
    let n := d.rf (dataWord k a) 0 11
    if 1791 < a then d.abortProgram k causeData
    else if 1791 < a + ceilDiv n 32 then d.abortProgram k causeData
    else
      match (d.caller k).cur with
      | some i =>
        if 1 ≤ n ∧ n ≤ 1024 then
          match d.mayTransmit (((d.caller k).fire.map (·.tenant)).getD 0) (d.sendBits k a n) with
          | (true, d) =>
            let (stop, d) := d.sendFrame i (d.fireTick k) (imm.toNat % 128) (d.sendBits k a n)
            d.result k rd (BitVec.ofNat 32 ((stop - d.fireTick k) / 2))
          | (false, d) =>
            let (v, d) := d.freeVal
            d.result k rd (BitVec.ofNat 32 v)
        else
          let (v, d) := d.freeVal
          d.result k rd (BitVec.ofNat 32 v)
      | none =>
        let (v, d) := d.freeVal
        d.result k rd (BitVec.ofNat 32 v)

/-- LISTEN; with no current slot there is nothing to time the window from, and none opens. -/
def execListen (k : CallerId) (ra rb : GReg) (s : State) : Out State :=
  effect s fun d => d.instr k fun d =>
    match d.laneForSlot (d.caller k).cur (d.reg k ra).toNat with
    | none => d.abortProgram k causeListen
    | some l =>
      let p := (d.reg k rb).toNat
      match (d.caller k).cur.bind fun i => (d.slot i).map fun x => (i, x) with
      | none => d.advance k
      | some (i, x) =>
        let w : RxWindow :=
          { slot := i, first := bitsOf p 0 5, gen := bitsOf p 5 2, anyGen := false, onbeat := p.testBit 7, offset := bitsOf p 8 6,
            hold := bitsOf p 14 4, rate := bitsOf p 18 2, z64 := p.testBit 20, cmdEnd := x.sent.getD d.now, tree := none, sa := x.target }
        (d.openWindow l w).advance k

def execRecv (k : CallerId) (rd ra : GReg) (imm : BitVec 14) (s : State) : Out State :=
  effect s fun d => d.instr k fun d =>
    let role := (d.reg k ra).toNat
    let l := (d.laneForSlot (d.caller k).cur role).getD role
    if (d.lane l).record.isSome then d.takeRecord k l rd imm.toNat
    else d.putCaller k fun c => { c with st := .frame l rd imm.toNat }

/-! ### Queues (R219, R263, R264) -/

/-- The program may push to queue `q`. -/
def Dev.mayPush (d : Dev) (k q : Nat) : Bool :=
  let job := ((d.caller k).fire.map (·.job)).getD false
  q < 64 && d.queueUsed q && d.queueSource q == 1 && d.queueOwner q == (if job then 0 else d.progTenant k)

def execPush (k : CallerId) (rd ra rb : GReg) (s : State) : Out State :=
  effect s fun d => d.instr k fun d =>
    let q := (d.reg k ra).toNat
    if !d.mayPush k q then (d.refuse k).result k rd 0
    else if (d.caller k).cut.contains q then d.result k rd 1
    else
      let (ok, d) := d.pushWord q (d.reg k rb) (some k)
      let d := d.putCaller k fun c => { c with cut := if ok then c.cut else c.cut ++ [q] }
      (d.result k rd 1).settlePool

/-- POP; from a queue that the program may not pop, the word is open. -/
def execPop (k : CallerId) (rd ra : GReg) (s : State) : Out State :=
  effect s fun d => d.instr k fun d =>
    let q := (d.reg k ra).toNat
    if q < 64 && d.queueUsed q && d.queueSource q == 2 && d.queueOwner q == d.progTenant k then
      let r := d.popWord q
      let d := r.dev.callerFlag k flagMarker r.word.marker
      ((d.when r.under fun d => d.callerFlag k flagUnder true).result k rd r.word.w).settlePool
    else
      let (v, d) := (d.callerFlag k flagMarker false).freeVal
      d.result k rd (BitVec.ofNat 32 v)

/-! ### Waits -/

def Dev.timeReached (d : Dev) (k target : Nat) : Bool := target ≤ d.progNow k

/-- The way that the Step's ring has gone since the firing, in 2⁻²⁴ revolution, and whole revolutions more. -/
def Dev.progWay (d : Dev) (k : Nat) : Nat :=
  match (d.caller k).fire with
  | none => 0
  | some f =>
    let r := d.ring f.ring
    let turns := r.count - f.rev
    if d.ringReverse f.ring then (f.frac + turns * 2 ^ 24) - r.frac else (r.frac + turns * 2 ^ 24) - f.frac

/-- The way from the firing fraction to `x` in the direction of rotation. -/
def Dev.wayTo (d : Dev) (k x : Nat) : Nat :=
  let f := ((d.caller k).fire.map (·.frac)).getD 0
  if d.ringReverse (d.progRing k) then (f + 2 ^ 24 - x % 2 ^ 24) % 2 ^ 24 else (x % 2 ^ 24 + 2 ^ 24 - f) % 2 ^ 24

def Dev.angleReached (d : Dev) (k frac : Nat) : Bool := d.ringValid (d.progRing k) && d.wayTo k frac ≤ d.progWay k

/-- The tag at `sa` is `cycles` carrier cycles short of the stator fraction `frac`, or past it, since the firing. -/
def Dev.pointReached (d : Dev) (k sa frac cycles : Nat) : Bool :=
  let x := d.progRing k
  match d.posOf sa with
  | none => false
  | some p => d.ringValid x && d.wayTo k ((frac + 2 ^ 24 - p) % 2 ^ 24) * 65536 ≤ d.progWay k * 65536 + 2 * cycles * (d.ring x).inc.natAbs

/-- The Caller goes on where its wait has ended. -/
def Dev.wake (d : Dev) (k : Nat) : Dev :=
  match (d.caller k).st with
  | .time t => if d.timeReached k t then d.advance k else d
  | .angle f => if d.angleReached k f then d.advance k else d
  | .point sa f c => if d.pointReached k sa f c then d.advance k else d
  | _ => d

def Dev.waitFor (d : Dev) (k : Nat) (w : CallerWait) : Dev := d.instr k fun d => (d.putCaller k fun c => { c with st := w }).wake k

def execWaitc (k : CallerId) (ra : GReg) (imm : BitVec 14) (s : State) : Out State :=
  effect s fun d => d.waitFor k (.time (d.reg k ra + imm.setWidth 32).toNat)

def execWaitcReached (k : CallerId) (s : State) : Out State := effect s fun d => d.wake k

def execWaita (k : CallerId) (ra : GReg) (s : State) : Out State := effect s fun d => d.waitFor k (.angle ((d.reg k ra).toNat % 2 ^ 24))

def execWaitaReached (k : CallerId) (s : State) : Out State := effect s fun d => d.wake k

def execWaitp (k : CallerId) (ra rb : GReg) (imm : BitVec 14) (s : State) : Out State :=
  effect s fun d => d.waitFor k (.point ((d.reg k rb).toNat % 4096) ((d.reg k ra).toNat % 2 ^ 24) imm.toNat)

def execWaitpReached (k : CallerId) (s : State) : Out State := effect s fun d => d.wake k

/-! ### Census and the rest -/

def execCen (k : CallerId) (rd ra : GReg) (imm : BitVec 14) (s : State) : Out State :=
  effect s fun d => d.instr k fun d =>
    let sa := (d.reg k ra).toNat % 4096
    match d.holder sa with
    | none => (d.callerFlag k flagNoent true).result k rd 0
    | some i =>
      if imm = 8 then d.result k rd (BitVec.ofNat 32 (d.lastBseq sa)) else d.result k rd (d.rword (cenBase + 8 * i + imm.toNat % 8))

/-- ENTRY: no operation (R213). -/
def execEntry (k : CallerId) (_imm : BitVec 14) (s : State) : Out State := effect s fun d => d.instr k fun d => d.advance k

/-- The opcodes that R213 defines. -/
def definedOp (op : Nat) : Bool :=
  op ≤ 0x14 || (0x18 ≤ op && op ≤ 0x24) || (0x28 ≤ op && op ≤ 0x2D) || (0x30 ≤ op && op ≤ 0x32) || op == 0x34 || op == 0x35
    || (0x38 ≤ op && op ≤ 0x3A) || op == 0x3C || op == 0x3D || op == 0x3F

def execUndefinedOpcode (k : CallerId) (op : BitVec 6) (s : State) : Out State :=
  effect s fun d => d.instr k fun d => if definedOp op.toNat then d else (d.abortProgram k causeOpcode).settleHeld

/-- A program is loaded in the Caller: it runs or waits. -/
def Dev.programLives (d : Dev) (k : Nat) : Bool :=
  match (d.caller k).st with
  | .idle => false
  | .takeOver b => b
  | _ => true

def Dev.programLimit (d : Dev) : Nat := 16 * max 1 (d.g CALL_CTRL_LIMIT)

def execProgramTimeout (k : CallerId) (s : State) : Out State :=
  effect s fun d => if d.programLives k && d.programLimit ≤ d.progNow k then (d.abortProgram k causeLimit).settleHeld else d

/-! ### Lockstep pairs (R221, R350) -/

/-- R221: the pair that serves Caller `k` stops and is marked failed; exchanges in progress are repeated (R13). -/
def Dev.mismatch (d : Dev) (k : Nat) : Dev :=
  let p := d.g CL_STATUS_PAIR k
  let d := (d.setBit CALL_PAIR_FAILED 0 p).set1 CALL_EVENTS_MISMATCH
  let d := d.when (p == 8) fun d => (d.p HEALTH_SPARES_PAIR 0 0).p CALL_PAIR_SPARE_FOR 0 15
  d.each ((List.range 8).filter fun j => d.g CL_STATUS_PAIR j == p) fun d j =>
    let live := d.programLives j
    (d.each (d.slotsOf j) Dev.repeatSlot).putCaller j fun c => { c with st := .takeOver live }

/-- The firing snapshot loaded into g1 to g7 (R211), other registers 0. -/
def Dev.loadFire (d : Dev) (k : Nat) (f : Fire) (restart : Bool) : Dev :=
  let w := f.word
  let vals : List Nat :=
    [0, f.sa, bitsOf (w 1) 24 8, bitsOf (w 3) 16 16, f.g4.toNat, bitsOf (w 1) 17 4, 256 * bitsOf (w 2) 14 4 + bitsOf (w 2) 18 8,
     bitOf (w 2) 26 + 2 * bitOf (w 2) 27 + 4 * f.ring]
  let fl := inField flagRestart 1 (flagOf restart) + inField flagReverse 1 (flagOf f.reverse) + inField flagLateFire 1 (flagOf f.late)
  let d := ((d.p CL_STEP_STEP k (if f.job then 0x3FFF else f.step)).p CL_STEP_TENANT k f.tenant).forgetRun k
  d.putCaller k fun c =>
    { c with st := .run, fire := some f, regs := Vector.ofFn fun i => BitVec.ofNat 32 (vals.getD i.val 0), pc := f.entry,
             cur := none, flags := fl, cut := [] }

/-- The pair that takes a logical Caller over: the spare, the neighbour's, or the lowest-numbered that works (R221, R350). -/
def Dev.pairFor (d : Dev) (k : Nat) : Option Nat :=
  if d.g CALL_PAIR_SPARE_FOR = 15 ∧ (d.g CALL_PAIR_FAILED).testBit 8 = false then some 8
  else (([k ^^^ 1] ++ List.range 8).find? fun j => j != k && d.pairWorks j).map fun j => d.g CL_STATUS_PAIR j

/-- R221: the take-over of logical Caller `k`. -/
def Dev.takeOver (d : Dev) (k : Nat) : Dev :=
  match (d.caller k).st with
  | .takeOver live =>
    let failed := d.g CL_STATUS_PAIR k
    match d.pairFor k with
    | none => ((d.set1 CALL_EVENTS_NO_SPARE).raise codeCallerLost k).putCaller k fun c => { c with st := .idle, queue := [] }
    | some p =>
      let lead := ((List.range 8).find? fun j => j != k && d.g CL_STATUS_PAIR j == p).getD k
      let d := d.p CL_STATUS_PAIR k p
      let d :=
        if p = 8 ∧ d.g CALL_PAIR_SPARE_FOR = 15 then
          (((d.p CALL_PAIR_SPARE_FOR 0 k).set1 CALL_EVENTS_SPARED).p HEALTH_SPARES_PAIR 0 0).raise codeCallerSpared k failed
        else (d.set1 CALL_EVENTS_NO_SPARE).raise codeCallerShared k lead failed
      match (d.caller k).fire with
      | some f => if live ∧ f.job = false then d.loadFire k f true else d.putCaller k fun c => { c with st := if live then .job else .idle }
      | none => d.putCaller k fun c => { c with st := .idle }
  | _ => d

def execLockstepMismatch (k : CallerId) (s : State) : Out State := effect s fun d => d.mismatch k

def execSpareTakeover (k : CallerId) (s : State) : Out State := effect s fun d => (d.takeOver k).settlePool

/-- R205: CALL_CTRL.HOLD. -/
def execHold (t : Tenant) (v : Bool) (s : State) : Out State := effect s fun d => d.hostWrite t 0x1220 fun d => d.pf CALL_CTRL_HOLD 0 v

end Sys2Proof.Machine
end

