-- ==== Sys2Proof/Machine/Service.lean ====
section
/-!
DEFINITION. The commissioning standards that a service job speaks on its segment: ISO/IEC 14443 Type A and ISO/IEC 15693
(07_census.md R196 to R199). The standards' own codes are presumed (notes/assumptions/128.md).
-/

-- One declaration after another: the package is compiled as one text under a memory limit.
set_option Elab.async false

namespace Sys2Proof.Machine

/-! ### Bytes, checks and codings -/

/-- The low `n` bits of `v`, least significant first, as both standards send them. -/
def lsbBits (n v : Nat) : List Bool := (List.range n).map v.testBit
def lsbNat (bs : List Bool) : Nat := bs.foldr (fun b n => 2 * n + flagOf b) 0
def svcBits (bs : List Nat) : List Bool := bs.flatMap (lsbBits 8)
def svcBytes (bs : List Bool) : List Nat := (chunks 8 bs).map lsbNat

def crcOver (init : Nat) (bs : List Nat) : Nat := (bs.map (BitVec.ofNat 8)).foldl (crcReflByte 0x8408) init
/-- CRC_A of ISO/IEC 14443-3 (R197), and the CRC of ISO/IEC 15693-3 (R198). -/
def crcA (bs : List Nat) : Nat := crcOver 0x6363 bs
def crcV (bs : List Nat) : Nat := crcOver 0xFFFF bs ^^^ 0xFFFF

def withCrc (crc : List Nat → Nat) (bs : List Nat) : List Nat := bs ++ [crc bs % 256, crc bs / 256]

/-- The bytes before a CRC that holds. -/
def crcBody (crc : List Nat → Nat) (bs : List Nat) : Option (List Nat) :=
  let body := bs.take (bs.length - 2)
  if 2 < bs.length ∧ withCrc crc body = bs then some body else none

/-- Odd parity after each whole byte (ISO/IEC 14443-3). -/
def oddParity (bits : List Bool) : List Bool :=
  (chunks 8 bits).flatMap fun c => if c.length = 8 then c ++ [(c.filter id).length % 2 == 0] else c

/-- Modified Miller: start, the bits, a logic 0 and a period without modulation (R197). -/
def millerSeqs (bits : List Bool) : List DownSeq := [.z] ++ codeBits false (bits ++ [false]) ++ [.y]

/-- One pause among `n` chips. -/
def chipAt (n : Nat) (ps : List Nat) : List DownSeq := (List.range n).map fun i => if ps.contains i then .full else .y

/-- 1-out-of-4: two bits in 8 chips of 128 carrier cycles, between SOF and EOF (R198). -/
def oneOfFour (bits : List Bool) : List DownSeq :=
  chipAt 8 [0, 5] ++ ((chunks 2 bits).flatMap fun c => chipAt 8 [2 * lsbNat c + 1]) ++ chipAt 4 [2]

/-! ### What is sent -/

/-- FSC, the greatest frame that the tag takes; FSCI above 8 is taken as 8 (R197). -/
def Service.fsc (s : Service) : Nat := [16, 24, 32, 40, 48, 64, 96, 128, 256].getD (if s.ats.length < 2 then 2 else s.ats.getD 1 0 % 16) 256

/-- The bytes of INF that one I-block carries, and whether the request needs more than one. -/
def Service.room (s : Service) : Nat := s.fsc - 3
def Service.more (s : Service) : Bool := s.room < s.out.length

/-- DRI and DSI of PPS, each as fast as the ATS offers up to 848 kbit/s; equal where the tag asks for it (R197). -/
def Service.offered (s : Service) : Nat × Nat :=
  let ta := if (s.ats.getD 1 0).testBit 4 then s.ats.getD 2 0 else 0
  let top := fun lo => if ta.testBit (lo + 2) then 3 else if ta.testBit (lo + 1) then 2 else if ta.testBit lo then 1 else 0
  if ta.testBit 7 then (min (top 0) (top 4), min (top 0) (top 4)) else (top 0, top 4)

/-- SEL of a cascade level. -/
def Service.sel (s : Service) : Nat := 0x93 + 2 * (s.level - 1)

/-- The data bits of the next frame, without parity. -/
def Service.frame (s : Service) : List Bool :=
  let a := fun bs => svcBits (withCrc crcA bs)
  let v := fun bs => svcBits (withCrc crcV bs)
  match s.step with
  | .reqa => lsbBits 7 0x26
  | .anticoll => svcBits [s.sel, (2 + s.known.length / 8) * 16 + s.known.length % 8] ++ s.known
  | .select => a ([s.sel, 0x70] ++ svcBytes s.known)
  | .rats => a [0xE0, 0x80]
  | .pps => a [0xD0, 0x11, 4 * s.rates.2 + s.rates.1]
  | .block =>
    match s.say with
    | .info => a ((0x02 + s.bn + if s.more then 0x10 else 0) :: s.out.take s.room)
    | .ack => a [0xA2 + s.bn]
    | .nak => a [0xB2 + s.bn]
    | .wtx m => a [0xF2, m]
  | .deselect => a [0xC2]
  | .halt => a [0x50, 0x00]
  | .inventory => let m := s.masks.headD (0, 0); v ([0x06, 0x01, m.1] ++ (List.range (ceilDiv m.1 8)).map fun i => m.2 / 256 ^ i % 256)
  | .sysInfo => v ([0x22, 0x2B] ++ s.uid)
  | .read => v ([0x22, 0x20] ++ s.uid ++ [s.next])
  | .request => v ([0x22, s.out.headD 0] ++ s.uid ++ s.out.drop 1)
  | .quiet => v ([0x22, 0x02] ++ s.uid)
  | .fetch | .over => []

def SvcStep.vicinity (s : SvcStep) : Bool := [SvcStep.inventory, .sysInfo, .read, .request, .quiet].contains s

/-- The bit periods of the next frame, and their length in carrier cycles: 128 divided by the rate, 106 kbit/s until PPS. -/
def Service.coded (s : Service) : Nat × List DownSeq :=
  if s.step.vicinity then (128, oneOfFour s.frame)
  else (if s.step = .pps then 128 else 128 / 2 ^ s.rates.1, millerSeqs (oddParity s.frame))

/-! ### What is heard -/

/-- A record's KIND, STATUS and payload (R199). -/
abbrev SvcRecords := List (Nat × Nat × List Nat)

/-- 0x01 and 0x03. -/
def Service.identityA (s : Service) (status : Nat) : Nat × Nat × List Nat := (0x01, status, s.uid ++ s.atqa ++ [s.sak] ++ s.ats)
def Service.identityV (s : Service) (status : Nat) (info : List Nat) : Nat × Nat × List Nat := (0x03, status, s.uid ++ [s.dsfid] ++ info)

/-- An activation that fails ends the search. -/
def Service.giveUp (s : Service) (status : Nat) : Service × SvcRecords := ({ s with step := .over }, [s.identityA status])

/-- The next request on a Type A tag: one on ISO-DEP, where the tag has it; others are not supported. With none left the tag is
ended. -/
def Service.nextA (s : Service) : List (Nat × List Nat) → Service × SvcRecords
  | [] => ({ s with reqs := [], step := if s.sak.testBit 5 then .deselect else .halt }, [])
  | (k, bs) :: rest =>
    if s.sak.testBit 5 ∧ k = 0x02 then ({ s with reqs := rest, step := .block, out := bs, inn := [], say := .info, tries := 0 }, [])
    else
      let (s', r) := ({ s with done := s.done + 1 } : Service).nextA rest
      (s', (0x02, 4, []) :: r)

/-- Commands of ISO/IEC 15693 that a request may name (R198). -/
def vicinityCmds : List Nat := [0x20, 0x21, 0x23, 0x24, 0x25, 0x26, 0x2B]

/-- The next request on a 15693 tag; a frame is at most 256 bytes. -/
def Service.nextV (s : Service) : List (Nat × List Nat) → Service × SvcRecords
  | [] => ({ s with reqs := [], step := .quiet }, [])
  | (k, bs) :: rest =>
    if k = 0x04 ∧ vicinityCmds.contains (bs.headD 0) = true ∧ bs.length + 11 ≤ 256 then ({ s with reqs := rest, step := .request, out := bs }, [])
    else
      let (s', r) := ({ s with done := s.done + 1 } : Service).nextV rest
      (s', (0x04, 4, []) :: r)

/-- The requests that T0 has placed begin. -/
def Service.start (s : Service) (vicinity : Bool) (reqs : List (Nat × List Nat)) : Service × SvcRecords :=
  if vicinity then s.nextV reqs else s.nextA reqs

/-- A Type A request ends with a status. -/
def Service.answered (s : Service) (status : Nat) : Service × SvcRecords :=
  let (s', r) := ({ s with done := s.done + 1 } : Service).nextA s.reqs
  (s', (0x02, status, s.inn) :: r)

/-- ISO-DEP (R197): I-blocks with chaining, R(ACK), S(WTX), and R(NAK) after an answer that did not come whole. -/
def Service.hearBlock (s : Service) (silent : Nat) (body : Option (List Nat)) : Service × SvcRecords :=
  match body with
  | none => if s.tries < 2 then ({ s with say := .nak, tries := s.tries + 1 }, []) else s.answered silent
  | some b =>
    let pcb := b.headD 0
    let inf := b.drop 1
    if pcb &&& 0xE2 = 0x02 then
      let s := { s with inn := s.inn ++ inf, bn := 1 - s.bn, tries := 0 }
      if pcb.testBit 4 then ({ s with say := .ack }, []) else s.answered 0
    else if pcb &&& 0xF6 = 0xA2 then
      if pcb % 2 = s.bn ∧ s.more = true then ({ s with out := s.out.drop s.room, bn := 1 - s.bn, say := .info, tries := 0 }, [])
      else if s.tries < 2 then ({ s with say := .info, tries := s.tries + 1 }, [])
      else s.answered 3
    else if pcb &&& 0xF7 = 0xF2 then ({ s with say := .wtx (inf.headD 0 % 64), tries := 0 }, [])
    else s.answered 3

/-- The next 15693 tag found, or the end of the job. -/
def Service.nextCard (s : Service) : Service :=
  match s.cards with
  | [] => { s with step := .over }
  | c :: rest => { s with cards := rest, uid := c.drop 1, dsfid := c.headD 0, found := s.found + 1, step := .sysInfo, next := 0, inn := [] }

/-- The status of a 15693 answer, and its bytes after the flags. -/
def vicinityAnswer (silent : Nat) (bs : List Nat) : Nat × List Nat :=
  match crcBody crcV bs with
  | none => (silent, [])
  | some b => if b.headD 0 % 2 = 1 then (3, b.drop 1) else (0, b.drop 1)

/-- What an answer means to the exchange that has been sent; `blocks` is CENSUS_CMD.ARG. -/
def Service.hear (s : Service) (blocks : Nat) (a : Option (List Bool × Option Nat)) : Service × SvcRecords :=
  let bs := (a.map fun r => svcBytes r.1).getD []
  let silent := if a.isNone then 1 else 2
  match s.step with
  | .reqa =>
    if a.isNone then ({ s with step := .over }, [])
    else ({ s with step := .anticoll, level := 1, known := [], uid := [], atqa := bs.take 2, sak := 0, ats := [], rates := (0, 0), bn := 0 }, [])
  | .anticoll =>
    match a with
    | none => s.giveUp 1
    | some (bits, some p) =>
      if s.known.length + p < 32 then ({ s with known := s.known ++ bits.take p ++ [true] }, []) else s.giveUp 3
    | some (bits, none) =>
      let all := s.known ++ bits
      if all.length = 40 ∧ ((svcBytes all).take 4).foldl (· ^^^ ·) 0 = (svcBytes all).getD 4 0 then ({ s with step := .select, known := all }, [])
      else s.giveUp 3
  | .select =>
    match crcBody crcA bs with
    | none => s.giveUp silent
    | some b =>
      let sak := b.headD 0
      let u := svcBytes s.known
      if sak.testBit 2 then
        if s.level < 3 then ({ s with step := .anticoll, level := s.level + 1, known := [], uid := s.uid ++ (u.drop 1).take 3 }, [])
        else s.giveUp 3
      else
        let s := { s with uid := s.uid ++ u.take 4, sak := sak, found := s.found + 1 }
        if sak.testBit 5 then ({ s with step := .rats }, []) else ({ s with step := .fetch }, [s.identityA 0])
  | .rats =>
    match crcBody crcA bs with
    | none => ({ s with step := .halt }, [s.identityA silent])
    | some b =>
      let s := { s with ats := b }
      (if s.offered = (0, 0) then { s with step := .fetch } else { s with rates := s.offered, step := .pps }, [s.identityA 0])
  | .pps => (if crcBody crcA bs = some [0xD0] then { s with step := .fetch } else { s with rates := (0, 0), step := .fetch }, [])
  | .block => s.hearBlock silent (crcBody crcA bs)
  | .deselect => ({ s with step := .halt }, [])
  | .halt => ({ s with step := .reqa }, [])
  | .sysInfo =>
    let r := vicinityAnswer silent bs
    (if blocks = 0 then { s with step := .fetch } else { s with step := .read }, [s.identityV r.1 r.2])
  | .read =>
    let r := vicinityAnswer silent bs
    let s := { s with inn := s.inn ++ r.2, next := s.next + 1 }
    if r.1 = 0 ∧ s.next < min blocks 256 then (s, []) else ({ s with step := .fetch }, [(0x04, if r.1 = 0 ∧ 256 < blocks then 4 else r.1, s.inn)])
  | .request =>
    let r := vicinityAnswer silent bs
    let (s', l) := ({ s with done := s.done + 1 } : Service).nextV s.reqs
    (s', (0x04, r.1, r.2) :: l)
  | .quiet => (s.nextCard, [])
  | .inventory | .fetch | .over => (s, [])

/-- The 16 slots of an inventory: a tag alone in its slot is found; a slot that collides is asked again with its 4 bits added to the
mask (R198). -/
def Service.hearSlots (s : Service) (answers : List (Option (List Bool × Option Nat))) : Service :=
  let m := s.masks.headD (0, 0)
  let each := fun (s : Service) (p : Option (List Bool × Option Nat) × Nat) =>
    match p.1 with
    | none => s
    | some (bits, c) =>
      match if c.isNone then crcBody crcV (svcBytes bits) else none with
      | some b => { s with cards := s.cards ++ [(b.drop 1).take 9] }
      | none => if m.1 < 60 then { s with masks := s.masks ++ [(m.1 + 4, m.2 + p.2 * 2 ^ m.1)] } else s
  let s := answers.zipIdx.foldl each { s with masks := s.masks.drop 1 }
  if s.masks.isEmpty then s.nextCard else s

/-- A service job at its start. -/
def newService (step : SvcStep) : Service :=
  { step := step, level := 1, known := [], uid := [], atqa := [], sak := 0, ats := [], dsfid := 0, rates := (0, 0), bn := 0, say := .info,
    tries := 0, out := [], inn := [], next := 0, reqs := [], masks := if step = .inventory then [(0, 0)] else [], cards := [], found := 0, done := 0 }

/-! ### The queues and the lanes of a service job (R196, R199) -/

/-- The requests in T0's queue: a header with KIND in [31:24] and n in [15:0], then n bytes, as in the records. -/
def Dev.takeRequests (d : Dev) (q : Nat) : Nat → List (Nat × List Nat) × Dev
  | 0 => ([], d)
  | fuel + 1 =>
    if (d.queue q).depth = 0 then ([], d)
    else
      let h := d.popWord q
      let w := h.word.w.toNat
      let n := bitsOf w 0 16
      let words := (List.range (min (ceilDiv n 4) (h.dev.queue q).depth)).foldl
        (fun (p : List Nat × Dev) _ => let r := p.2.popWord q; (p.1 ++ [r.word.w.toNat], r.dev)) ([], h.dev)
      let (l, d) := words.2.takeRequests q fuel
      ((bitsOf w 24 8, (words.1.flatMap fun x => (leBytes 4 x).map BitVec.toNat).take n) :: l, d)

/-- The lowest-numbered queue that T0 owns with SOURCE 1 (R199). -/
def Dev.serviceOut (d : Dev) : Option Nat := (List.range 64).find? fun q => d.queueUsed q && d.queueOwner q == 0 && d.queueSource q == 1

/-- A record to that queue (R199). -/
def Dev.pushService (d : Dev) (r : Nat × Nat × List Nat) : Dev :=
  let (kind, status, bs) := r
  match d.serviceOut with
  | none => d
  | some out =>
    (d.pushItem out (BitVec.ofNat 32 (inField 24 8 kind + inField 16 8 status + inField 0 16 bs.length)
      :: (wordsOf (bs.map (BitVec.ofNat 8))).map (BitVec.ofNat 32))).2

/-- What the tags under the segment answer to `n` slots of the frame. -/
def Dev.cardAnswers (d : Dev) (frame : List Bool) : Nat → List (Option (List Bool × Option Nat)) × Dev
  | 0 => ([], d)
  | n + 1 =>
    let a := Config.cardReply d.freeCtr frame
    let (l, d) := d.freeVal.2.cardAnswers frame n
    (a :: l, d)

/-- A lane of the job reports what its service demodulator has heard, in its frame record (R196): the bytes, and OK, a collision or
no reply. -/
def Dev.reportService (d : Dev) (i : Nat) (a : Option (List Bool × Option Nat)) (l : Nat) : Dev :=
  match (d.lane l).win with
  | none => d
  | some w =>
    if w.slot ≠ i then d
    else
      let status := match a with
        | none => 2 ^ stNoReply
        | some (_, some _) => 2 ^ stCollided
        | some (_, none) => 2 ^ stOk
      let pay := (chunks 2 ((a.map fun r => svcBytes r.1).getD [])).map fun b => BitVec.ofNat 16 (b.getD 0 0 * 256 + b.getD 1 0)
      d.closeWindow l (recordOf w status 0 none newChain 0 []) pay

end Sys2Proof.Machine
end

