-- ==== Sys2Proof/Machine/Job.lean ====
section
/-!
DEFINITION. Census jobs and the start of programs (07_census.md R183 to R199, R412; 08_figures_callers.md R211).
-/

-- One declaration after another: the package is compiled as one text under a memory limit.
set_option Elab.async false

namespace Sys2Proof.Machine

/-! ### Exchanges on the air (R120, R121, R183) -/

def jobHeader (cmd flg sa : Nat) : List Bool := msbBits 8 cmd ++ msbBits 4 flg ++ msbBits 12 sa

/-- FLG: BC and ONBEAT (R114). -/
abbrev flgBeat : Nat := 4
abbrev flgBcBeat : Nat := 12

def readMemBits (sa addr nw upl : Nat) : List Bool := jobHeader 0x11 flgBeat sa ++ msbBits 16 addr ++ msbBits 8 nw ++ msbBits 4 upl ++ msbBits 4 0

/-- Generations that a ring serves (R35). -/
def Dev.serves (d : Dev) (x g : Nat) : Bool :=
  g == 1 || g == 2 ||
    (g == 3 && ((d.reel.active.map (·.format)).getD 1 == 2) && ((d.ringDef x).map RingDef.j3En).getD false)

/-- What SETGEN asks of an entry's tag (R126): generation, rate, Z, SELF. -/
def Dev.setgenChoice (d : Dev) (i : Nat) : Option (Nat × Nat × Bool × Bool) :=
  let caps := d.entCaps i
  let x := d.entRing i
  let w1 := (assocGet i d.cen.caps1).getD 0x8000
  let g := ([3, 2, 1].find? fun g => caps.testBit (4 + g) && d.serves x g)
  g.map fun g =>
    if g = 1 then (1, 0, false, false)
    else
      let top := if g = 2 then [1, 0] else [2, 1, 0]
      let rate := (top.find? fun r => w1.testBit (15 - r)).getD 0
      (g, rate, caps.testBit 0, g == 3 && caps.testBit 4)

/-- What the reply window of a job's exchange expects: a generation, none for any, with the rate and Z of the reply, and OFFSET. -/
structure Expect where
  gen : Option Nat
  rate : Nat
  z64 : Bool
  offset : Nat

/-- A J1 reply, or one at rate 1/2 with Z = 32 in a generation. -/
def plainReply (gen : Option Nat) (offset : Nat) : Expect := ⟨gen, 0, false, offset⟩

/-- A reply in what the entry's tag has negotiated. -/
def Dev.entryReply (d : Dev) (i : Nat) : Expect :=
  ⟨if d.entGen i = 0 then some 1 else none, d.ce i 2 18 2, d.ce i 2 20 1 == 1, d.ce i 3 8 6⟩

/-- The content of a step's command, and the reply that its windows expect (R120, R126, R186 to R189, R195, R412). An ACK of SETGEN
comes in what SETGEN sets, a NAK in J1. -/
def Dev.jobFrame (d : Dev) (st : JobStep) : List Bool × Expect :=
  let at? := fun (i : Nat) => d.ce i 3 8 6
  match st with
  | .tree l pre => (jobHeader 0x01 flgBcBeat 0 ++ msbBits 6 l ++ msbBits 2 0 ++ msbBits 64 pre, plainReply (some 1) 0)
  | .assign i =>
    let sa := d.entSa i
    (jobHeader 0x02 flgBcBeat 0 ++ msbBits 64 (d.entUid i) ++ msbBits 12 sa ++ msbBits 6 (sa % 64) ++ msbBits 2 0, plainReply (some 1) (sa % 64))
  | .readId i => (readMemBits (d.entSa i) 0 0x48 0, plainReply (some 1) (at? i))
  | .setgen i =>
    let (g, r, z, self) := (d.setgenChoice i).getD (1, 0, false, false)
    (jobHeader 0x03 flgBeat (d.entSa i) ++ msbBits 2 g ++ msbBits 2 r ++ [z, self] ++ msbBits 2 0, ⟨none, r, z, at? i⟩)
  | .pingUid _ i => (jobHeader 0x07 flgBeat (d.entSa i), { d.entryReply i with gen := none })
  | .release sa => (jobHeader 0x05 flgBeat sa, plainReply none (sa % 64))
  | .retire i => (jobHeader 0x05 flgBeat (d.entSa i), { d.entryReply i with gen := none })
  | .seed sa gen _ _ => (readMemBits sa 0 12 (if gen = 1 then 0xC else 0), plainReply (some gen) (sa % 64))
  | .scan sa => (jobHeader 0x07 flgBeat sa, plainReply none (sa % 64))
  | .found sa gen => (readMemBits sa 0 12 (if gen = 1 then 0xC else 0), plainReply (some gen) (sa % 64))
  | .plan i k => (readMemBits (d.entSa i) (8 + 4 * k) 4 0, plainReply (some (if d.entGen i = 0 then 1 else d.entGen i)) (at? i))
  | .service => ([], plainReply none 0)

/-- The entry whose pass a step's exchange is (R182). -/
def Dev.passSa (d : Dev) (st : JobStep) : Option Nat :=
  match st with
  | .assign i | .readId i | .setgen i | .pingUid _ i | .plan i _ | .retire i => some (d.entSa i)
  | .seed sa _ _ _ | .scan sa | .found sa _ => some sa
  | .tree _ _ | .release _ | .service => none

/-- The segments that a job's exchange drives: the ring's, or the service segment (R183, R196). -/
def Dev.jobSegs (d : Dev) (j : Job) : List Nat :=
  if j.kind = .serviceA ∨ j.kind = .serviceV then [j.seg]
  else (((d.ringDef j.ring).map RingDef.segs).getD []).filter fun n => !d.segIsRetired n

/-- The lanes in service whose home window lies on the ring. -/
def Dev.jobLanes (d : Dev) (x : Nat) : List Nat :=
  (List.range 20).filter fun l => d.laneMode l == 1 && d.ringOfSeg (d.homeOf (d.g LN_CFG_ROLE_OF l)).first == some x

def Dev.updJob (d : Dev) (f : Job → Job) : Dev := d.inCen fun c => { c with job := c.job.map f }

def Dev.jobCaller (d : Dev) : Nat := d.g CENSUS_JOB_CALLER

/-- The downlink goes out and the windows open, once every segment that the exchange holds is in DRIVE (R183). -/
def Dev.jobDrive (d : Dev) : Dev :=
  match d.cen.job with
  | none => d
  | some j =>
    match j.phase, j.slot, j.step with
    | .driving, some i, some st =>
      let own := (List.range 24).filter fun n => d.hasGranted n (.slot i)
      if (d.fld.claims.any fun c => c.owner == .slot i) || (own.any fun n => d.segState n != segDrive) then d
      else
        let (bits, want) := d.jobFrame st
        let fire := d.fireTick d.jobCaller
        let (stop, d) :=
          if st = .service then
            let (period, seqs) := j.svc.coded
            let (stop, d) := d.putOnAir i fire 100 period [] seqs
            (stop, d.updSlot i fun x => { x with sent := some stop, target := none })
          else d.sendFrame i fire 0 bits
        let win : RxWindow :=
          { slot := i, first := 0, gen := want.gen.getD 1, anyGen := want.gen.isNone, onbeat := st != .service, offset := want.offset, hold := 15,
            rate := want.rate, z64 := want.z64, cmdEnd := stop, tree := none, sa := none }
        let d := d.each (d.jobLanes j.ring) fun d l =>
          let w := { win with first := (d.homeOf (d.g LN_CFG_ROLE_OF l)).first }
          match st with
          | .tree _ _ => (d.openWindow l { w with tree := some 0 }).openWindow l { w with tree := some 1 }
          | _ => d.openWindow l w
        d.updJob fun j => { j with phase := .listening }
    | _, _, _ => d

/-- A job's exchange starts on its Caller: a JOB slot, and the ring-wide claims and ramps (R183). -/
def Dev.startExchange (d : Dev) (k : Nat) (f : Fire) : Dev :=
  match d.cen.job with
  | none => d
  | some j =>
    let prio := d.g CENSUS_JOB_PRIO
    let amp := d.g CENSUS_JOB_AMP
    let (i, d) := d.takeSlot (newSlot .job (some k) none 0 prio f.mask)
    let d := (d.p CL_STEP_STEP k 0x3FFF).p CL_STEP_TENANT k 0
    let d := d.putCaller k fun c => { c with st := .job, fire := some f, cur := some i, flags := 0, cut := [] }
    let d := d.each (d.jobSegs j) fun d n =>
      match d.claimTokens { seg := n, owner := .slot i, tokens := d.tokens n amp, prio := prio, cycle := d.cycle, caller := k } false with
      | (true, d) => d
      | (false, d) => d.hold n i amp .level
    (d.updJob fun j => { j with phase := .driving, slot := some i, replies := [] }).jobDrive

/-- A ramp reaches its end (R59, R68); it may be the last that a job's exchange waits for. -/
def execRampEnd (n : Seg) (s : State) : Out State := effect s fun d => (d.endRamp n).jobDrive

/-! ### Programs (R209, R211) -/

/-- Of two entries the one that a Caller takes first: PRIO, then firing tick. -/
def entryFirst (a b : Fire) : Bool := decide (b.prio < a.prio) || (a.prio == b.prio && decide (a.tick < b.tick))

/-- The entry that Caller `k` takes next. -/
def Dev.nextEntry (d : Dev) (k : Nat) : Option Fire := (sortBy entryFirst (d.caller k).queue).head?

/-- Another logical Caller on the same pair runs, or its entry goes first (R350). -/
def Dev.pairTaken (d : Dev) (k : Nat) (f : Fire) : Bool :=
  (List.range 8).any fun j => j != k && d.g CL_STATUS_PAIR j == d.g CL_STATUS_PAIR k &&
    (d.programLives j || (match d.nextEntry j with
      | some g => entryFirst g f || (!entryFirst f g && decide (j < k))
      | none => false))

/-- Every segment that the last program of Caller `k` still drove at its end has begun its ramp (R217). -/
def Dev.fallsBegun (d : Dev) (k : Nat) : Bool := (d.caller k).falls.all fun n => ((d.seg n).ramp.map (·.begun)).getD true

/-- R211: Caller `k` takes its next entry. A job's exchange waits for a slot. -/
def Dev.startProgram (d : Dev) (k : Nat) : Dev :=
  match (d.caller k).st, d.nextEntry k with
  | .idle, some f =>
    if !d.pairWorks k || d.pairTaken k f || !d.fallsBegun k || (f.job && (d.cen.job.isNone || !d.slotFor .job)) then d
    else
      let d := d.putCaller k fun c => { c with queue := c.queue.erase f }
      if f.job then d.startExchange k f else d.loadFire k f false
  | _, _ => d

def execProgramStart (k : CallerId) (s : State) : Out State := effect s fun d => d.startProgram k

/-! ### Starting and ending jobs (R183, R185, R412) -/

def newJob (kind : JobKind) (ring seg blocks : Nat) : Job :=
  { kind := kind, ring := ring, seg := seg, blocks := blocks, phase := .place, step := none, todo := [], stack := [], list := [], rings := [],
    assignedPass := 0, scanning := false, queries := 0, assigned := 0, replies := [], slot := none, stop := false,
    svc := newService (if kind = .serviceV then .inventory else .reqa) }

def JobKind.code (k : JobKind) : Nat :=
  match k with
  | .walk => 1
  | .rebuild => 2
  | .serviceA => 3
  | .serviceV => 4
  | .entry => 5

def Dev.putJob (d : Dev) (j : Job) : Dev :=
  ((d.inCen fun c => { c with job := some j }).p CENSUS_STATUS_JOB 0 j.kind.code).p CENSUS_STATUS_RING 0 j.ring

/-- The SAs of a ring's range, with those that an ECC loss left to the scan (R195, R200). -/
def Dev.scanList (d : Dev) (x : Nat) : List Nat :=
  let first := d.g CENSUS_RING_SA_FIRST x
  let range := (List.range (d.g CENSUS_RING_SA_LAST x + 1 - first)).map (· + first)
  range ++ ((d.cen.scanAdd.filter fun q => q.1 == x && !range.contains q.2).map (·.2))

/-- The seeded stage of ring `x`, which uses up its checkpoint records (R195). -/
def Dev.rebuildRing (d : Dev) (j : Job) (x : Nat) : Job × Dev :=
  let seeds := d.cen.seeds.filter fun q => q.1 == x
  let todo := seeds.map fun q => JobStep.seed q.2.1 (max 1 q.2.2.2) 0 q.2.2.1
  let j := { j with ring := x, todo := todo, list := d.scanList x, scanning := false }
  let d := d.inCen fun c => { c with seeds := c.seeds.filter fun q => q.1 != x, scanAdd := c.scanAdd.filter fun q => q.1 != x }
  (j, (d.p CENSUS_STATUS_RING 0 x).p CENSUS_REBUILD_SCAN 0 0)

/-- R195: a rebuild of the rings `xs`. -/
def Dev.startRebuild (d : Dev) (xs : List Nat) : Dev :=
  match xs with
  | [] => d
  | x :: rest =>
    let d := (d.p CENSUS_REBUILD_SEEDED 0 0).p CENSUS_REBUILD_FOUND 0 0
    let (j, d) := d.rebuildRing (newJob .rebuild x 0 0) x
    d.putJob { j with rings := rest }

/-- The job ends; CENSUS_WALK takes the snapshot of a walk. A WALK or REBUILD that ends lets the ENTRY list be served (R201, R412). -/
def Dev.endJob (d : Dev) : Dev :=
  match d.cen.job with
  | none => d
  | some j =>
    let serve := j.kind = .walk ∨ j.kind = .rebuild
    let d := d.when (j.kind == .walk) fun d => (d.p CENSUS_WALK_QUERIES 0 j.queries).p CENSUS_WALK_ASSIGNED 0 j.assigned
    let d := d.inCen fun c => { c with job := none, serve := c.serve || decide serve }
    ((((d.p CENSUS_STATUS_JOB 0 0).p CENSUS_STATUS_DEPTH 0 0).p CENSUS_STATUS_STACK 0 0).p CENSUS_REBUILD_SCAN 0 0).settleHeld

/-- DISC_RPM, at most 600. -/
def Dev.discRpm (d : Dev) : Nat := min 600 (d.g CENSUS_MISS_DISC_RPM)

/-- The speed of ring `x` is at or above a limit in rpm (R82, R185). -/
def Dev.atSpeed (d : Dev) (x rpm : Nat) : Bool := rpm * 2 ^ 40 ≤ (d.ring x).inc.natAbs * 27120000 * 60

/-- The walk's stack, and CENSUS_STATUS.STACK with it. -/
def Dev.putStack (d : Dev) (l : List (Nat × Nat)) : Dev := (d.updJob fun j => { j with stack := l }).p CENSUS_STATUS_STACK 0 l.length

/-- R185, WALK. -/
def Dev.walkCmd (d : Dev) (x : Nat) : Dev :=
  if d.jobRuns || (d.ringDef x).isNone || d.atSpeed x d.discRpm || !(d.ringValid x || d.ringStill x) then d.cmdRefused
  else ((d.putJob (newJob .walk x 0 0)).putStack [(0, 0)]).p CENSUS_STATUS_PASS 0 1

/-- R185, REBUILD. -/
def Dev.rebuildCmd (d : Dev) (x : Nat) : Dev :=
  if d.jobRuns || (d.ringDef x).isNone then d.cmdRefused else d.startRebuild [x]

/-- R185, SERVICE_A and SERVICE_V. -/
def Dev.serviceCmd (d : Dev) (kind : JobKind) (x seg blocks : Nat) : Dev :=
  let q := d.g CENSUS_JOB_QUEUE
  let qOk := d.queueUsed q && d.queueOwner q == 0 && d.queueSource q == 2
  let ok := match d.ringDef x with
    | none => false
    | some e => e.service
  if d.jobRuns || !ok || d.atSpeed x 60 || !qOk || d.serviceOut.isNone then d.cmdRefused
  else d.putJob (newJob kind x seg blocks)

/-! ### Results (R186 to R189, R195, R412) -/

def JobReply.ok (r : JobReply) : Bool := r.status.testBit stOk
def JobReply.ty (r : JobReply) : Nat := bitsOf r.header 16 4
def JobReply.collided (r : JobReply) : Bool :=
  [stCrcErr, stHdrErr, stCollided, stCaptured, stLaneFail].any fun b => r.status.testBit b
def JobReply.uid (r : JobReply) : Nat := r.payload.foldl (fun n w => n * 65536 + w.toNat) 0

/-- The OK reply of a type, if one came. -/
def okReply (rs : List JobReply) (ty : Nat) : Option JobReply := rs.find? fun r => r.ok && r.ty == ty

/-- Every lane closed with NO_REPLY, or failed before it heard any (R148, R182). -/
def noReply (rs : List JobReply) : Bool := rs.all fun r => r.status.testBit stNoReply || r.status.testBit stLaneFail

/-- R188: a UID is duplicate. -/
def Dev.declareDuplicate (d : Dev) (x uid : Nat) : Dev :=
  let mark := fun (d : Dev) (i : Nat) => d.putState i stDuplicate
  let d := match d.uidEntry uid with
    | some i =>
      let sa := d.entSa i
      mark (d.when (holdsSa (d.entState i)) fun d => d.updJob fun j => { j with todo := .release sa :: j.todo }) i
    | none =>
      match d.freeEntryOf with
      | (none, d) => d
      | (some i, d) => mark ((d.wws (cenBase + 8 * i) [lo32 uid, hi32 uid, 0, 0, 0, 0, 0, 0]).putCe i 2 22 2 x) i
  (d.set1 CENSUS_EVENTS_DUPLICATE).raise codeDuplicate x (lo32 uid) (hi32 uid)

/-- R187: a UID that the walk identifies. -/
def Dev.identify (d : Dev) (x uid : Nat) : Dev :=
  match d.uidEntry uid with
  | some i =>
    let st := d.entState i
    if st = stRetiring ∨ st = stRetired then d.set1 CENSUS_EVENTS_RETIRED_SEEN
    else if st = stDuplicate then d
    else d.updJob fun j => { j with todo := j.todo ++ [.pingUid uid i] }
  | none =>
    match d.freeEntryOf with
    | (none, d) => d.bump CENSUS_ERR_B_TABLE_FULL
    | (some i, d) =>
      match d.freeSa x with
      | none => d.bump CENSUS_ERR_B_SA_FULL
      | some sa =>
        let d := d.wws (cenBase + 8 * i)
          [lo32 uid, hi32 uid, inField 0 12 sa + inField 12 3 stCandidate + inField 22 2 x, inField 8 6 sa, 0, 0, 0, 0]
        d.updJob fun j => { j with todo := j.todo ++ [.assign i] }

/-- Two lanes' channels meet or stand next to each other in cover order (R188). -/
def Dev.windowsMeet (d : Dev) (a b : List Nat) : Bool := a.any fun x => b.any fun y => x == y || d.coverPair x y

/-- One slot of a TREE query (R186). -/
def Dev.treeSlot (d : Dev) (x l pre : Nat) (rs : List JobReply) (s : Nat) : Dev :=
  let rs := rs.filter fun r => r.slot == s
  let uids := rs.filter fun r => r.ok && r.ty == tyUid
  let fits := fun (r : JobReply) => r.uid >>> (64 - l) == pre >>> (64 - l) && bitOf r.uid (63 - l) == s
  let bad := uids.filter fun r => !fits r
  let good := uids.filter fits
  let d := d.bump CENSUS_ERR_B_UID_MISMATCH 0 bad.length
  let names := (good.map JobReply.uid).eraseDups
  let twice := fun u => good.any fun a => good.any fun b => a.uid == u && b.uid == u && a.lane != b.lane && !d.windowsMeet a.chans b.chans
  let d := d.each names fun d u => if twice u then d.declareDuplicate x u else d.identify x u
  if rs.any JobReply.collided || !bad.isEmpty then
    if l = 63 then d.declareDuplicate x (pre + s)
    else d.putStack ((l + 1, pre + s * 2 ^ (63 - l)) :: ((d.cen.job.map (·.stack)).getD []))
  else d

/-- The mask of a plan in an identity block (R181). -/
def planOf (ws : List Half) (at? : Nat) : Nat := (slice ws at? 4).foldl (fun n w => n * 65536 + w.toNat) 0

/-- The mask meets R181 for a number of channels. -/
def maskOk (mask channels : Nat) : Bool := mask < 2 ^ channels

def Dev.putMask (d : Dev) (i mask : Nat) : Dev := d.wws (cenBase + 8 * i + 5) [lo32 mask, hi32 mask]

/-- CAPS as an entry keeps it (R178, R189). -/
def Dev.putCaps (d : Dev) (i : Nat) (ws : List Half) : Dev :=
  let w0 := (ws.getD 0 0).toNat
  ((d.putCe i 2 24 8 (w0 / 256)).putCe i 3 0 7 w0).inCen fun c => { c with caps1 := assocPut i (ws.getD 1 0).toNat c.caps1 }

/-- REF where the entry's SA is its ring's REF_TAG (R189, R193). -/
def Dev.putRef (d : Dev) (i : Nat) : Dev :=
  if ((d.ringDef (d.entRing i)).map (·.refTag)) == some (d.entSa i) then ((d.putCe i 3 23 1 1).putCe i 4 0 24 0).putCe i 2 15 1 1 else d

/-- The centre of a segment less the ring's angle (R189). -/
def Dev.firstPos (d : Dev) (x seg : Nat) : Nat :=
  match d.ringDef x with
  | none => 0
  | some e => (e.edge (2 * e.place seg + 1) + 2 ^ 24 - (if d.ringValid x then (d.ring x).frac else 0)) % 2 ^ 24

/-- SETGEN is possible for the entry: R126 finds a generation, and its plan mask meets R181 (R182). -/
def Dev.canSetgen (d : Dev) (i : Nat) : Bool := (d.setgenChoice i).isSome && maskOk (d.entMask i) (d.entChannels i)

/-- SETGEN follows, where it is possible (R126, R189). -/
def Dev.thenSetgen (d : Dev) (i : Nat) : Dev := if d.canSetgen i then d.updJob fun j => { j with todo := .setgen i :: j.todo } else d

/-- An entry rebuilt from words 0x0000 to 0x000B of a tag (R195). -/
def Dev.rebuildEntry (d : Dev) (x sa pos : Nat) (ws : List Half) : Option Nat × Dev :=
  match d.freeEntryOf with
  | (none, d) => (none, d)
  | (some i, d) =>
    let uid := planOf ws 0
    let mask := planOf ws 8
    let d := d.wws (cenBase + 8 * i)
      [lo32 uid, hi32 uid, inField 0 12 sa + inField 12 3 stCandidate + inField 22 2 x, inField 7 1 1 + inField 8 6 sa, pos, lo32 mask, hi32 mask, 0]
    let d := (d.putCaps i (ws.drop 4)).putRef i
    (some i, d.thenSetgen i)

/-- What an entry waits for in the ENTRY list. -/
def Dev.waitOf (d : Dev) (i : Nat) : Option EntryWait := d.cen.waits.find? fun w => w.idx == i

/-- The entry leaves the ENTRY list (R412). -/
def Dev.leaveList (d : Dev) (i : Nat) : Dev := d.inCen fun c => { c with waits := c.waits.filter fun w => w.idx != i }

/-- Whether a listed entry is to take SETGEN: a CANDIDATE with a plan mask, or an entry whose tag answered in another generation
(R139, R412). -/
def Dev.wantsSetgen (d : Dev) (i : Nat) : Bool :=
  d.canSetgen i && ((d.entState i == stCandidate && d.entMask i != 0) || (d.entState i != stCandidate && ((d.waitOf i).map (·.regen)).getD false))

/-- The plan of a SETPLAN has been read (R412). -/
def Dev.planRead (d : Dev) (i k mask : Nat) : Dev :=
  let d := d.inCen fun c => { c with waits := c.waits.map fun w => if w.idx = i then { w with plan := none } else w }
  let d := if mask ≠ 0 ∧ maskOk mask (d.entChannels i) = true then (d.putMask i mask).putCe i 3 14 4 k else d.set1 CENSUS_EVENTS_PLAN_REJECT
  if d.wantsSetgen i then d.updJob fun j => { j with todo := .setgen i :: j.todo } else d.leaveList i

/-- What the answers to a service exchange mean, and the records that they give (R199). -/
def Dev.serviceResult (d : Dev) (j : Job) (answers : List (Option (List Bool × Option Nat))) : Dev :=
  let vic := j.kind = .serviceV
  let (s, recs) := if j.svc.step = .inventory then (j.svc.hearSlots answers, []) else j.svc.hear j.blocks (answers.headD none)
  let d := d.each recs Dev.pushService
  if s.step = .fetch then
    let q := d.g CENSUS_JOB_QUEUE
    let (reqs, d) := d.takeRequests q (d.queue q).depth
    let (s, recs) := s.start (decide vic) reqs
    (d.each recs Dev.pushService).updJob fun j => { j with svc := s }
  else d.updJob fun j => { j with svc := s }

/-- What the replies of the step that has ended mean. -/
def Dev.jobResult (d : Dev) (j : Job) (st : JobStep) (rs : List JobReply) : Dev :=
  match st with
  | .tree l pre => (d.treeSlot j.ring l pre rs 0).treeSlot j.ring l pre rs 1
  | .assign i =>
    match okReply rs tyCaps with
    | some r =>
      let d := (d.putCaps i r.payload).putCe i 3 8 6 (d.entSa i)
      let d := d.putCe i 4 0 24 (d.firstPos j.ring r.chan)
      (d.putRef i).updJob fun j => { j with assignedPass := j.assignedPass + 1, assigned := j.assigned + 1, todo := .readId i :: j.todo }
    | none =>
      if rs.any JobReply.collided then d.declareDuplicate j.ring (d.entUid i)
      else
        let d := d.set1 CENSUS_EVENTS_ASSIGN_FAIL
        if d.entState i = stCandidate ∧ d.ce i 3 7 1 = 0 ∧ d.entChannels i = 0 then d.freeEntry i else d
  | .readId i =>
    match okReply rs tyMem with
    | none => d
    | some r =>
      if planOf r.payload 0 ≠ d.entUid i then (d.bump CENSUS_ERR_B_UID_MISMATCH).freeEntry i
      else
        let d := d.putMask i (planOf r.payload (8 + 4 * d.entPlan i))
        (d.putCe i 3 7 1 1).thenSetgen i
  | .setgen i =>
    match okReply rs tyAck, d.setgenChoice i with
    | some _, some (g, r, z, self) =>
      let d := (((d.putCe i 2 16 2 g).putCe i 2 18 2 r).putCe i 2 20 1 (flagOf z)).putCe i 2 21 1 (flagOf self)
      let d := (d.leaveList i).inCen fun c => { c with bseq := assocDel (d.entSa i) c.bseq }
      if d.entState i = stCandidate then d.putState i stActive else d
    | _, _ => if noReply rs then d else d.leaveList i
  | .pingUid uid i =>
    match okReply rs tyAck with
    | some _ => d.declareDuplicate j.ring uid
    | none => d.updJob fun j => { j with todo := .assign i :: j.todo }
  | .release _ => d
  | .retire i => if noReply rs then d else d.leaveList i
  | .seed sa gen tries pos =>
    match okReply rs tyMem with
    | some r =>
      match d.rebuildEntry j.ring sa (pos * 256) r.payload with
      | (some _, d) => d.inc CENSUS_REBUILD_SEEDED
      | (none, d) => d
    | none => if tries < 2 then d.updJob fun j => { j with todo := .seed sa gen (tries + 1) pos :: j.todo } else d
  | .scan sa =>
    match okReply rs tyAck with
    | some r => d.updJob fun j => { j with todo := .found sa (max 1 (bitsOf r.status 24 2)) :: j.todo }
    | none => d
  | .found sa _ =>
    match okReply rs tyMem with
    | none => d
    | some r =>
      let (v, d) := d.freeVal
      match d.rebuildEntry j.ring sa (v % 2 ^ 24) r.payload with
      | (some _, d) => d.inc CENSUS_REBUILD_FOUND
      | (none, d) => d
  | .plan i k =>
    match okReply rs tyMem with
    | none => if noReply rs then d else d.planRead i k 0
    | some r => d.planRead i k (planOf r.payload 0)
  | .service => d

/-! ### The next exchange (R184, R186, R195, R412) -/

/-- The job end record (R199): tags found, requests done. -/
def Dev.serviceDone (d : Dev) (s : Service) : Dev :=
  (d.pushService (0x0F, 0, [s.found % 256, s.found / 256 % 256, s.done % 256, s.done / 256 % 256])).set1 CENSUS_EVENTS_SERVICE_DONE

/-- What a listed entry needs next (R412); none: it leaves the list. -/
def Dev.entryStep (d : Dev) (i : Nat) : Option JobStep :=
  if d.entState i = stRetiring then some (.retire i)
  else if !holdsSa (d.entState i) then none
  else
    match (d.waitOf i).bind (·.plan) with
    | some k => some (.plan i k)
    | none => if d.wantsSetgen i then some (.setgen i) else none

/-- What follows when a job has no step left; none: the job has ended. `todo` may hold steps that have become pointless. -/
def Dev.jobMore (d : Dev) (j : Job) : Option JobStep × Dev :=
  match j.kind with
  | .walk =>
    match j.stack with
    | (l, pre) :: rest => (some (.tree l pre), (((d.p CENSUS_STATUS_DEPTH 0 l).putStack rest).updJob fun j => { j with queries := j.queries + 1 }))
    | [] =>
      if 0 < j.assignedPass then
        let d := ((d.inc CENSUS_STATUS_PASS).p CENSUS_STATUS_DEPTH 0 0).putStack []
        (some (.tree 0 0), d.updJob fun j => { j with assignedPass := 0, queries := j.queries + 1 })
      else (none, d.set1 CENSUS_EVENTS_WALK_DONE)
  | .rebuild =>
    match j.list with
    | sa :: rest =>
      let d := (d.updJob fun j => { j with list := rest, scanning := true }).set1 CENSUS_REBUILD_SCAN
      (some (.scan sa), d)
    | [] => (none, d)
  | .entry => (none, d)
  | .serviceA | .serviceV => if j.svc.step = .over then (none, d.serviceDone j.svc) else (some .service, d)

/-- A step that has become pointless: its SA is held already, or its entry cannot take SETGEN. -/
def Dev.stepVain (d : Dev) (st : JobStep) : Bool :=
  match st with
  | .scan sa | .seed sa _ _ _ | .found sa _ => (d.holder sa).isSome
  | .setgen i => (d.setgenChoice i).isNone
  | _ => false

/-- The first of the listed entries that needs an exchange on a ring of the Reel, in ascending SA; those before it that need none leave
the list (R412). -/
def Dev.chooseEntry (d : Dev) : List Nat → Option JobStep × Dev
  | [] => (none, d.updJob fun j => { j with list := [] })
  | i :: rest =>
    if (d.waitOf i).isNone || (d.ringDef (d.entRing i)).isNone then d.chooseEntry rest
    else
      match d.entryStep i with
      | none => (d.leaveList i).chooseEntry rest
      | some st => (some st, d.updJob fun j => { j with list := rest })

/-- The step that comes next, vain ones passed over. -/
def Dev.chooseStep (d : Dev) : Nat → Option JobStep × Dev
  | 0 => (none, d)
  | n + 1 =>
    match d.cen.job with
    | none => (none, d)
    | some j =>
      match j.todo with
      | st :: rest =>
        let d := d.updJob fun j => { j with todo := rest }
        if d.stepVain st then d.chooseStep n else (some st, d)
      | [] =>
        if j.kind = .entry then d.chooseEntry j.list
        else
          match d.jobMore j with
          | (some st, d) => if d.stepVain st then d.chooseStep n else (some st, d)
          | (none, d) =>
            match j.kind, j.rings with
            | .rebuild, x :: rest =>
              let (j', d) := d.rebuildRing { j with rings := rest } x
              (d.putJob j').chooseStep n
            | _, _ => (none, d)

/-- The ring of a step: an ENTRY job's are those of its entries (R412). -/
def Dev.stepRingOf (d : Dev) (j : Job) (st : JobStep) : Nat :=
  match j.kind, st with
  | .entry, .setgen i | .entry, .plan i _ | .entry, .retire i => d.entRing i
  | _, _ => j.ring

/-- The next exchange placed in the fire queue, which has room for it. -/
def Dev.placeStep (d : Dev) (st : JobStep) : Dev :=
  match d.cen.job with
  | none => d
  | some j =>
    let x := d.stepRingOf j st
    let f : Fire :=
      { job := true, step := 0x3FFF, words := [0, 0, 0, 0], tenant := 0, ring := x, prio := d.g CENSUS_JOB_PRIO, tick := d.now,
        rev := (d.ring x).count, late := false, reverse := d.ringReverse x, way := 0, frac := (d.ring x).frac, mask := d.g FLD_RETIRED_SEG, g4 := 0 }
    let d := d.updJob fun j => { j with phase := .queued, step := some st, ring := x, slot := none, replies := [] }
    (d.p CENSUS_STATUS_RING 0 x).putCaller d.jobCaller fun c => { c with queue := c.queue ++ [f] }

/-- The exchange in progress has ended: its Caller runs no job any more, every window of it is closed, or the answers to a service
frame have come. -/
def Dev.exchangeEnded (d : Dev) (j : Job) : Bool :=
  match j.phase, j.slot with
  | .listening, some i =>
    if j.step = some .service then ((d.slot i).bind (·.sent)).getD 0 ≤ d.now
    else !((List.range 20).any fun l => ((d.lane l).win.map (·.slot)) == some i || (d.lane l).next.any fun w => w.slot == i)
  | .driving, _ => (d.caller d.jobCaller).st != .job
  | _, _ => false

/-- A walk or service job whose ring has reached its limit, a job whose ring has gone, or one that STOP names, goes no further (R185,
R200). -/
def Dev.jobStops (d : Dev) (j : Job) : Bool :=
  j.stop || (j.kind != .entry && (d.ringDef j.ring).isNone) || (j.kind == .walk && d.atSpeed j.ring d.discRpm)
    || ((j.kind == .serviceA || j.kind == .serviceV) && d.atSpeed j.ring 60)

/-- The answers to a service exchange, reported in the frame records of the job's lanes. -/
def Dev.serviceAnswers (d : Dev) (j : Job) : List (Option (List Bool × Option Nat)) × Dev :=
  if j.step = some .service ∧ j.phase = .listening then
    let (as, d) := d.cardAnswers j.svc.frame (if j.svc.step = .inventory then 16 else 1)
    (as, d.each (List.range 20) fun d l => d.reportService (j.slot.getD 256) ((as.find? Option.isSome).getD none) l)
  else ([], d)

/-- R184: the previous exchange is settled, and the next one placed, or none is left. An exchange for a tag that brings no reply is a
missed pass of it (R182). -/
def Dev.jobAdvance (d : Dev) : Dev :=
  match d.cen.job with
  | none => d
  | some j =>
    if j.phase = .place then
      if 4 ≤ (d.caller d.jobCaller).queue.length then d
      else if d.jobStops j then (d.set1 CENSUS_EVENTS_WALK_ABORT).endJob
      else
        match d.chooseStep 10000 with
        | (some st, d) => d.placeStep st
        | (none, d) => (d.when (j.kind == .rebuild) fun d => d.set1 CENSUS_EVENTS_REBUILT).endJob
    else if d.exchangeEnded j then
      let (as, d) := d.serviceAnswers j
      let k := d.jobCaller
      let d := if (d.caller k).st = .job then d.endProgram k else d
      let d := d.updJob fun j => { j with phase := .place, slot := none }
      match j.step with
      | some .service => d.serviceResult j as
      | some st =>
        let d := match if noReply j.replies then d.passSa st else none with
          | some sa => (d.missPass sa).tagCollapse j.ring sa
          | none => d
        d.jobResult j st j.replies
      | none => d
    else d

/-! ### The commands -/

def execWalk (t : Tenant) (r : Ring) (s : State) : Out State := effect s fun d => d.hostWrite t 0x1100 fun d => d.walkCmd r

def execRebuild (t : Tenant) (r : Ring) (s : State) : Out State := effect s fun d => d.hostWrite t 0x1100 fun d => d.rebuildCmd r

def execServiceA (t : Tenant) (r : Ring) (seg : Seg) (s : State) : Out State :=
  effect s fun d => d.hostWrite t 0x1100 fun d => d.serviceCmd .serviceA r seg 0

def execServiceV (t : Tenant) (r : Ring) (seg : Seg) (blocks : BitVec 13) (s : State) : Out State :=
  effect s fun d => d.hostWrite t 0x1100 fun d => d.serviceCmd .serviceV r seg blocks.toNat

def execStop (t : Tenant) (s : State) : Out State :=
  effect s fun d => d.hostWrite t 0x1100 fun d => d.updJob fun j => { j with stop := true }

/-- R184. A placed step is chosen after the previous exchange is settled; both are one command. -/
def execJobExchangePlace (s : State) : Out State := effect s fun d => d.jobAdvance.settlePool

/-- R412: the ENTRY job starts. -/
def execEntryJob (s : State) : Out State :=
  effect s fun d =>
    if d.jobRuns || !d.cen.serve || d.cen.waits.isEmpty then d
    else
      let l := (sortBy (fun a b => decide (d.entSa a < d.entSa b)) (d.cen.waits.map (·.idx)))
      (d.putJob { newJob .entry (d.entRing (l.headD 0)) 0 0 with list := l }).inCen fun c => { c with serve := false }

end Sys2Proof.Machine
end

