-- ==== Sys2Proof/Machine/Sbus.lean ====
section
/-!
DEFINITION. The local sensor buses: descriptors, transactions, polls and edge sources (12_sensor_buses.md).
-/

-- One declaration after another: the package is compiled as one text under a memory limit.
set_option Elab.async false

namespace Sys2Proof.Machine

/-! ### Results (R304) -/
abbrev busOk : Nat := 0
abbrev busNackAddr : Nat := 1
abbrev busNackData : Nat := 2
abbrev busArbLost : Nat := 3
abbrev busTimeout : Nat := 4
abbrev busBadDesc : Nat := 5
abbrev busDisabled : Nat := 6
abbrev busAborted : Nat := 7
abbrev busNoSlot : Nat := 8

def busWord (result tries offered done tBus : Nat) : Nat :=
  inField 0 4 result + inField 4 3 tries + inField 7 1 offered + inField 8 8 done + inField 16 16 tBus

/-- The Reel enables bus `b` (R31). -/
def Dev.busEnabled (d : Dev) (b : Nat) : Bool := (d.reel.active.map fun r => r.pinFunction (0x20 + b) == 1).getD false
def Dev.busOptions (d : Dev) (b : Nat) : Nat := (d.reel.active.map fun r => r.pinOptions (0x20 + b)).getD 0
def Dev.busMulti (d : Dev) (b : Nat) : Bool := (d.busOptions b).testBit 2
def Dev.busCure (d : Dev) (b : Nat) : Bool := (d.busOptions b).testBit 3

def Dev.busRun (d : Dev) (b : Nat) : Option Txn := vget d.sbus.run b none
def Dev.putBusRun (d : Dev) (b : Nat) (t : Option Txn) : Dev := d.inSbus fun s => { s with run := vupdN s.run b fun _ => t }
def Dev.busWait (d : Dev) (b : Nat) : List Txn := vget d.sbus.wait b []
def Dev.putBusWait (d : Dev) (b : Nat) (f : List Txn → List Txn) : Dev := d.inSbus fun s => { s with wait := vupdN s.wait b f }

/-! ### Descriptors (R301, R302, R308, R312) -/

def descWord (t : List Nat) (i : Nat) : Nat := t.getD i 0
def ndesc (t : List Nat) : Nat := bitsOf (descWord t 0) 0 6
def descHub (t : List Nat) : Bool := (descWord t 0).testBit 6
def descCh (t : List Nat) : Nat := bitsOf (descWord t 0) 8 8
def descNsamp (t : List Nat) : Nat := bitsOf (descWord t 0) 16 5
def descSofs (t : List Nat) : Nat := bitsOf (descWord t 0) 21 4
def descSfmt (t : List Nat) : Nat := bitsOf (descWord t 0) 25 2
def descWlen (t : List Nat) : Nat := bitsOf (descWord t 1) 8 6
def descRlen (t : List Nat) : Nat := bitsOf (descWord t 1) 14 6
def descRetry (t : List Nat) : Nat := bitsOf (descWord t 1) 20 3
def descWidth (t : List Nat) : Nat := 8 * (bitsOf (descWord t 1) 5 2 + 1)

/-- The entries of an SPI descriptor: each header's COUNT; none where they do not fill NDESC words. -/
def spiEntries : Nat → List Nat → Option (List Nat)
  | 0, ws => if ws.isEmpty then some [] else none
  | n + 1, ws =>
    match ws with
    | [] => some []
    | h :: rest =>
      let c := bitsOf h 0 6
      if c = 0 ∨ 32 < c ∨ 256 ≤ h ∨ rest.length < c then none
      else (spiEntries n (rest.drop c)).map fun l => c :: l

/-- Words that an SPI transaction receives. -/
def spiWords (t : List Nat) : Nat := ((spiEntries 63 (t.drop 2)).getD []).sum

/-- The descriptor `ws`, as long as NDESC says, is accepted (R304); `mask` is the Reel's select mask. -/
def descOk (spi : Bool) (mask : Nat) (ws : List Nat) : Bool :=
  let w0 := descWord ws 0
  let w1 := descWord ws 1
  let common := 2 ≤ ws.length && !w0.testBit 7 && bitsOf w0 27 5 == 0 && descSfmt ws != 3 && descNsamp ws ≤ 16
    && descCh ws + descNsamp ws ≤ 256
  let lengths :=
    if spi then bitsOf w1 7 25 == 0 && (spiEntries 63 (ws.drop 2)).isSome && mask.testBit (bitsOf w1 0 3)
    else descWlen ws ≤ 32 && descRlen ws ≤ 32 && !w1.testBit 31 && ws.length == 2 + ceilDiv (descWlen ws) 4 + ceilDiv (descRlen ws) 4
  let size := if descSfmt ws = 2 then 3 else 2
  let reach := if spi then descSofs ws + descNsamp ws ≤ spiWords ws else descSofs ws + size * descNsamp ws ≤ descRlen ws
  common && lengths && (descNsamp ws == 0 || reach)

/-- The descriptor of a transaction: none where it does not fit its memory. -/
def Dev.readDesc (d : Dev) (t : Txn) : Option (List Nat) :=
  match t.caller, t.poll with
  | some (k, _, a), _ =>
    let n := if a < 1792 then bitsOf (d.rw (dataWord k a)) 0 6 else 0
    if a + n ≤ 1792 ∧ a < 1792 then some ((List.range n).map fun i => d.rw (dataWord k (a + i))) else none
  | none, some p =>
    let o := d.g SBUS_POLL_CFG_DESC p
    let n := bitsOf (d.g SBUS_DESC_WORD o) 0 6
    if o + n ≤ 256 then some ((List.range n).map fun i => d.g SBUS_DESC_WORD (o + i)) else none
  | none, none => none

/-- Words written back into the descriptor, from its word `i` on. -/
def Dev.writeDesc (d : Dev) (t : Txn) (i : Nat) (ws : List Nat) : Dev :=
  match t.caller, t.poll with
  | some (k, _, a), _ => d.wws (dataWord k (a + i)) ws
  | none, some _ => d.each ws.zipIdx fun d x => d.p SBUS_DESC_WORD (t.base + i + x.2) x.1
  | none, none => d

/-- The read bytes packed four to a word, first byte in [31:24]. -/
def packBytes (bs : List Nat) : List Nat :=
  (chunks 4 bs).map fun p => (p.getD 0 0 * 256 + p.getD 1 0) * 65536 + (p.getD 2 0 * 256 + p.getD 3 0)

/-- The received words put over the words of the entries, header by header. -/
def spiBack : Nat → List Nat → List Nat → List Nat
  | 0, ws, _ => ws
  | n + 1, ws, rx =>
    match ws with
    | [] => []
    | h :: rest =>
      let c := bitsOf h 0 6
      h :: (List.range c).map (fun i => rx.getD i 0) ++ spiBack n (rest.drop c) (rx.drop c)

/-- Raw value of sample field `i` (R302). -/
def sampleField (spi : Bool) (t rx : List Nat) (i : Nat) : Nat :=
  let sf := descSfmt t
  if spi then
    let w := rx.getD (descSofs t + i) 0
    if sf = 0 then bitsOf w 0 16 else if sf = 1 then bitsOf w 0 8 * 256 + bitsOf w 8 8 else bitsOf w 8 16
  else
    let o := descSofs t + (if sf = 2 then 3 else 2) * i
    let a := rx.getD o 0
    let b := rx.getD (o + 1) 0
    if sf = 1 then b * 256 + a else a * 256 + b

/-! ### The end of a transaction (R304, R305) -/

/-- The result is recorded and BUS or the poll's run ends. -/
def Dev.finishTxn (d : Dev) (b : Nat) (t : Txn) (result done tBus : Nat) (offered : Bool) : Dev :=
  let word := busWord result t.tries (flagOf offered) done tBus
  let d := d.p SBUS_BUS_LAST_RESULT b word
  let d := if result = busOk then d.bump SBUS_BUS_CNT_OK b else (d.bump SBUS_BUS_CNT_FAILED b).setBit SBUS_EVENTS_ERR 0 b
  match t.caller, t.poll with
  | some (k, rd, a), _ =>
    let d := (d.updSlot t.slot fun x => { x with bus := false }).trySlotRelease t.slot
    if (d.caller k).st = .bus b rd a ∧ (d.caller k).cur = some t.slot then d.result k rd (BitVec.ofNat 32 word) else d
  | none, some p =>
    let d := d.p SBUS_POLL_STAT_RESULT p result
    d.when (!offered) fun d => d.endPoll (some p)
  | none, none => d

/-- The samples of a transaction offered to the hub (R302). -/
def Dev.offerSamples (d : Dev) (spi : Bool) (t : Txn) (rx : List Nat) : Dev :=
  let n := descNsamp t.desc
  d.each (List.range n) fun d i =>
    d.offerWired { chan := 0x40000 + descCh t.desc + i, raw := sampleField spi t.desc rx i, tick := (t.tBus : Nat), entry := none,
                   last := if i + 1 = n then t.poll else none }

/-- A transaction that ended OK with the received bytes or words `rx`. -/
def Dev.okTxn (d : Dev) (b : Nat) (t : Txn) (rx : List Nat) : Dev :=
  let spi := 2 ≤ b
  let rx := if spi then rx.map (· % 2 ^ descWidth t.desc) else (List.range (descRlen t.desc)).map fun i => rx.getD i 0 % 256
  let d := if spi then d.writeDesc t 2 (spiBack 63 (t.desc.drop 2) rx)
    else d.writeDesc t (2 + ceilDiv (descWlen t.desc) 4) (packBytes rx)
  let offer := descHub t.desc && descNsamp t.desc != 0 && d.domTakes domHub
  let d := d.when offer fun d => d.offerSamples spi t rx
  d.finishTxn b t busOk (if spi then spiWords t.desc else descWlen t.desc + descRlen t.desc) t.tBus offer

/-- A transaction ends without result data; what of it was transferred, and a t_bus never taken, are open. -/
def Dev.failTxn (d : Dev) (b : Nat) (t : Txn) (result : Nat) (started : Bool) : Dev :=
  let (v, d) := d.freeVal
  if started then
    let most := if 2 ≤ b then spiWords t.desc else descWlen t.desc + descRlen t.desc
    d.finishTxn b t result (v % (most + 1)) t.tBus false
  else d.finishTxn b t result 0 v false

/-! ### The start (R305, R309, R310) -/

/-- The lines of a two-wire bus are met before START: `none` where the START proceeds, else the block after its TIMEOUT. -/
def Dev.lineCheck (d : Dev) (b : Nat) (held freed : Bool) : Bool × Dev :=
  if 2 ≤ b ∨ !held then (true, d)
  else if d.flag SBUS_TWI_SCL_LOW b || (d.flag SBUS_TWI_SDA_LOW b && !d.busCure b) then (false, d)
  else
    let d := d.when (d.busCure b) fun d => d.bump SBUS_TWI_CURES b
    if freed then (true, d) else (false, d.set1 SBUS_TWI_SDA_LOW b)

def Dev.startTxn (d : Dev) (b : Nat) (held freed : Bool) : Dev :=
  match d.busRun b, d.busWait b with
  | none, t :: rest =>
    let d := d.putBusWait b fun _ => rest
    if !d.busEnabled b then d.failTxn b t busDisabled false
    else
      match d.readDesc t with
      | none => d.failTxn b t busBadDesc false
      | some ws =>
        if !descOk (2 ≤ b) (bitsOf (d.busOptions b) 8 8) ws then d.failTxn b t busBadDesc false
        else
          match d.lineCheck b held freed with
          | (true, d) =>
            let base := (t.poll.map fun p => d.g SBUS_POLL_CFG_DESC p).getD 0
            d.putBusRun b (some { t with desc := ws, base := base, tBus := d.now, multi := d.busMulti b })
          | (false, d) => d.failTxn b { t with desc := ws } busTimeout false
  | _, _ => d

/-- BUS_TRANSACTION_START: `sdaHeld` that SDA is low before START, `freed` that the cure frees it (R310). -/
def execBusTransactionStart (b : BusId) (sdaHeld freed : Bool) (s : State) : Out State :=
  effect s fun d => (d.startTxn b sdaHeld freed).settlePool

/-- Bytes transferred before an address was NACKed: those of the write part where the address is the read part's. -/
def nackDone (desc : List Nat) (written : Bool) : Nat := if written && 0 < descRlen desc then descWlen desc else 0

/-- How the running transaction of bus `b` went on the wires (R309). -/
def Dev.wireEnd (d : Dev) (b : Nat) (w : BusWire) : Dev :=
  match d.busRun b with
  | none => d
  | some t =>
    if t.retry then d
    else
      match w with
      | .ok rx => (d.putBusRun b none).okTxn b t (rx.map BitVec.toNat)
      | .nackAddr written =>
        if 2 ≤ b then d
        else
          let d := d.bump SBUS_TWI_NACKS b
          if t.tries < descRetry t.desc then d.putBusRun b (some { t with tries := t.tries + 1, retry := true })
          else (d.putBusRun b none).finishTxn b t busNackAddr (nackDone t.desc written) t.tBus false
      | .nackData acked =>
        if 2 ≤ b then d else ((d.putBusRun b none).bump SBUS_TWI_NACKS b).finishTxn b t busNackData acked t.tBus false
      | .arbLost done =>
        if 2 ≤ b ∨ !t.multi then d
        else (((d.putBusRun b none).set1 SBUS_TWI_ARB b).bump SBUS_TWI_ARB_LOSSES b).finishTxn b t busArbLost done t.tBus false

def execBusTransactionEnd (b : BusId) (w : BusWire) (s : State) : Out State := effect s fun d => (d.wireEnd b w).settlePool

/-- GAP after an address NACK has ended: the transaction again from its first START, whose tick t_bus stays (R303, R309). -/
def execAddressRetry (b : BusId) (s : State) : Out State :=
  effect s fun d =>
    match d.busRun b with
    | some t => if t.retry then d.putBusRun b (some { t with retry := false }) else d
    | none => d

/-- 25 ms on a two-wire bus; other controllers' traffic is waited for with MULTI alone (R309, R310). -/
def Dev.twoWireLimit (d : Dev) (b : Nat) (h : TwoWireHold) : Dev :=
  let multi := ((d.busRun b).map (·.multi)).getD (d.busMulti b)
  let waits := match d.busRun b with
    | some t => t.retry
    | none => !(d.busWait b).isEmpty
  if 2 ≤ b ∨ (h = .busBusy ∧ multi = false) then d
  else
    let d := match h with
      | .sclLow => d.set1 SBUS_TWI_SCL_LOW b
      | .busBusy => d.when waits fun d => d.set1 SBUS_TWI_WAITED b
      | .sdaLow => d.set1 SBUS_TWI_SDA_LOW b
    match d.busRun b, d.busWait b with
    | some t, _ => if h = .busBusy ∧ !t.retry then d else (d.putBusRun b none).failTxn b t busTimeout true
    | none, t :: rest => (d.putBusWait b fun _ => rest).failTxn b t busTimeout false
    | none, [] => d

def execTwoWireTimeout (b : BusId) (h : TwoWireHold) (s : State) : Out State := effect s fun d => d.twoWireLimit b h

/-! ### Polls (R314) -/

def Dev.pollPeriod (d : Dev) (p : Nat) : Nat := max 256 (d.g SBUS_POLL_PERIOD_TICKS p)

/-- Entry `p` is due at tick `t`. -/
def Dev.pollDueAt (d : Dev) (p t : Nat) : Bool :=
  d.domOn domSio && d.flag SBUS_CTRL_POLL_EN && d.flag SBUS_POLL_CFG_EN p
    && ((t : Int) - (d.g SBUS_POLL_PHASE_TICKS p : Nat)) % (d.pollPeriod p : Nat) == 0

def Dev.pollRun (d : Dev) (p : Nat) : Dev :=
  if !d.domTakes domSio || !d.flag SBUS_CTRL_POLL_EN || !d.flag SBUS_POLL_CFG_EN p then d
  else if (vget d.sbus.pollSlot p none).isSome then (d.bump SBUS_POLL_STAT_SKIPS p).set1 SBUS_EVENTS_POLL_SKIP
  else if !d.slotFor .bus then (d.bump SBUS_POLL_STAT_SKIPS p).set1 SBUS_EVENTS_SLOT_SKIP
  else
    let (i, d) := d.takeSlot { newSlot .bus none none 0 0 (d.g FLD_RETIRED_SEG) with hub := true }
    let t : Txn := { caller := none, poll := some p, slot := i, desc := [], base := 0, tBus := 0, tries := 0, retry := false, multi := false }
    let d := d.inSbus fun s => { s with pollSlot := vupdN s.pollSlot p fun _ => some i }
    (d.putBusWait (d.g SBUS_POLL_CFG_BUS p) fun l => l ++ [t]).inc SBUS_POLL_STAT_RUNS p

def execPollDue (p : Fin 16) (s : State) : Out State := effect s fun d => d.pollRun p

/-! ### Edge sources (R315) -/

/-- The pin of input `k`: KP 0 to 7, then GPIO 0 to 15, is an edge source. -/
def Dev.edgePin (d : Dev) (k : Nat) : Bool :=
  match d.reel.active with
  | none => false
  | some r => if k < 8 then r.pinFunction (0x40 + k) == 1 else r.pinFunction (k - 8) == 2

def Dev.edge (d : Dev) (k : Nat) (level : Bool) : Dev :=
  if !d.domOn domSio then d
  else
    let d := d.putPin k level
    if !d.edgePin k || !d.flag SBUS_IN_EN k then d
    else
      let t := d.now - d.g SBUS_IN_FILTER k
      let offer := fun (d : Dev) (v : Nat) => d.when (d.domTakes domHub) fun d =>
        d.offerWired { chan := 0x40000 + d.g SBUS_IN_CH k, raw := v, tick := (t : Nat), entry := none }
      if !d.flag SBUS_IN_PERIOD k then offer d (flagOf level)
      else if !level then d
      else
        let before := vget d.sbus.rise k none
        let d := d.inSbus fun s => { s with rise := vupdN s.rise k fun _ => some t }
        match before with
        | none => d
        | some u => offer d (min 65535 (t - u))

def execEdgeSource (k : Seg) (level : Bool) (s : State) : Out State := effect s fun d => d.edge k level

/-! ### Reset of a bus (R316), and of all of them -/

/-- The running transaction of bus `b` ends ABORTED. -/
def Dev.abortBus (d : Dev) (b : Nat) : Dev :=
  match d.busRun b with
  | none => d
  | some t => (d.putBusRun b none).failTxn b t busAborted true

def execBusReset (t : Tenant) (b : BusId) (s : State) : Out State :=
  effect s fun d => d.hostWrite t 0x1A00 fun d => d.abortBus b

/-- The transaction of slot `i`, running or waiting, ends ABORTED (R44, R316). -/
def Dev.abortSlotBus (d : Dev) (i : Nat) : Dev :=
  d.each (List.range 4) fun d b =>
    let d := match d.busRun b with
      | some t => if t.slot = i then d.abortBus b else d
      | none => d
    match (d.busWait b).find? fun t => t.slot == i with
    | some t => (d.putBusWait b fun l => l.filter fun t => t.slot != i).failTxn b t busAborted false
    | none => d

/-- SIO goes Off: everything that runs or waits is lost, and its words take their reset values (R315). -/
def Dev.dropSbus (d : Dev) : Dev :=
  let d := d.each (List.range 4) fun d b =>
    let d := d.abortBus b
    (d.each (d.busWait b) fun d t => d.failTxn b t busAborted false).putBusWait b fun _ => []
  let d := d.each (List.range 16) fun d p => d.endPoll (some p)
  (d.inSbus fun _ => resetSbus).clearRegs 0x1A00 0x1BFF

/-! ### The Caller's BUS (R213, R305) -/

def Dev.callBus (d : Dev) (k rd a b : Nat) : Dev :=
  let (v, d) := d.freeVal
  match (d.caller k).cur with
  | none => d.result k rd (BitVec.ofNat 32 (busWord busNoSlot 0 0 0 v))
  | some i =>
    if 3 < b ∨ !d.domTakes domSio then d.result k rd (BitVec.ofNat 32 v)
    else
      let t : Txn := { caller := some (k, rd, a), poll := none, slot := i, desc := [], base := 0, tBus := 0, tries := 0, retry := false, multi := false }
      let d := (d.updSlot i fun x => { x with bus := true }).putBusWait b fun l => l ++ [t]
      d.putCaller k fun c => { c with st := .bus b rd a }

def execBus (k : CallerId) (rd ra rb : GReg) (s : State) : Out State :=
  effect s fun d => if (d.caller k).st = .run then d.callBus k rd (d.reg k ra).toNat (d.reg k rb).toNat else d

end Sys2Proof.Machine
end

