-- ==== Sys2Proof/Machine/Encore.lean ====
section
/-!
DEFINITION. The Encore RAM: what an entry writes into it and what a wake reads back (13_power_clocks_wake.md R339 to R345
and the items of R79, R98, R148, R194, R222, R298, R359, R364).
-/

-- One declaration after another: the package is compiled as one text under a memory limit.
set_option Elab.async false

namespace Sys2Proof.Machine

/-! ### Pages (R339) -/

/-- The usable pages, ascending. -/
def Dev.usablePages (d : Dev) : List Nat := (List.range 16).filter fun p => !(d.g PWR_ENCORE_BAD_PAGES).testBit p

/-- The physical address of a logical offset of the last image. -/
def Dev.encAddr (d : Dev) (off : Nat) : Nat := 256 * d.pwr.pages.getD (off / 256) 0 + off % 256

/-- `n` bytes from a logical offset. -/
def Dev.encBytes (d : Dev) (off n : Nat) : List Byte := (List.range n).map fun i => memGet (d.encAddr (off + i)) d.pwr.encore

/-- Whether bytes `off` to `off + n - 1` lie in pages that are not retired. -/
def Dev.encSound (d : Dev) (off n : Nat) : Bool :=
  (d.pwr.pages.zipIdx.filter fun p => off / 256 ≤ p.2 && p.2 ≤ (off + n - 1) / 256).all fun p =>
    !(d.g PWR_ENCORE_BAD_PAGES).testBit p.1

/-- The header holds (R342, R344). -/
def Dev.encHeaderOk (d : Dev) : Bool :=
  !d.pwr.pages.isEmpty && d.encSound 0 40 && leNat (d.encBytes 0 2) == 0x454E && leNat (d.encBytes 36 4) == crc32c (d.encBytes 0 36)

/-- The sizes of items 1 to 7 (R341). -/
def itemSize (i : Nat) : Nat := [0, 64, 8, 84, 80, 64, 384, 8].getD i 0

/-- The bytes of stored item `i`: none where it was left out or is not sound (R344). -/
def Dev.encItem (d : Dev) (i : Nat) : Option (List Byte) :=
  let off := leNat (d.encBytes (10 + 2 * i) 2)
  if !d.encHeaderOk || off == 0xFFFF || !d.pwr.fresh.contains i then none
  else
    let counts := (List.range 4).map fun r => leNat (d.encBytes (off + 2 * r) 2)
    let n := if i = 8 then 8 + 15 * ((counts.map fun n => ceilDiv n 4).sum) else itemSize i
    if d.encSound off n then some (d.encBytes off n) else none

/-! ### What each item holds -/

/-- Bits `lo` to `lo + w - 1` of each value, one after another. -/
def packBits (w : Nat) (vs : List Nat) : Nat := (vs.zipIdx.map fun p => inField (w * p.2) w p.1).sum

/-- The policies and delay limits in POWER-entry order (R343). -/
def Dev.powerTable (d : Dev) : List (Nat × Nat) :=
  powerDoms.map fun n =>
    match d.reel.active.bind fun r => r.power.find? fun e => e.dom == n with
    | some e => (e.policy, e.delayMax)
    | none => (1, 250)

/-- Item 1 (R343). -/
def Dev.itemWake (d : Dev) : List Byte :=
  let r := d.reel.active
  let fmt := (r.map (·.format)).getD 0
  let t := d.powerTable
  leBytes 4 ((r.map (·.serial)).getD 0) ++ leBytes 4 ((r.map (·.ringCrc)).getD 0)
    ++ leBytes 2 (inField 0 2 fmt + inField 2 1 (d.g REEL_STATUS_BOOT_SRC) + inField 3 1 (flagOf r.isSome))
    ++ leBytes 2 ((r.map (·.tapMs)).getD 0) ++ leBytes 4 ((r.map (·.hub.periodMs)).getD 0)
    ++ leBytes 9 (packBits 2 (t.map (·.1))) ++ leBytes 3 0 ++ t.flatMap fun p => leBytes 1 p.2

/-- Item 2 (R148, R222): a part whose domain is Off already stays as it was stored. -/
def Dev.itemSpares (d : Dev) : List Byte :=
  let old := d.encItem 2
  let oldAt := fun o n => match old with
    | some bs => leAt bs o n
    | none => 0
  let lanes := if d.domOn domLane then d.g LANE_FAILED_LANE else bitsOf (oldAt 0 3) 0 20
  let cores := if d.domOn domDec then d.g DEC_STATUS_FAILED else bitsOf (oldAt 0 3) 20 4
  let pairs := if d.domOn domCall then d.g CALL_PAIR_FAILED + inField 9 4 (d.g CALL_PAIR_SPARE_FOR)
    else if old.isSome then oldAt 3 2 else 0xF * 512
  leBytes 3 (lanes + inField 20 4 cores) ++ leBytes 2 pairs ++ leBytes 3 0

/-- The tick of the last ACLK edge, at which Tempo saves the counter (R97). -/
def Dev.aclkEdge (d : Dev) : Nat := d.now - d.clock.aclkFrac / 32768

/-- The fraction at tick `m`, in 2⁻⁴⁰ revolution: an angle that is not valid stands still. -/
def Dev.fracAt (d : Dev) (x m : Nat) : Nat := if d.ringValid x then d.modelAt x m else (d.ring x).sub

/-- The revolution count at tick `m`: a boundary since then is not in it. -/
def Dev.countAt (d : Dev) (x m : Nat) : Nat :=
  let r := d.ring x
  if (r.boundaryAt.map fun b => decide (m < b)).getD false then (r.count + 2 ^ 40 - 1) % 2 ^ 40 else r.count

/-- The 16 bytes of a ring at the saved tick (R98). -/
def Dev.ringBytes (d : Dev) (m x : Nat) : List Byte :=
  let r := d.ring x
  let flags := d.g RING_STATUS_VALID x + 2 * d.g RING_STATUS_STILL x + 4 * d.g RING_STATUS_REVERSE x
    + ((List.range 3).map fun e => if (d.track x e).st = .inVote then 8 * 2 ^ e else 0).sum
  let since := match r.votedMark with
    | some v => min (m - v) (2 ^ 24 - 1)
    | none => 2 ^ 24 - 1
  leBytes 5 (d.countAt x m) ++ leBytes 3 (d.fracAt x m / 65536) ++ leBytes 4 (fieldOf 32 r.inc) ++ leBytes 1 flags ++ leBytes 3 since

/-- Item 3: the counter, the ACLK count and the rings at the same ACLK edge, the last one (R97, R98). -/
def Dev.itemTempo (d : Dev) : List Byte :=
  leBytes 8 d.aclkEdge ++ leBytes 6 d.clock.aclk.toNat ++ leBytes 4 (d.g TEMPO_ACLK_RATIO_RATIO)
    ++ (List.range 4).flatMap (d.ringBytes d.aclkEdge) ++ leBytes 2 0

def Dev.ringPhases (d : Dev) : List Nat :=
  [d.g FLD_RING_PHASE_RING_A, d.g FLD_RING_PHASE_RING_B, d.g FLD_RING_PHASE_RING_C, d.g FLD_RING_PHASE_RING_D]

/-- VDRV_CAL in steps of 50 mV over 2,500 mV (R79); its rounding, and what a voltage outside the 6 bits gives, are open. -/
def Dev.vdrvStep (d : Dev) (n : Nat) : Nat × Dev :=
  let (v, d) := d.roundOpen ((d.g SEG_LOAD_VDRV_CAL n : Nat) - 2500) 50
  if 0 ≤ v ∧ v < 64 then (v.toNat, d)
  else
    let (f, d) := d.freeVal
    (f % 64, d)

/-- The per-segment bytes of item 4. -/
def Dev.segCalBytes (d : Dev) : List Nat → List Byte × Dev
  | [] => ([], d)
  | n :: ns =>
    let (v, d) := d.vdrvStep n
    let (bs, d) := d.segCalBytes ns
    (leBytes 3 (d.g SEG_CAL_FSP n + inField 12 6 (d.g SEG_PHASE_CAL n) + inField 18 6 v) ++ bs, d)

/-- Item 4 (R79). -/
def Dev.itemField (d : Dev) : List Byte × Dev :=
  let (bs, d) := d.segCalBytes (List.range 24)
  (bs ++ leBytes 3 (d.g FLD_RETIRED_SEG) ++ leBytes 3 (packBits 6 d.ringPhases) ++ leBytes 2 0, d)

/-- Item 5 (R359); `worst` is CONF of the worst prediction. -/
def Dev.itemHealth (d : Dev) (worst : Nat) : List Byte :=
  let h := d.health
  leBytes 4 (d.g HEALTH_SEQ_SEQ)
    ++ leBytes 1 (d.g HEALTH_SPARES_LANES + inField 2 1 (d.g HEALTH_SPARES_CHECKER) + inField 3 1 (d.g HEALTH_SPARES_PAIR)
        + inField 4 2 (d.g HEALTH_SPARES_SEV))
    ++ leBytes 1 worst ++ leBytes 2 h.uncorr ++ leBytes 2 h.tampers ++ leBytes 2 h.bookFaults
    ++ leBytes 4 (d.g LONG_WORST_DAYS + inField 16 3 (d.g LONG_WORST_CLASS) + inField 19 12 (d.g LONG_WORST_INDEX))
    ++ h.groups.toList.flatMap (leBytes 1)
    ++ (List.range 8).flatMap fun i =>
      match h.last[i]? with
      | some r => leBytes 4 (inField 0 8 r.code + inField 8 8 r.elem + inField 16 2 r.sev + inField 18 14 r.day)
      | none => leBytes 4 0

/-- METRIC of a metric in 2⁻⁶⁰ units (R364). -/
def metricField (m : Nat) : Nat := min (m / 2 ^ 44) 0xFFFF

/-- Item 6 (R364). -/
def Dev.itemLong (d : Dev) : List Byte :=
  let es := d.health.elems.toList
  let frozen := (es.take 24).zipIdx.map fun p => if p.1.frozen then 2 ^ p.2 else 0
  leBytes 4 (d.g LONG_DAY_DAY) ++ leBytes 3 frozen.sum ++ leBytes 7 0
    ++ es.flatMap fun e => leBytes 2 (metricField e.m) ++ leBytes 2 e.slope ++ leBytes 1 e.conf

/-- Item 7 (R298). -/
def Dev.itemHost (d : Dev) : List Byte :=
  (List.range 4).flatMap fun t =>
    match (vget d.host.ctx t (newCtx 0)).session with
    | some s => leBytes 1 s.version ++ leBytes 1 (s.features + 16)
    | none => leBytes 2 0

/-! ### The census checkpoint (R194) -/

/-- A record of the checkpoint: ring, SA, POSITION[23:8], GEN. -/
def Dev.checkRecord (d : Dev) (i : Nat) : Nat × Nat × Nat × Nat := (d.entRing i, d.entSa i, d.entPos i / 256, d.entGen i)

/-- The class of an entry in keep order; none: not kept. -/
def Dev.keepClass (d : Dev) (i : Nat) : Option Nat :=
  let st := d.entState i
  if st = stFree ∨ st = stRetiring ∨ st = stRetired ∨ st = stDuplicate then none
  else if d.entRef i then some 0
  else if st = stActive then (if d.entTrusted i then some 1 else some 2)
  else if st = stCandidate then some 3
  else some 4

/-- All records in keep order. -/
def Dev.checkList (d : Dev) : List (Nat × Nat × Nat × Nat) :=
  let keyed := entries.filterMap fun i => (d.keepClass i).map fun c => (c, d.checkRecord i)
  (sortBy (fun a b => decide (a.1 < b.1) || (a.1 == b.1 && decide (a.2.2.1 < b.2.2.1))) keyed).map (·.2)

def ringCount (l : List (Nat × Nat × Nat × Nat)) (x : Nat) : Nat := (l.filter fun r => r.1 == x).length

/-- The bytes that the records cost. -/
def checkCost (l : List (Nat × Nat × Nat × Nat)) : Nat := 8 + 15 * ((List.range 4).map fun x => ceilDiv (ringCount l x) 4).sum

/-- The records that fit into `room` bytes, in keep order. -/
def checkFit (room : Nat) (all : List (Nat × Nat × Nat × Nat)) : List (Nat × Nat × Nat × Nat) :=
  let n := ((List.range all.length).filter fun k => decide (checkCost (all.take (k + 1)) ≤ room)).length
  all.take n

/-- The checkpoint's bytes. -/
def checkBytes (l : List (Nat × Nat × Nat × Nat)) : List Byte :=
  let recWord := fun (r : Nat × Nat × Nat × Nat) => inField 18 12 r.2.1 + inField 2 16 r.2.2.1 + inField 0 2 r.2.2.2
  let ring := fun x => (chunks 4 ((l.filter fun r => r.1 == x).map recWord)).flatMap fun g => leBytes 15 (packBits 30 g)
  ((List.range 4).flatMap fun x => leBytes 2 (ringCount l x)) ++ (List.range 4).flatMap ring

/-- The records of stored bytes. -/
def checkParse (bs : List Byte) : List (Nat × Nat × Nat × Nat) :=
  let counts := (List.range 4).map fun x => leAt bs (2 * x) 2
  (List.range 4).flatMap fun x =>
    let start := 8 + 15 * ((counts.take x).map fun n => ceilDiv n 4).sum
    (List.range (counts.getD x 0)).map fun j =>
      let w := bitsOf (leAt bs (start + 15 * (j / 4)) 15) (30 * (j % 4)) 30
      (x, bitsOf w 18 12, bitsOf w 2 16, bitsOf w 0 2)

/-! ### The image (R340 to R342) -/

/-- Where the items before it end: the next 4-byte boundary. -/
def align4 (n : Nat) : Nat := (n + 3) / 4 * 4

/-- Items placed whole in keep order from `off` within `cap` bytes: item, offset, bytes. -/
def placeItems (cap : Nat) : Nat → List (Nat × List Byte) → List (Nat × Nat × List Byte)
  | _, [] => []
  | off, (i, bs) :: rest =>
    let o := align4 off
    if o + bs.length ≤ cap then (i, o, bs) :: placeItems cap (o + bs.length) rest else placeItems cap off rest

/-- Whether domain `n` is Off, or Held, once the domains of `go` are. -/
def Dev.offAfter (d : Dev) (go : List Nat) (n : Nat) : Bool := go.contains n || d.domState n == .off || d.domState n == .held

/-- Items 1 to 7 for an entry that turns the domains `go` Off. -/
def Dev.entryItems (d : Dev) (go : List Nat) (worst : Nat) : List (Nat × List Byte) × Dev :=
  let core := go.contains domCore
  let coreOff := d.offAfter go domCore
  let (calib, d) := if core then d.itemField else ([], d)
  let pick := fun (i : Nat) (fresh off : Bool) (bs : List Byte) =>
    if fresh then [(i, bs)] else if off then ((d.encItem i).map fun b => (i, b)).toList else []
  let spare := go.contains domLane || go.contains domCall
  let spareOff := d.offAfter go domLane || d.offAfter go domCall
  let host := d.offAfter go domHio && d.offAfter go 38
  (pick 1 core coreOff d.itemWake ++ pick 2 spare spareOff d.itemSpares ++ pick 3 core coreOff d.itemTempo
    ++ pick 4 core coreOff calib ++ pick 5 core coreOff (d.itemHealth worst) ++ pick 6 core coreOff d.itemLong
    ++ pick 7 (host && (go.contains domHio || go.contains 38)) host d.itemHost, d)

/-- Item 8 for such an entry: the records in keep order, none where MEM02 and MEM03 stay. -/
def Dev.entryCensus (d : Dev) (go : List Nat) : Option (List (Nat × Nat × Nat × Nat)) :=
  let already := d.offAfter [] 18 || d.offAfter [] 19
  if already then (d.encItem 8).map checkParse
  else if go.contains 18 || go.contains 19 then some d.checkList
  else none

/-- The image of an entry that turns the domains `go` Off, and what the registers say of it. -/
def Dev.encoreSave (d : Dev) (go : List Nat) (worst : Nat) : Dev :=
  let pages := d.usablePages
  let cap := 256 * pages.length
  let (items, d) := d.entryItems go worst
  let placed := placeItems cap 40 items
  let stop := match placed.getLast? with
    | some (_, o, bs) => align4 (o + bs.length)
    | none => 40
  let cen := d.entryCensus go
  let all := cen.getD []
  let fits := cen.isSome && decide (stop + 8 ≤ cap)
  let kept := if fits then checkFit (cap - stop) all else []
  let whole := fits && kept.length == all.length
  let cut := cen.isSome && !whole
  let total := if d.offAfter [] 18 || d.offAfter [] 19 then d.g PWR_ENCORE_CEN_ALL else all.length
  let placed := placed ++ (if fits then [(8, stop, checkBytes kept)] else [])
  let keptMask := (placed.map fun p => if p.1 = 8 ∧ !whole then 0 else 2 ^ (p.1 - 1)).sum
  let dir := (List.range 8).map fun k => ((placed.find? fun p => p.1 == k + 1).map fun p => p.2.1).getD 0xFFFF
  let seq := d.pwr.seq + 1
  let head := leBytes 2 0x454E ++ leBytes 1 1 ++ leBytes 1 8 ++ leBytes 2 keptMask ++ leBytes 2 (if cut then 0x80 else 0)
    ++ leBytes 2 kept.length ++ leBytes 2 total ++ dir.flatMap (leBytes 2) ++ leBytes 4 seq ++ leBytes 4 0
  let image := (0, head ++ leBytes 4 (crc32c head)) :: placed.map fun p => (p.2.1, p.2.2)
  let d := d.inPwr fun s => { s with pages := pages, encore := [], seq := seq, fresh := placed.map (·.1) }
  let d := d.when (40 ≤ cap) fun d => d.each image fun d p =>
    d.each p.2.zipIdx fun d b => d.inPwr fun s => { s with encore := memPut (d.encAddr (p.1 + b.2)) b.1 s.encore }
  (((d.p PWR_ENCORE_KEPT 0 keptMask).pf PWR_ENCORE_CUT 0 cut).p PWR_ENCORE_CEN_KEPT 0 kept.length).p PWR_ENCORE_CEN_ALL 0 total

/-! ### Reading back -/

/-- The stored policy and delay limit of a domain while no Reel is active (R343, R344). -/
def Dev.storedPower (d : Dev) (n : Nat) : Nat × Nat :=
  match d.encItem 1 with
  | some bs =>
    if (leAt bs 8 1).testBit 3 then
      let k := (powerDoms.takeWhile (· != n)).length
      (bitsOf (leAt bs 16 9) (2 * k) 2, leAt bs (28 + k) 1)
    else (1, 250)
  | none => (1, 250)

/-- POLICY and BOW_DELAY_MAX of a domain (R323, R324). -/
def Dev.powerPolicy (d : Dev) (n : Nat) : Nat × Nat :=
  match d.reel.active with
  | some r =>
    match r.power.find? fun e => e.dom == n with
    | some e => (e.policy, e.delayMax)
    | none => (1, 250)
  | none => d.storedPower n

/-- Item 4 read back into the shadow and the drivers (R79). -/
def Dev.restoreField (d : Dev) (bs : List Byte) : Dev :=
  let d := d.each (List.range 24) fun d n =>
    let v := leAt bs (3 * n) 3
    ((d.p SEG_CAL_FSP n v).p SEG_PHASE_CAL n (bitsOf v 12 6)).p SEG_LOAD_VDRV_CAL n (2500 + 50 * bitsOf v 18 6)
  d.p FLD_RETIRED_SEG 0 (leAt bs 72 3)

/-- The ring phases in item 4. -/
def storedPhases (bs : List Byte) : List Nat := (List.range 4).map fun x => bitsOf (leAt bs 75 3) (6 * x) 6

/-- Item 5 read back (R359). -/
def Dev.restoreHealth (d : Dev) (bs : List Byte) : Dev :=
  let lastOf := fun i =>
    let w := leAt bs (32 + 4 * i) 4
    let r : LastRec := { code := bitsOf w 0 8, elem := bitsOf w 8 8, sev := bitsOf w 16 2, day := bitsOf w 18 14 }
    if r.code = 0 then none else some r
  (d.p HEALTH_SEQ_SEQ 0 (leAt bs 0 4)).inHealth fun h =>
    { h with uncorr := leAt bs 6 2, tampers := leAt bs 8 2, bookFaults := leAt bs 10 2,
             groups := vmap (fun i _ => leAt bs (16 + i.val) 1) h.groups, last := (List.range 8).filterMap lastOf }

/-- Item 6 read back (R365); how a bank's count follows from METRIC is open. -/
def Dev.restoreLong (d : Dev) (bs : List Byte) : Dev :=
  let d := (d.p LONG_DAY_DAY 0 (leAt bs 0 4)).inHealth fun h =>
    { h with elems := vmap (fun i _ =>
        let o := 14 + 5 * i.val
        let m := leAt bs o 2
        let s := leAt bs (o + 2) 2
        let c := leAt bs (o + 4) 1
        let frozen := i.val < 48 && (leAt bs 4 3).testBit (i.val % 24)
        { newElem with
          m := m * 2 ^ 44, slope := s, frozen := frozen, restored := some (m, s, c), sat := s == 0xFFFF
          shown := { days := if s = 0 then 0xFFFF else min 0xFFFF ((65536 - m) * 64 / s), conf := c / 2, frozen := frozen, sat := s == 0xFFFF }
          days := if s = 0 then 0xFFFF else min 0xFFFF ((65536 - m) * 64 / s), conf := c / 2 }) h.elems }
  d.each (List.range 24) fun d k =>
    let (v, d) := d.roundOpen ((leAt bs (14 + 5 * (48 + k)) 2 * d.g LONG_LIMITS_BANK_LIMIT : Nat)) 65536
    d.inHealth fun h => { h with bankDay := vupdN h.bankDay k fun _ => v.toNat }

end Sys2Proof.Machine
end

