-- ==== Sys2Proof/Machine/Power.lean ====
section
/-!
DEFINITION. Power domains, Bow, entries and wakes, clocks, and the Tap (13_power_clocks_wake.md, R287, R394, R396).
-/

-- One declaration after another: the package is compiled as one text under a memory limit.
set_option Elab.async false

namespace Sys2Proof

/-- The sensor of a reading, as TAMPER_STATUS numbers it. -/
def TamperReading.bit (r : TamperReading) : Nat :=
  match r with
  | .mesh _ => 0
  | .vcore _ _ => 1
  | .vaon _ => 2
  | .clock _ _ => 3
  | .temperature _ => 4

end Sys2Proof

namespace Sys2Proof.Machine

/-! ### Codes of R325 -/
abbrev bowPolicy : Nat := 0x01
abbrev bowDependent : Nat := 0x02
abbrev bowDelayLimit : Nat := 0x03
abbrev bowWakePending : Nat := 0x11

/-! ### Domains (R319, R330) -/

/-- What a domain requires (R319). -/
def requires (n : Nat) : List Nat :=
  if n = 2 then [1, 20]
  else if n = 3 ∨ n = 4 then [1, 21]
  else if 5 ≤ n ∧ n ≤ 8 then [1]
  else if n = 9 then 1 :: (List.range 14).map (· + 22)
  else if n = 10 then [38]
  else if n = 11 ∨ n = 12 then [1]
  else []

/-- The domain IDs. -/
def allDoms : List Nat := (List.range 12).map (· + 1) ++ (List.range 24).map (· + 16)

/-- The domains that run on XREF only, in the order of R335 (R330). -/
def xrefDoms : List Nat := [5, 6, 7, 8, 4, 3, 2, 12]

def isBank (n : Nat) : Bool := 16 ≤ n

/-- The domains of `l` with all that they require. -/
def withRequired (l : List Nat) : List Nat := allDoms.filter fun n => l.any fun m => m == n || (requires m).contains n

/-- The banks that CORE and HIO require of a wake: no entry of R319 names them, and R11 gives them to structures of these domains' blocks,
the Figure Table and the census, the Commons and the private areas. -/
def wakeBanks (n : Nat) : List Nat := if n = 1 then [16, 17, 18, 19] else if n = 10 then [39] else []

/-- The wake set of the domains `l` (R329). -/
def wakeSet (l : List Nat) : List Nat :=
  let all := withRequired l
  withRequired (all ++ all.flatMap wakeBanks)

def Dev.putDom (d : Dev) (n : Nat) (st : DomState) : Dev := d.inPwr fun s => { s with dom := vupdN s.dom n fun _ => st }

def Dev.onRc (d : Dev) : Bool := d.flag CLK_STATUS_ON_RC

/-! ### Records that wait for CORE (R357) -/

/-- A record raised now, or held in AON until the resynchronisation. -/
def Dev.raiseAon (d : Dev) (code elem a0 a1 : Nat) : Dev :=
  if d.domOn domCore && !d.pwr.resync then d.raise code elem a0 a1
  else d.inPwr fun s => { s with held := s.held ++ [{ code := code, elem := elem, a0 := a0, a1 := a1 }] }

/-- An item that was left out (R344). -/
def Dev.cutItem (d : Dev) (i : Nat) : Dev :=
  let r : HeldRecord := { code := codeEncoreCut, elem := i, a0 := 0, a1 := 0 }
  if d.pwr.held.contains r then d else d.raiseAon codeEncoreCut i 0 0

/-! ### Contents lost with a domain (R318) -/

/-- The calibration that CORE shadows for the drivers (R79). -/
def calibRows : List Row :=
  [SEG_PHASE_CAL, SEG_CAL_FSP, SEG_LOAD_VDRV_CAL, SEG_FILL_GAIN1, SEG_FILL_GAIN2, SEG_OPEN_OPEN_PCT, SEG_TEMP_WARN, SEG_TEMP_FAULT]

/-- The words of segment `n`, but for those of the budget unit. -/
def segWords (n a : Nat) : Bool := 0xA00 + 32 * n ≤ a && a < 0xA20 + 32 * n && !(0xA18 ≤ a && a < 0xA20)

def isCalib (n key : Nat) : Bool := calibRows.any fun r => r.key n == key

/-- The fuses' temperature thresholds for order code I (R69). -/
def Dev.orderLimits (d : Dev) (n : Nat) : Dev :=
  if d.fuses.orderE then d else (d.p SEG_TEMP_WARN n 110).p SEG_TEMP_FAULT n 125

/-- The driver registers of segment `n` reset, its calibration kept or not. -/
def Dev.clearSeg (d : Dev) (n : Nat) (keep : Bool) : Dev :=
  let d := { d with regs := d.regs.filter fun p => !segWords n (p.1 / 32) || (keep && isCalib n p.1) }
  d.when (!keep) fun d => d.orderLimits n

/-- The drivers of FLDk lose their state; the shadow in CORE keeps the calibration (R79). -/
def Dev.loseField (d : Dev) (k : Nat) : Dev :=
  let mine := fun n => n / 6 == k
  let d := d.each ((List.range 24).filter mine) fun d n =>
    ((d.leaveGlide n).segToZero n).clearSeg n true |>.putSeg n fun _ => idleSeg
  d.dropClaims fun c => mine c.seg

/-- Every asked-for release that nothing holds any more. -/
def Dev.releaseAll (d : Dev) : Dev := d.each (List.range 256) Dev.trySlotRelease

/-- Every running program ends in the clean-up of R217; its exchange is repeated (R123). -/
def Dev.abortPrograms (d : Dev) : Dev :=
  d.each (List.range 8) fun d k =>
    if (d.caller k).st = .idle then d
    else ((d.each (d.slotsOf k) Dev.repeatSlot).bump CL_COUNT_ABORTS k).endProgram k

/-- CORE's state, the drivers' calibration with it. The longevity monitor's working state stands in MEM22 (R11). -/
def Dev.loseCore (d : Dev) : Dev :=
  let d := d.each [(0x000, 0x0FF), (0x200, 0x2FF), (0x800, 0x9FF), (0xA18, 0xA1F), (0x1100, 0x121F), (0x1800, 0x19FF),
      (0x1C00, 0x1DFF), (0x1F00, 0x1FFF)] fun d r => d.clearRegs r.1 r.2
  let d := d.each (List.range 24) fun d n => d.clearSeg n false
  let h := resetDev.health
  { d with
    reel := { resetDev.reel with rebuildDue := d.reel.rebuildDue }
    fld := resetDev.fld, tempo := resetDev.tempo, fig := resetDev.fig, que := resetDev.que
    cen := { d.cen with job := none, waits := [], serve := false, held := [], seeds := [] }
    health :=
      { h with ecc := d.health.ecc, elems := d.health.elems, coilDay := d.health.coilDay, bankDay := d.health.bankDay,
               xtalDay := d.health.xtalDay, rebase := d.health.rebase, coilBase := d.health.coilBase, xtalBase := d.health.xtalBase,
               tagBase := d.health.tagBase }
    tap := { d.tap with loop := none, fuseData := 0, fuseRow := 0, fusing := none }
    pwr := { d.pwr with dayNext := d.dayNext, periodNext := d.tempo.periodNext, motion := d.flag TAP_STATUS_MOTION } }

/-- The Dumar buffers and the tenants' views, with MEM22 or with HIO while MEM22 is not kept: commands under way go with them. -/
def Dev.loseViews (d : Dev) : Dev :=
  (d.clearRegs 0x400 0x7FF).inHost fun h =>
    { resetHost with ctx := vmap (fun _ c => newCtx (c.free + c.wait.length + c.out.length)) h.ctx, latches := h.latches }

/-- The lanes' buffers, the decoders' working store and the scoreboard, with MEM05: programs abort, and what no program owned
goes with its slot (R11). -/
def Dev.loseBoard (d : Dev) : Dev :=
  let d := d.abortPrograms
  let d := d.inRx fun r => { r with lanes := resetDev.rx.lanes, cores := resetDev.rx.cores }
  let d := d.each ((List.range 256).filter fun i => (d.slot i).isSome) fun d i =>
    let own := ClaimOwner.slot i
    let d := (d.abortSlotBus i).dropClaims fun c => c.owner == own
    let d := d.each ((List.range 24).filter fun n => d.hasGranted n own) fun d n => (d.leaveGlide n).segToZero n
    d.freeSlot i
  d.inSbus fun s => { s with pollSlot := Vector.ofFn fun _ => none }

/-- A bank's words, and what the model keeps beside them. -/
def Dev.loseBank (d : Dev) (k : Nat) : Dev :=
  let d := (d.clearBank k).inHealth fun h =>
    { h with ecc := h.ecc.filter fun e => e.bank != k, fix := vupdN h.fix k fun _ => [], bad := vupdN h.bad k fun _ => [],
             scrubPos := vupdN h.scrubPos k fun _ => 0 }
  let d := d.when (k < 2) fun d => d.inFig fun f => { f with dirty := [], index := [], rebuild := none }
  let d := d.when (k == 2 || k == 3) fun d =>
    let d := d.inHealth fun h => { h with tagBase := [] }
    (d.inCen fun c => { c with bseq := [], scanAdd := [], caps1 := [], held := [], waits := [] }).inReel fun r => { r with rebuildDue := true }
  let d := d.when (k == 5) Dev.loseBoard
  let d := d.when (k == 8) fun d => d.inHub fun h => { h with run := [], old := [], nowOld := [] }
  d.when (k == 22) fun d =>
    d.loseViews.inHealth fun h =>
      { h with elems := resetDev.health.elems, coilDay := resetDev.health.coilDay, bankDay := resetDev.health.bankDay,
               xtalDay := none, rebase := [], longDue := false }

/-- What domain `n` loses when it leaves On, `goes` the domains that leave with it. -/
def Dev.loseDomain (d : Dev) (goes : List Nat) (n : Nat) : Dev :=
  if isBank n then d.loseBank (n - 16)
  else if n = domCore then d.loseCore
  else if n = domCall then
    let d := d.abortPrograms.clearRegs 0x1220 0x13FF
    d.inFig fun f => { f with callers := resetDev.fig.callers }
  else if n = domDec then
    let kept := (List.range 4).map fun c => d.g DECC_MISMATCH_COUNT c
    let d := (d.clearRegs 0x1000 0x10FF).inRx fun r => { r with cores := resetDev.rx.cores }
    d.each kept.zipIdx fun d p => d.p DECC_MISMATCH_COUNT p.2 p.1
  else if n = domLane then ((d.clearRegs 0xD00 0xFFF).inRx fun r => { r with lanes := resetDev.rx.lanes }).releaseAll
  else if 5 ≤ n ∧ n ≤ 8 then d.loseField (n - 5)
  else if n = domHub then
    (d.clearRegs 0x1400 0x17FF).inHub fun h => { h with intake := [], engines := resetDev.hub.engines, latchT := resetDev.hub.latchT, latchA := resetDev.hub.latchA }
  else if n = domHio then
    if d.offAfter goes 38 then d.loseViews
    else d.inHost fun h => { h with spi := resetHost.spi, h2 := idleH2 }
  else if n = domSio then d.dropSbus
  else if n = domVault then { (d.clearRegs 0x1E00 0x1E0F) with vault := resetDev.vault }
  else d

/-! ### Coming On (R320, R329, R344) -/

/-- The failed lanes and cores, or pairs, of item 2 (R148, R222). -/
def Dev.restoreSpares (d : Dev) (n : Nat) : Dev :=
  match d.encItem 2 with
  | none => d.when (n != domDec) fun d => d.cutItem 2
  | some bs =>
    if n = domLane then d.p LANE_FAILED_LANE 0 (leAt bs 0 3)
    else if n = domDec then d.p DEC_STATUS_FAILED 0 (bitsOf (leAt bs 0 3) 20 4)
    else
      let v := leAt bs 3 2
      let who := bitsOf v 9 4
      let d := (d.p CALL_PAIR_FAILED 0 v).p CALL_PAIR_SPARE_FOR 0 who
      d.when (who < 8) fun d => d.p CL_STATUS_PAIR who 8

/-- CORE comes On: its registers stand at reset, and its items are read back. -/
def Dev.startCore (d : Dev) : Dev :=
  let d := { d with clock := { d.clock with time := 0, cclk := 0 } }
  let d := d.inPwr fun s => { s with resync := true, rcSince := 0, fellBack := false, xref := false, kept := none }
  let wake := d.encItem 1
  let tempo := d.encItem 3
  let calib := d.encItem 4
  let d := d.when wake.isNone fun d => d.cutItem 1
  let d := d.when tempo.isNone fun d => d.cutItem 3
  let d := match calib with
    | some bs => d.restoreField bs
    | none => d.cutItem 4
  let d := match d.encItem 5 with
    | some bs => d.restoreHealth bs
    | none => d.cutItem 5
  let d := match d.encItem 6 with
    | some bs => d.restoreLong bs
    | none => (d.inHealth fun h => { h with elems := resetDev.health.elems }).cutItem 6
  let crc := match wake with
    | some w => if (leAt w 8 1).testBit 3 then some (leAt w 4 4) else none
    | none => none
  let d := d.inPwr fun s =>
    { s with kept := some {
        crc := crc.getD (2 ^ 32), t1 := 0, t0 := (tempo.map fun b => leAt b 0 8).getD 0,
        rings := ((tempo.map fun b => (List.range 4).map fun x => slice b (18 + 16 * x) 16).getD []),
        phases := (calib.map storedPhases).getD [], seeds := [] } }
  let d := d.set1 TEMPO_SYNC_RC_CLOCK
  d.when d.fuses.bootFlash fun d => d.inReel fun r => { r with boot := some false }

/-- MEM02 or MEM03 comes On: the checkpoint waits for the next Reel (R194, R195, R345). -/
def Dev.readCheckpoint (d : Dev) : Dev :=
  match d.encItem 8 with
  | none => d.cutItem 8
  | some bs =>
    let seeds := checkParse bs
    let whole := (d.g PWR_ENCORE_KEPT).testBit 7
    let d := d.when (!whole) fun d => d.cutItem 8
    d.inPwr fun s => { s with kept := s.kept.map fun k => { k with seeds := seeds } }

/-- MEM22 comes On, its views lost before: the sessions from item 7 (R296, R298, R344). HIO finds them there. -/
def Dev.restoreViews (d : Dev) : Dev :=
  match d.encItem 7 with
  | none => d.cutItem 7
  | some bs =>
    let kept (i : Nat) : Option Session :=
      let f := leAt bs (2 * i + 1) 1
      if f.testBit 4 then some { version := leAt bs (2 * i) 1, features := f % 16 } else none
    d.inHost fun h => { h with ctx := vmap (fun i c => if i.val < 4 then { c with session := kept i.val } else c) h.ctx }

/-- The drivers of FLDk take their calibration; a retired segment is RETIRED again (R79). -/
def Dev.startField (d : Dev) (k : Nat) : Dev :=
  let d := d.each ((List.range 24).filter fun n => n / 6 == k && d.segIsRetired n) fun d n =>
    (d.putSegState n segRetired).set1 SEG_STATUS_RETIRED n
  d.setAllWindows

/-- Domain `n` comes On, its contents lost before, and its items are restored. -/
def Dev.comeOn (d : Dev) (n : Nat) : Dev :=
  let d := d.putDom n .on
  let d :=
    if isBank n then
      let k := n - 16
      let d := d.loseBank k
      let d := d.when (k < 2) fun d => d.set1 FIG_EVENTS_LOST
      let d := d.when (k == 4) fun d => d.set1 CALL_EVENTS_LOST
      let d := d.when (k == 2 || k == 3) Dev.readCheckpoint
      let d := d.when (k == 22) Dev.restoreViews
      let d := d.when (6 ≤ k && k ≤ 9) fun d =>
        match d.reel.active with
        | some r => d.setHub none r.hub
        | none => d
      -- one reset, with the last of the pool's banks (R265)
      let whole := 10 ≤ k && k ≤ 19 && (List.range 10).all fun j => d.domState (26 + j) != .off
      d.when whole fun d => d.each ((List.range 64).filter d.queueUsed) fun d q => d.restartQueue q
    else if n = domCore then d.startCore
    else if n = domLane then
      let d := d.restoreSpares n
      match d.reel.active with
      | some r => d.setLanes r
      | none => d
    else if n = domDec then
      let d := d.restoreSpares n
      match d.reel.active with
      | some r => d.setCores r
      | none => d
    else if n = domCall then d.restoreSpares n
    else if 5 ≤ n ∧ n ≤ 8 then d.startField (n - 5)
    else if n = domHub then
      match d.reel.active with
      | some r => d.setHub (some r.hub) r.hub
      | none => d
    else if n = domSio then d.p SBUS_STATUS_ENABLED 0 ((List.range 4).map fun b => if d.busEnabled b then 2 ^ b else 0).sum
    else d
  d.when (xrefDoms.contains n && d.onRc) fun d => d.inPwr fun s => { s with clkWait := if s.clkWait.contains n then s.clkWait else s.clkWait ++ [n] }

/-- A bank returns from Retain; lost ones come On cleared (R329, R336). -/
def Dev.bankBack (d : Dev) (n : Nat) : Dev :=
  if d.pwr.lost.contains n then (d.inPwr fun s => { s with lost := s.lost.filter (· != n) }).comeOn n
  else (d.putDom n .on).inHealth fun h => { h with scrubPos := vupdN h.scrubPos (n - 16) fun _ => 0 }

/-- A domain leaves On for `st`. -/
def Dev.leaveOn (d : Dev) (goes : List Nat) (st : DomState) (n : Nat) : Dev := (d.loseDomain goes n).putDom n st

/-! ### Entries (R323 to R327) -/

/-- Work that makes domain `n` refuse, `off` and `ret` the entry set (R325 and the blocks' chapters). -/
def Dev.bowReason (d : Dev) (off : List Nat) (n : Nat) : Option Nat :=
  let st := d.g REEL_STATUS_STATE
  let reelBusy := 1 ≤ st && st ≤ 4
  let slots := d.busySlots != 0
  let rx := (List.range 20).any (fun l => (d.lane l).win.isSome || !(d.lane l).next.isEmpty || !(d.lane l).words.isEmpty)
    || d.rx.cores.toList.any fun c => !c.queue.isEmpty
  let cenBusy := d.jobRuns
  let segs := fun k => (List.range 24).any fun m => m / 6 == k && (d.held m != 0 || d.segState m != segIdle)
  let hubBusy := !d.hub.intake.isEmpty || d.hub.engines.toList.any fun e => !e.inbox.isEmpty || !e.out.isEmpty
  let hubStays := d.domOn domHub && !off.contains domHub
  let goesOff := off.contains n
  let queueData := (List.range 64).any fun q => d.queueUsed q &&
    (let x := d.queue q; x.mark.isSome || (match x.words with
      | [] => false
      | [w] => !(w.marker && markType w.w == markReset)
      | _ => true))
  let hostBusy := d.host.spi.toList.any (·.selected) || d.host.h2.tenant.isSome
    || d.host.ctx.toList.any fun c => !c.buf.isEmpty || !c.out.isEmpty || !c.wait.isEmpty || !c.cmd.isEmpty
  let busBusy := d.sbus.run.toList.any (·.isSome) || d.sbus.wait.toList.any (fun l => !l.isEmpty)
    || (d.flag SBUS_CTRL_POLL_EN && (List.range 16).any fun p => d.flag SBUS_POLL_CFG_EN p)
  let keys := d.flag VAULT_CTRL_KEEP_KEYS && d.vault.slots.any fun s => s.2.active.isSome || s.2.staged.isSome
  if (n = 1 ∨ n = 36 ∨ n = 37) ∧ reelBusy then some 0x04
  else if 5 ≤ n ∧ n ≤ 8 ∧ segs (n - 5) then some 0x05
  else if (n = domLane ∨ n = domDec) ∧ rx then some 0x06
  else if (n = 1 ∨ n = 18 ∨ n = 19) ∧ cenBusy then some 0x07
  else if n = domCall ∧ d.fig.callers.toList.any (fun c => c.st != .idle || !c.queue.isEmpty) then some 0x08
  else if (n = 1 ∨ n = 21) ∧ slots then some 0x09
  else if n = domHub ∧ hubBusy then some 0x0A
  else if 22 ≤ n ∧ n ≤ 25 ∧ goesOff ∧ hubStays then some 0x0B
  else if 26 ≤ n ∧ n ≤ 35 ∧ goesOff ∧ queueData then some 0x0C
  else if n = domHio ∧ hostBusy then some 0x0E
  else if n = domSio ∧ busBusy then some 0x0F
  else if n = domVault ∧ keys then some 0x10
  else none

def Dev.entry (d : Dev) : Nat := d.g PWR_STATUS_ENTRY

/-- A refusal counted for domain `n` (R327). -/
def Dev.countRefusal (d : Dev) (n : Nat) : Dev :=
  let k := n / 4
  let i := n % 4
  if i = 0 then d.bump PWR_REFCNT_COUNT0 k else if i = 1 then d.bump PWR_REFCNT_COUNT1 k
  else if i = 2 then d.bump PWR_REFCNT_COUNT2 k else d.bump PWR_REFCNT_COUNT3 k

/-- The entry ends refused by `n`. -/
def Dev.refuseEntry (d : Dev) (n reason : Nat) : Dev :=
  (((d.p PWR_STATUS_ENTRY 0 5).p PWR_STATUS_REFUSER 0 n).p PWR_STATUS_REASON 0 reason).inPwr fun s =>
    { s with accepted := [], delaying := [], busyAt := d.clock.aclk.toNat }

/-- CONF of the worst prediction, for item 5. -/
def Dev.worstConf (d : Dev) : Nat :=
  let c := d.g LONG_WORST_CLASS
  let i := d.g LONG_WORST_INDEX
  let e := if c = 0 then i else if c = 1 then 24 + i else if c = 3 then 48 + i else if c = 2 then 72 else 73
  if d.g LONG_WORST_DAYS = 0xFFFF ∨ 4 < c then 0 else (vget d.health.elems e newElem).conf

/-- SAVING: the Encore RAM is repacked (R327, R340). -/
def Dev.entrySave (d : Dev) : Dev := (d.encoreSave d.pwr.off d.worstConf).p PWR_STATUS_ENTRY 0 2

/-- The entry set of the masks, what is there already left out (R323). -/
def Dev.entrySet (d : Dev) : List Nat × List Nat :=
  let mask := d.g PWR_OFF_MASK_DOMAIN
  let off := d.g PWR_BANK_OFF_BANK
  let ret := d.g PWR_BANK_RET_BANK
  let doms := ((List.range 12).filter fun i => mask.testBit i && d.domState (i + 1) != .off).map (· + 1)
  let banks := (List.range 24).filter fun k => off.testBit k && !ret.testBit k && d.domState (16 + k) != .off
  let rets := (List.range 24).filter fun k => ret.testBit k && d.domState (16 + k) == .on
  (doms ++ banks.map (· + 16), rets.map (· + 16))

/-- An entry with the set `off`, `ret` begins (R323, R324). -/
def Dev.beginEntry (d : Dev) (off ret : List Nat) : Dev :=
  let set := off ++ ret
  let stays := fun n => d.domOn n && !set.contains n
  let reason := fun n =>
    let p := (d.powerPolicy n).1
    if p = 0 ∨ p = 3 ∨ (p = 2 ∧ off.contains n) then some bowPolicy
    else if allDoms.any fun m => stays m && (requires m).contains n then some bowDependent
    else none
  let d := d.inPwr fun s =>
    { s with off := off, ret := ret, accepted := [], asked := set, delaying := [], delays := Vector.ofFn fun _ => 0, met := 0 }
  match set.find? fun n => (reason n).isSome with
  | some _ =>
    let bad := allDoms.filter fun n => set.contains n && (reason n).isSome
    let d := (d.each bad Dev.countRefusal).inPwr fun s => { s with asked := [] }
    let first := bad.headD 0
    d.refuseEntry first ((reason first).getD 0)
  | none => if set.isEmpty then d.entrySave else d.p PWR_STATUS_ENTRY 0 1

/-- The level that makes WAKE`x` active: POL 0 low or falling, 1 high or rising. -/
def Dev.wakePol (d : Dev) (x : Nat) : Bool := (d.g PWR_WAKE_POL_POL).testBit x

/-- WAKE`x` is an enabled level source that stands asserted (R328, R332). -/
def Dev.wakeAsserted (d : Dev) (x : Nat) : Bool :=
  (d.g PWR_WAKE_SRC_EN).testBit x && !(d.g PWR_WAKE_POL_EDGE).testBit x && vget d.pwr.wakePins x true == d.wakePol x

/-- PWR_CMD.ENTER (R323, R332, R403). -/
def Dev.enterCmd (d : Dev) : Dev :=
  if d.tap.stopped || (1 ≤ d.entry && d.entry ≤ 3) then d.set1 PWR_STATUS_SEQ_ERR
  else if d.flag PWR_STATUS_WAKING then d.inPwr fun s => { s with enterHeld := true }
  else
    if (List.range 8).any d.wakeAsserted then (d.countRefusal 0).refuseEntry 0 bowWakePending
    else
      let set := d.entrySet
      d.beginEntry set.1 set.2

def execEnter (t : Tenant) (s : State) : Out State := effect s fun d => d.hostWrite t 0x100 Dev.enterCmd

/-- PWR_CMD.CLEAR_LOG (R346). -/
def Dev.clearLog (d : Dev) : Dev := (d.p PWR_STATUS_REFUSER 0 0).p PWR_STATUS_REASON 0 0

def execClearLog (t : Tenant) (s : State) : Out State := effect s fun d => d.hostWrite t 0x100 Dev.clearLog

/-! ### Waking (R321, R328 to R332, R336) -/

/-- The ramp groups of the domains `l` (R321). -/
def rampGroups (l : List Nat) : List (List Nat) :=
  let port := [10, 38].filter l.contains
  let core := [1].filter l.contains
  let rest := allDoms.filter fun n => l.contains n && n != 10 && n != 38 && n != 1
  ([port, core] ++ chunks 4 rest).filter fun g => !g.isEmpty

/-- What a source wakes (R329, R346). -/
def Dev.wakeMap (d : Dev) (src : Nat) : List Nat :=
  let m := if src % 2 = 0 then d.g PWR_WMAP_MAP_LO (src / 2) else d.g PWR_WMAP_MAP_HI (src / 2)
  ((List.range 12).filter fun i => m.testBit i).map (· + 1)

/-- A wake ends when no group ramps and no domain waits for the clock; an ENTER that waits is performed (R332). -/
def Dev.endWake (d : Dev) : Dev :=
  if !d.flag PWR_STATUS_WAKING || !d.pwr.groups.isEmpty || d.pwr.clkWait.any d.domOn then d
  else
    let d := d.p PWR_STATUS_WAKING 0 0
    if d.pwr.enterHeld then (d.inPwr fun s => { s with enterHeld := false }).enterCmd else d

/-- A wake of the domains `l`. -/
def Dev.wakeDoms (d : Dev) (l : List Nat) : Dev :=
  let need := (wakeSet l).filter fun n => !d.domOn n
  if need.isEmpty then d
  else
    let d := d.pf PWR_ENCORE_HDR_OK 0 d.encHeaderOk
    let back := need.filter fun n => d.domState n == .retain
    let d := d.each back Dev.bankBack
    let ramp := need.filter fun n => !back.contains n && !(d.pwr.groups.flatMap id).contains n
    let blocked := fun n => (n == domHio && vget d.pwr.vioLow 0 false) || (n == domSio && vget d.pwr.vioLow 1 false)
    let ramp := ramp.filter fun n => !blocked n
    let d := d.inPwr fun s => { s with groups := s.groups ++ rampGroups ramp, done := none }
    (d.set1 PWR_STATUS_WAKING).endWake

/-- The sources of `mask` start a wake (R329). -/
def Dev.startWake (d : Dev) (mask : Nat) : Dev :=
  let srcs := bitList 13 mask
  let d := (d.p PWR_WAKE_CAUSE_SRC 0 (d.g PWR_WAKE_CAUSE_SRC ||| mask)).inPwr fun s =>
    { s with wokenBy := if d.flag PWR_STATUS_WAKING then s.wokenBy ||| mask else mask, busyAt := d.clock.aclk.toNat }
  d.wakeDoms (srcs.flatMap d.wakeMap)

/-- Source `src` fires: a wake now, or after the entry that it meets (R328, R332). -/
def Dev.fireSource (d : Dev) (src : Nat) : Dev :=
  if !(d.g PWR_WAKE_SRC_EN).testBit src || (10 ≤ src && vget d.pwr.vioLow 0 false) then d
  else if 1 ≤ d.entry ∧ d.entry ≤ 3 then d.inPwr fun s => { s with met := s.met ||| 2 ^ src }
  else d.startWake (2 ^ src)

/-- The sources that an entry met start their wake (R332); a stopping instruction of the TAP wakes every domain (R405). -/
def Dev.metWake (d : Dev) : Dev :=
  let m := d.pwr.met
  if d.tap.stopped then ((d.inPwr fun s => { s with met := 0 }).set1 PWR_WAKE_CAUSE_ENTRY_WAKE).wakeDoms allDoms
  else if m = 0 then d else ((d.inPwr fun s => { s with met := 0 }).set1 PWR_WAKE_CAUSE_ENTRY_WAKE).startWake m

/-- WAKE`x` takes a level through its filter: the change to the active level fires the source, edge or level (R328). -/
def Dev.wakeLevel (d : Dev) (x : Nat) (high : Bool) : Dev :=
  let was := vget d.pwr.wakePins x true
  let d := d.inPwr fun s => { s with wakePins := vupdN s.wakePins x fun _ => high }
  if high != was && high == d.wakePol x then d.fireSource x else d

def execWakePin (x : Fin 8) (high : Bool) (s : State) : Out State := effect s fun d => d.wakeLevel x high

/-- PWR_WAKE_SRC or PWR_WAKE_POL is written: the level sources that now stand asserted fire. -/
def Dev.wakeRewritten (d : Dev) : Dev := d.each ((List.range 8).filter d.wakeAsserted) fun d x => d.fireSource x

def execTimerWake (s : State) : Out State :=
  effect s fun d =>
    if d.pwr.done.isSome && d.g PWR_TIMER_TICKS != 0 then (d.inPwr fun s => { s with done := none }).fireSource 8 else d

/-- A select on H0 or H1, or an address match on H2, while HIO is Off (R287). -/
def execPortWake (src : Fin 13) (s : State) : Out State :=
  effect s fun d => if 10 ≤ src.val ∧ !d.domOn domHio then d.fireSource src else d

/-- The first ramp group is ready (R330). -/
def Dev.groupReady (d : Dev) : Dev :=
  match d.pwr.groups with
  | [] => d
  | g :: rest =>
    let backup := g.any fun n => (assocGet n d.pwr.tries).getD 0 == 4
    let d := d.inPwr fun s => { s with groups := rest, tries := [] }
    let d := d.when backup fun d => d.set1 PWR_FAULT_BACKUP_USED
    (d.each g Dev.comeOn).endWake

def execSwitchReady (s : State) : Out State := effect s fun d => d.groupReady.settlePool

/-- PWR_FAULT [13:6], the argument of the record. -/
def Dev.faultBits (d : Dev) : Nat :=
  d.g PWR_FAULT_REG_FAIL + 2 * d.g PWR_FAULT_BACKUP_FAIL + 4 * d.g PWR_FAULT_BACKUP_USED + 8 * d.g PWR_FAULT_XREF_FAIL
    + 16 * d.g PWR_FAULT_PLL_FAIL + 32 * d.g PWR_FAULT_ACLK_XTAL + 64 * d.g PWR_FAULT_RET_FAIL + 128 * d.g PWR_FAULT_RET_LOST

/-- Domain `n` is Held by a fault: it, and every domain that requires it (R336); a bank has no Held state and stays Off (R318). -/
def Dev.holdFault (d : Dev) (n : Nat) : Dev :=
  let all := allDoms.filter fun m => m == n || ((requires m).contains n && (d.domOn m || (d.pwr.groups.flatMap id).contains m))
  let down := fun m => if isBank m then DomState.off else DomState.held
  let d := d.each all fun d m => if d.domOn m then d.leaveOn all (down m) m else d.putDom m (down m)
  let d := d.inPwr fun s =>
    { s with groups := (s.groups.map fun g => g.filter fun m => !all.contains m).filter fun g => !g.isEmpty
             tries := s.tries.filter fun p => !all.contains p.1 }
  let d := (((d.p PWR_FAULT_DOMAIN 0 n).set1 PWR_FAULT_REG_FAIL).set1 PWR_FAULT_BACKUP_FAIL).set1 PWR_WAKE_CAUSE_WAKE_FAULT
  d.raiseAon codePwrFault n d.faultBits 0

/-- An attempt of the ramping group fails: four of the primary path, then one of the backup (R336). -/
def Dev.attemptFail (d : Dev) (n : Nat) : Dev :=
  if !((d.pwr.groups.headD []).contains n) then d
  else
    let k := (assocGet n d.pwr.tries).getD 0 + 1
    let d := ((d.bump PWR_FAULT_COUNT).p PWR_FAULT_DOMAIN 0 n).inPwr fun s => { s with tries := assocPut n k s.tries }
    if k < 5 then d else (d.holdFault n).endWake

def execSwitchAttemptFail (n : Dom) (s : State) : Out State := effect s fun d => (d.attemptFail n).settlePool

/-! ### Bow's answers and the switch (R324, R327) -/

/-- A block of domain `n` answers: with a delay in 16 µs, or for good. -/
def Dev.bowAnswered (d : Dev) (n : Nat) (delay : Option Nat) : Dev :=
  if (d.entry != 1 && d.entry != 5) || !d.pwr.asked.contains n then d
  else
    let done := fun (d : Dev) => d.inPwr fun s => { s with asked := s.asked.filter (· != n), delaying := s.delaying.filter (· != n) }
    let refuse := fun (d : Dev) (reason : Nat) =>
      let d := (done d).countRefusal n
      if d.entry = 1 then (d.refuseEntry n reason).metWake else d
    match delay with
    | some t =>
      let sum := vget d.pwr.delays n 0 + t
      if (d.powerPolicy n).2 < sum ∨ 250 < sum then refuse d bowDelayLimit
      else d.inPwr fun s => { s with delays := vupdN s.delays n fun _ => sum, delaying := n :: s.delaying.filter (· != n) }
    | none =>
      match d.bowReason d.pwr.off n with
      | some r => refuse d r
      | none =>
        let d := done d
        if d.entry != 1 then d
        else
          let d := d.inPwr fun s => { s with accepted := s.accepted ++ [n] }
          if d.pwr.asked.isEmpty then d.entrySave else d

def execBowAnswer (n : Dom) (delay : Option Nat) (s : State) : Out State := effect s fun d => d.bowAnswered n delay

/-- The delay of domain `n` ends; its answer is due again. -/
def execBowDelayExpiry (n : Dom) (s : State) : Out State :=
  effect s fun d => d.inPwr fun s => { s with delaying := s.delaying.filter (· != n.val) }

/-- The order in which logic domains are switched Off (R327), and then the banks. -/
def switchOrder : List Nat := [5, 6, 7, 8, 4, 3, 2, 12, 9, 11, 10, 1] ++ (List.range 24).map (· + 16)

/-- SWITCHING and DONE; `fail` are the banks whose retention regulator is not ready (R327, R336). -/
def Dev.switchEntry (d : Dev) (fail : List Nat) : Dev :=
  if d.entry != 2 then d
  else
    let off := d.pwr.off
    let ret := d.pwr.ret
    let d := d.each (switchOrder.filter off.contains) fun d n => d.leaveOn off .off n
    let d := d.each ret fun d n =>
      if fail.contains n then (d.set1 PWR_FAULT_RET_FAIL).p PWR_FAULT_DOMAIN 0 n else d.putDom n .retain
    let d := d.inPwr fun s =>
      { s with accepted := [], clkWait := s.clkWait.filter fun n => !off.contains n, done := some d.clock.aclk.toNat,
               lastSet := some (off, ret), lost := s.lost.filter fun n => !off.contains n }
    (d.p PWR_STATUS_ENTRY 0 4).metWake

def execEntrySwitch (retFail : List Dom) (s : State) : Out State := effect s fun d => d.switchEntry (retFail.map (·.val))

/-- IDLE_MS of ACLK have passed since the last activity (R331). -/
def Dev.idleLong (d : Dev) : Bool :=
  d.g PWR_REENTER_IDLE_MS * 32768 ≤ 1000 * ((d.clock.aclk.toNat + 2 ^ 48 - d.pwr.busyAt) % 2 ^ 48)

/-- A HINT request stands, or a refusal condition of the set `p` (R331). -/
def Dev.reentryBusy (d : Dev) (p : List Nat × List Nat) : Bool :=
  ((List.range 4).any fun t => d.flag HOST_STATUS_REQ t) || (p.1 ++ p.2).any fun n => d.domOn n && (d.bowReason p.1 n).isSome

/-- What puts a re-entry off while it stands (R331). -/
def Dev.noteBusy (d : Dev) : Dev :=
  match d.pwr.lastSet with
  | some p => if d.flag PWR_REENTER_EN && d.reentryBusy p then d.inPwr fun s => { s with busyAt := d.clock.aclk.toNat } else d
  | none => d

/-- R331: the set of the last entry again, after a timer or Tap wake and IDLE_MS of idleness. -/
def Dev.reenter (d : Dev) : Dev :=
  let woken := d.pwr.wokenBy
  let alone := woken != 0 && woken &&& 0x300 == woken
  match d.pwr.lastSet with
  | some p =>
    if d.flag PWR_REENTER_EN && alone && d.idleLong && !d.reentryBusy p && !d.flag PWR_STATUS_WAKING && !(1 ≤ d.entry && d.entry ≤ 3)
        && !d.tap.stopped then
      d.beginEntry (p.1.filter fun n => d.domState n != .off) (p.2.filter fun n => d.domState n == .on)
    else d
  | none => d

def execReentry (s : State) : Out State := effect s fun d => d.reenter

/-! ### Clocks (R330, R333 to R335) -/

/-- XREF counted over 32 ACLK cycles: 26,484 edges, ±5 %. -/
def execXrefQualified (edges : Nat) (s : State) : Out State :=
  effect s fun d =>
    if !d.domOn domCore || !d.onRc then d
    else
      let ok := 100 * edges ≤ 105 * 26484 && 95 * 26484 ≤ 100 * edges
      ((d.p CLK_MEAS_XREF_COUNT 0 edges).pf CLK_STATUS_XREF_OK 0 ok).inPwr fun s => { s with xref := ok }

/-- CCLK returns to XREF, and the domains that wait for it run (R330, R334). -/
def Dev.clockUp (d : Dev) : Dev :=
  let (e, d) := d.roundOpen (2 * (d.now - d.pwr.rcSince : Nat)) 100
  let d := (d.p TEMPO_SYNC_ERR 0 (satAdd 16 (d.g TEMPO_SYNC_ERR) e.toNat)).p TEMPO_SYNC_RC_CLOCK 0 0
  let d := ((d.set1 CLK_STATUS_XREF_OK).set1 CLK_STATUS_PLL_LOCK).p CLK_STATUS_ON_RC 0 0
  let d := d.when d.pwr.fellBack fun d => d.set1 CLK_EVENTS_RESTORED
  let wait := d.pwr.clkWait
  let d := d.inPwr fun s => { s with clkWait := [], fellBack := false, xref := true }
  (d.each wait fun d n => if d.domOn n then d else d.comeOn n).endWake

def execPllLock (s : State) : Out State :=
  effect s fun d => if d.domOn domCore && d.onRc && d.flag CLK_STATUS_XREF_OK then d.clockUp.settlePool else d

/-- The clock budget ends without lock (R334). -/
def execClockBudgetExpiry (s : State) : Out State :=
  effect s fun d =>
    if !d.onRc || d.pwr.clkWait.isEmpty then d
    else
      let d := if d.flag CLK_STATUS_XREF_OK then d.set1 PWR_FAULT_PLL_FAIL else d.set1 PWR_FAULT_XREF_FAIL
      let wait := d.pwr.clkWait
      ((d.each (wait.filter d.domOn) fun d n => d.leaveOn wait .held n).set1 PWR_WAKE_CAUSE_WAKE_FAULT).endWake

/-- The steward tries XREF and the PLL again (R334). -/
def execClockRetry (ok : Bool) (s : State) : Out State :=
  effect s fun d => if d.domOn domCore && d.onRc && d.g CLK_RETRY_RETRY_MS != 0 && ok then d.clockUp.settlePool else d

/-- Steps 2 and 3 of R335: drivers brake, programs abort, census jobs stop. -/
def Dev.stopWork (d : Dev) : Dev := (d.brakeAll.abortPrograms).endJob

/-- XREF is lost while running, or the PLL reports unlock (R335). -/
def Dev.loseXref (d : Dev) (unlock : Bool) : Dev :=
  if !d.domOn domCore || d.onRc then d
  else
    let d := if unlock then d.set1 CLK_EVENTS_PLL_UNLOCK else (d.set1 CLK_EVENTS_XREF_LOST).p CLK_STATUS_XREF_OK 0 0
    let d := ((d.p CLK_STATUS_PLL_LOCK 0 0).set1 CLK_STATUS_ON_RC).set1 CLK_EVENTS_FELL_BACK
    let d := (d.set1 TEMPO_SYNC_RC_CLOCK).inPwr fun s => { s with rcSince := d.now, fellBack := true, xref := unlock }
    let d := d.stopWork
    let held := xrefDoms.filter d.domOn
    let d := d.each held fun d n => d.leaveOn held .held n
    d.inPwr fun s => { s with clkWait := held }

def execXrefLoss (unlock : Bool) (s : State) : Out State := effect s fun d => (d.loseXref unlock).settlePool

/-- The ACLK crystal has given 4,096 stable cycles, `ms` after its start (R333, R360). -/
def execCrystalStart (ms : Nat) (s : State) : Out State :=
  effect s fun d =>
    if !d.pwr.xtalTry then d
    else
      let d := (((d.p AON_ACLK_SRC 0 0).p AON_ACLK_XTAL_FAIL 0 0).p AON_ACLK_START_MS 0 ms).set1 CLK_STATUS_ACLK_XTAL
      (d.inPwr fun s => { s with xtalTry := false }).inHealth fun h =>
        { h with xtalDay := some ms, xtalBase := some (h.xtalBase.getD ms) }

def execCrystalTimeout (s : State) : Out State :=
  effect s fun d =>
    if !d.pwr.xtalTry then d
    else (((d.set1 AON_ACLK_SRC).set1 AON_ACLK_XTAL_FAIL).set1 PWR_FAULT_ACLK_XTAL).inPwr fun s => { s with xtalTry := false }

/-- AON_ACLK.SRC_SEL: 0 tries the crystal, 1 takes the RC (R333, R348). -/
def Dev.selectAclk (d : Dev) (v : Bool) : Dev :=
  let d := d.pf AON_ACLK_SRC_SEL 0 v
  if v then ((d.set1 AON_ACLK_SRC).p CLK_STATUS_ACLK_XTAL 0 0).inPwr fun s => { s with xtalTry := false }
  else if d.flag AON_ACLK_SRC then d.inPwr fun s => { s with xtalTry := true }
  else d

def execSrcSel (t : Tenant) (v : Bool) (s : State) : Out State := effect s fun d => d.hostWrite t 0x300 fun d => d.selectAclk v

/-- The RC is trimmed against XREF: nothing that the spec names changes (R333). -/
def execRcTrim (s : State) : Out State := effect s fun d => d

/-- The bias controller's choice in 4 mV units, and the measured VCORE (R322). -/
def execBodyBiasUpdate (bias : Int) (vcoreMv : Nat) (s : State) : Out State :=
  effect s fun d =>
    let d := d.when (d.flag PWR_BIAS_BB_AUTO) fun d => d.ps PWR_BIAS_BB_ON 0 (clampInt (-38) 63 bias)
    d.pf PWR_BIAS_ASSIST 0 (decide (vcoreMv < d.g PWR_BIAS_ASSIST_MV))

/-! ### Supplies (R336, R394, R396) -/

/-- The retention regulator goes out of range while banks retain. -/
def execRetLost (s : State) : Out State :=
  effect s fun d =>
    let kept := allDoms.filter fun n => d.domState n == .retain
    if kept.isEmpty then d
    else
      let d := d.each kept fun d n => d.loseBank (n - 16)
      (d.set1 PWR_FAULT_RET_LOST).inPwr fun s => { s with lost := kept }

/-- A tamper event (R370): in BLANK and RETURN it is only counted. -/
def Dev.tamperEvent (d : Dev) (bit : Nat) : Dev :=
  let lc := d.fuses.lifeCycle
  let d := d.bump TAMPER_CNT_COUNT
  if lc = 1 ∨ lc = 2 then
    let (n, d) := (d.setBit TAMPER_STATUS_EVENT 0 bit).wipeVault
    d.raiseAon codeTamper bit n 0
  else d

/-- The condition of a sensor stands: the limits of R370, the upper temperature that of the order code (R2). -/
def Dev.tamperStands (d : Dev) (r : TamperReading) : Bool :=
  match r with
  | .mesh faulty => faulty
  | .vcore mv ns => (mv < 680 || 920 < mv) && 10 ≤ ns
  | .vaon mv => mv < 1620 || 3800 < mv
  | .clock phasePs xrefPs => phasePs < 1900 || xrefPs < 30000
  | .temperature c => c < -40 || (if d.fuses.orderE then 125 else 105) < c

/-- A sensor's reading: ACTIVE follows the condition, whose onset is the event. -/
def Dev.tamperSense (d : Dev) (r : TamperReading) : Dev :=
  if !d.tamperStands r then d.clearBit TAMPER_STATUS_ACTIVE 0 r.bit
  else if (d.g TAMPER_STATUS_ACTIVE).testBit r.bit then d
  else (d.setBit TAMPER_STATUS_ACTIVE 0 r.bit).tamperEvent r.bit

/-- VCORE or VANA falls while domains are On: their contents and items are lost (R396). -/
def Dev.supplyLost (d : Dev) (vcore : Bool) : Dev :=
  let on := (switchOrder.filter d.domOn)
  if on.isEmpty then d
  else
    let d := d.when vcore fun d => d.tamperSense (.vcore 0 10)
    let items := (if on.contains 1 then [1, 3, 4, 5, 6] else []) ++ (if on.contains domLane || on.contains domCall then [2] else [])
      ++ (if on.contains domHio || on.contains 38 then [7] else []) ++ (if on.contains 18 || on.contains 19 then [8] else [])
    let d := d.each on fun d n => d.leaveOn on .off n
    (d.p PWR_STATUS_WAKING 0 0).inPwr fun s =>
      { s with fresh := s.fresh.filter fun i => !items.contains i, groups := [], tries := [], clkWait := [], accepted := [], enterHeld := false }

def execSupplyFall (vcore : Bool) (s : State) : Out State := effect s fun d => (d.supplyLost vcore).settlePool

/-- VIOH (`hio`) or VIOS falls below 1.5 V, or returns (R394). -/
def Dev.vioLevel (d : Dev) (hio below : Bool) : Dev :=
  let n := if hio then domHio else domSio
  let i := if hio then 0 else 1
  let was := vget d.pwr.vioLow i false
  let d := d.inPwr fun s => { s with vioLow := vupdN s.vioLow i fun _ => below }
  if below then (if d.domOn n then d.holdFault n else d)
  else if was && d.domState n == .held then d.wakeDoms [n] else d

def execVioBelow1v5 (hio below : Bool) (s : State) : Out State := effect s fun d => (d.vioLevel hio below).settlePool

/-! ### The Tap (R337, R338) -/

def Dev.tapView (d : Dev) (k : Nat) : TapView := vget d.pwr.taps k newTap
def Dev.putTap (d : Dev) (k : Nat) (f : TapView → TapView) : Dev := d.inPwr fun s => { s with taps := vupdN s.taps k f }

/-- The Tap pings SEG0 (`k` = 0) or SEG12. -/
def Dev.tapPings (d : Dev) (k : Nat) : Bool :=
  d.flag TAP_CTRL_EN && (d.g TAP_CTRL_SEGS).testBit k && d.domState (if k = 0 then 5 else 7) == .off

def Dev.mcount (d : Dev) : Nat := max 1 (d.g TAP_CTRL_MCOUNT)

/-- MOTION from the counters of the pinged segments. -/
def Dev.tapMotion (d : Dev) (k : Nat) : Dev :=
  let m := d.mcount
  let still := [0, 1].all fun j => !d.tapPings j || m ≤ (d.tapView j).stills
  if m ≤ (d.tapView k).moves then
    let rose := !d.flag TAP_STATUS_MOTION
    let d := (d.set1 TAP_STATUS_MOTION).inPwr fun s => { s with motion := true }
    if rose then (d.set1 TAP_EVENTS_MOTION).when (d.flag TAP_CTRL_WAKE_MOTION) fun d => d.fireSource 9 else d
  else if still then d.p TAP_STATUS_MOTION 0 0
  else d

/-- A ping with a ring-down: offset `f` in kHz, ratio `a` in 1/256. -/
def Dev.pingHeard (d : Dev) (k : Nat) (f : Int) (a : Nat) : Dev :=
  let (rf, ra, rfail, rbase, rpres) := if k = 0 then (TAP_MEAS0_F, TAP_MEAS0_A, TAP_STATUS_FAIL0, TAP_BASE_F_EMPTY0, TAP_STATUS_PRES0)
    else (TAP_MEAS12_F, TAP_MEAS12_A, TAP_STATUS_FAIL12, TAP_BASE_F_EMPTY12, TAP_STATUS_PRES12)
  let f := satSigned 16 f
  let v := d.tapView k
  let big := match v.last with
    | some (g, b) => decide (d.g TAP_THRESH_DF_MOTION ≤ (f - g).natAbs) || decide (d.g TAP_THRESH_DA_MOTION ≤ ((a : Int) - b).natAbs)
    | none => false
  let d := ((d.ps rf 0 f).p ra 0 a).p rfail 0 0
  let d := d.when v.learn fun d => (d.ps rbase 0 (satSigned 8 f)).set1 TAP_EVENTS_LEARNED
  let d := d.putTap k fun v =>
    { v with last := some (f, a), learn := false
             moves := if v.last.isSome then (if big then v.moves + 1 else 0) else v.moves
             stills := if v.last.isSome then (if big then 0 else v.stills + 1) else v.stills }
  let d := d.tapMotion k
  let pres := decide (d.g TAP_THRESH_DF_TAG ≤ (f - d.gs rbase).natAbs)
  if pres = d.flag rpres then d
  else ((d.pf rpres 0 pres).set1 TAP_EVENTS_PRESENCE).when (d.flag TAP_CTRL_WAKE_PRESENCE) fun d => d.fireSource 9

/-- A ping: `ring` that it has a ring-down. -/
def execTapPing (k : Fin 2) (f : Int) (a : Nat) (ring : Bool) (s : State) : Out State :=
  effect s fun d =>
    if !d.tapPings k then d
    else
      let d := d.inc TAP_STATUS_PINGS
      if ring then d.pingHeard k f a
      else
        ((d.set1 (if k = 0 then TAP_STATUS_FAIL0 else TAP_STATUS_FAIL12)).set1 TAP_EVENTS_PING_FAIL).putTap k fun v =>
          { v with last := none, moves := 0, stills := 0 }

/-- TAP_CTRL.LEARN (R338). -/
def Dev.learnTaps (d : Dev) : Dev :=
  d.each ((List.range 2).filter fun k => (d.g TAP_CTRL_SEGS).testBit k) fun d k => d.putTap k fun v => { v with learn := true }

def execLearn (t : Tenant) (s : State) : Out State := effect s fun d => d.hostWrite t 0x301 Dev.learnTaps

end Sys2Proof.Machine
end

