-- ==== Sys2Proof/Machine/Longevity.lean ====
section
/-!
DEFINITION. The scrubber, the longevity monitor and the AON scrubber (14_dependability_longevity.md R352 to R365, R339).
-/

-- One declaration after another: the package is compiled as one text under a memory limit.
set_option Elab.async false

namespace Sys2Proof.Machine

/-! ### The scrubber (R352 to R354) -/

/-- A two-bit error of a queue's cell (R268). Which queue, and whether data, link or kind word, the word's address does not
say in this model: free values decide (notes/assumptions/40.md). -/
def Dev.poolEcc (d : Dev) (k word : Nat) : Dev :=
  let qs := (List.range 64).filter fun q => d.queueUsed q && !(d.queue q).words.isEmpty
  let (f, d) := d.freeVal
  let d := d.bump POOL_ERR_ECC
  match qs[f % (qs.length + 1)]? with
  | none => d.raise codeEcc (10 + k) (word % 0x8000) 0
  | some q =>
    let (g, d) := d.freeVal
    let words := (d.queue q).words
    if g % 2 = 0 then
      let (i, d) := d.freeVal
      let lost : QWord := { w := markerWord markLost q 1, marker := true }
      (d.putQueue q fun x => { x with words := x.words.set (i % words.length) lost }).raise codeQueueEcc q 0 0
    else
      let (j, d) := d.freeVal
      let n := j % (d.queue q).dataCells
      let d := d.restartQueue q
      let n := min n d.que.free
      (d.inQue fun s => { s with free := s.free - n, orphans := s.orphans + n }).raise codeQueueEcc q 1 0

/-- What follows a two-bit error that the scrubber meets first, in word `word` of bank `k` (R148, R172, R200, R252, R268, R354). MEM05's
structures are taken in the order of R11: 20 lane buffers, the four cores' stores, the scoreboard. -/
def Dev.eccLoss (d : Dev) (k word : Nat) : Dev :=
  let w := 0x8000 * k + word
  if k = 2 ∨ k = 3 then
    let i := (w - cenBase) / 8
    ((d.loseEntry i).eccClear k word).raise codeCensusEcc k i 0
  else if k = 6 ∨ k = 7 then
    let i := (w - watchBase) / 4
    ((d.inHub fun h => { h with watchOff := i :: h.watchOff }).bump HUB_ERR_ECC).raise codeHubEcc k (0x8000 + i) 0
  else if k = 8 ∨ k = 9 then
    let i := if w < statBase then (w - slotBase) / 16 else (w - statBase) / 32
    if 1024 ≤ i then d.raise codeEcc k word 0
    else
    let d := d.inHub fun h => { h with slotsOff := i :: h.slotsOff }
    let d := match d.hubSlot i with
      | some e => (d.freshBank e 0).freshBank e 1
      | none => d
    (d.bump HUB_ERR_ECC).raise codeHubEcc k i 0
  else if 10 ≤ k ∧ k ≤ 19 then d.poolEcc (k - 10) word
  else if k = 5 then
    let d := d.raise codeEcc k word 0
    if word < 0x5000 then d.laneFailure (word / 0x400) else if word < 0x7000 then d.coreFailure ((word - 0x5000) / 0x800) else d
  else d.raise codeEcc k word 0

/-- One scrub slot of bank `k`: a queued word again, or the next word, of which `hit` says how many bits a new error has. -/
def Dev.scrubBank (d : Dev) (k : Nat) (hit : Option Nat) : Dev :=
  match vget d.health.fix k [] with
  | w :: rest =>
    d.inHealth fun h =>
      { h with fix := vupdN h.fix k fun _ => rest, ecc := h.ecc.filter fun e => !(e.bank == k && e.word == w && e.bits == 1) }
  | [] =>
    let w := vget d.health.scrubPos k 0
    let d := match hit with
      | some b => d.inHealth fun h => { h with ecc := { bank := k, word := w, bits := b } :: h.ecc.filter fun e => !(e.bank == k && e.word == w) }
      | none => d
    let d := d.inHealth fun h => { h with scrubPos := vupdN h.scrubPos k fun _ => (w + 1) % 0x8000 }
    let d := d.when (k == 0 && w == 0x7FFF) fun d => d.inc HEALTH_SCRUB_PASSES
    let e := d.eccOf k w
    if e = 0 then d
    else if e = 1 then d.eccCorrect k w
    else
      match d.eccBad k w with
      | (true, d) => d.eccLoss k w
      | (false, d) => d

/-- One scrub slot of every bank in state On; `hits`: bank, and 1 or 2 bits in error in the word it reads. -/
def Dev.scrub (d : Dev) (hits : List (Nat × Nat)) : Dev :=
  if d.flag HEALTH_CTRL_SCRUB_EN && d.domOn domCore then
    d.each ((List.range 24).filter d.bankOn) fun d k => d.scrubBank k (((hits.find? fun p => p.1 == k).map (·.2)).bind fun b => if b = 0 then none else some (min b 2))
  else d

def execScrubRead (hits : List (Nat × Nat)) (s : State) : Out State := effect s fun d => (d.scrub hits).settlePool

/-- The AON scrubber finds an uncorrectable error in a page of the Encore RAM (R339). -/
def execAonScrubber (page : Fin 16) (s : State) : Out State := effect s fun d => d.setBit PWR_ENCORE_BAD_PAGES 0 page

/-! ### Metrics (R360) -/

/-- A metric of 1. -/
abbrev unit60 : Nat := 2 ^ 60

/-- The greatest r with r¹⁰ ≤ `n`, from `r` on and bit by bit from 2ᵏ⁻¹ down. -/
def tenthRoot (n : Nat) : Nat → Nat → Nat
  | 0, r => r
  | k + 1, r => tenthRoot n k (if (r + 2 ^ k) ^ 10 ≤ n then r + 2 ^ k else r)

/-- The stress factor 2^((TEMP − 105) / 10) in 2⁻⁴⁰ units, rounded down: R360 gives no precision (notes/assumptions/99.md). -/
def stressFactor (temp : Int) : Nat := tenthRoot (2 ^ (295 + temp).toNat) 64 0

/-- What one millisecond adds to a driver's metric, in 2⁻⁶⁰ (R360); DRV_LIFE or IREF of 0 leaves it open. -/
def Dev.stressStep (d : Dev) (n : Nat) : Nat × Dev :=
  let life := d.g LONG_DRV_DRV_LIFE * 360000000
  let iref := d.g LONG_DRV_IREF * 10
  if life = 0 ∨ iref = 0 then d.freeVal
  else
    let i := d.g SEG_MEAS_IMAG n
    ((i * i * stressFactor (d.gs SEG_TEMP_TEMP n) * 2 ^ 20) / (iref * iref * life), d)

/-- A millisecond of stress for every driver that is not IDLE and not frozen (R360, R362). -/
def Dev.stressAll (d : Dev) : Dev :=
  d.each ((List.range 24).filter fun n => d.segState n != segIdle && !(vget d.health.elems n newElem).frozen) fun d n =>
    let (x, d) := d.stressStep n
    d.inHealth fun h => { h with elems := vupdN h.elems n fun e => { e with m := e.m + x } }

/-- A quotient in 2⁻⁶⁰; a divisor of 0 leaves it open. -/
def Dev.metric (d : Dev) (num : Int) (den : Int) : Int × Dev :=
  if den = 0 then
    let (v, d) := d.freeVal
    ((v : Int), d)
  else (num * (unit60 : Int) / den, d)

/-- The day's metric of element `i`; none on a day that gives it no sample. -/
def Dev.dayMetric (d : Dev) (i : Nat) : Option Int × Dev :=
  if i < 24 then (some (vget d.health.elems i newElem).m, d)
  else if i < 48 then
    let (sum, k) := vget d.health.coilDay (i - 24) (0, 0)
    match vget d.health.coilBase (i - 24) none with
    | some base =>
      if k = 0 then (none, d)
      else
        let (v, d) := d.metric (64 * ((sum : Int) - k * base)) (k * base * ((d.g LONG_LIMITS_COIL_RISE : Nat) - 64))
        (some v, d)
    | none => (none, d)
  else if i < 72 then
    let (v, d) := d.metric ((vget d.health.bankDay (i - 48) 0 : Nat) : Int) (d.g LONG_LIMITS_BANK_LIMIT)
    (some (min v unit60), d)
  else if i = 72 then
    let (v, d) := d.freeVal
    (some v, d)
  else
    match d.health.xtalDay, d.health.xtalBase with
    | some ms, some base =>
      let (v, d) := d.metric ((ms : Int) - base) (1000 - base)
      (some v, d)
    | _, _ => (none, d)

/-! ### The fit (R361) -/

/-- Sums of a window: n, Σx, Σy, Σx², Σxy, Σy². -/
structure FitSums where
  n : Int
  x : Int
  y : Int
  xx : Int
  xy : Int
  yy : Int

def fitSums (w : List (Nat × Int)) : FitSums :=
  w.foldl (fun s p =>
    let x : Int := p.1
    { n := s.n + 1, x := s.x + x, y := s.y + p.2, xx := s.xx + x * x, xy := s.xy + x * p.2, yy := s.yy + p.2 * p.2 }) ⟨0, 0, 0, 0, 0, 0⟩

/-- floor(16 σ / s), at most 255, for a slope num / den above 0. -/
def fitSpread (s : FitSums) (num den : Int) : Nat :=
  let a := s.n * s.yy - s.y * s.y
  let q := 256 * ((a * den - num * num) * den) / (s.n * s.n * (num * num))
  isqrt (min q.toNat 65025)

/-- Days left at metric `m` and slope num / den a day. -/
def daysLeft (m num den : Int) : Nat :=
  if (unit60 : Int) ≤ m then 0
  else if num ≤ 0 then 0xFFFF
  else
    let v := (((unit60 : Int) - m) * den / num).toNat
    let far := decide (65534 * num < ((unit60 : Int) - m) * den)
    if far then 0xFFFF else v

/-- Steps 2 and 3 of R361 for the window of an element; its slope for item 6 is rounded to the nearest, ties open. -/
def Dev.fitElem (d : Dev) (i : Nat) : Dev :=
  let e := vget d.health.elems i newElem
  let n := e.window.length
  match e.restored, decide (n < 8) with
  | some _, true => d
  | _, _ =>
    if n < 3 then d.inHealth fun h => { h with elems := vupdN h.elems i fun e => { e with days := 0xFFFF, conf := 0, slope := 0, sat := false } }
    else
      let s := fitSums e.window
      let num := s.n * s.xy - s.x * s.y
      let den := s.n * s.xx - s.x * s.x
      let m := ((e.window.head?).map (·.2)).getD 0
      let conf := if 0 < num then min 255 (8 * n) - min 255 (fitSpread s num den) else min 255 (8 * n)
      let (sl, d) := if 0 < num ∧ 0 < den then d.roundOpen num (den.toNat * 2 ^ 38) else (0, d)
      d.inHealth fun h =>
        { h with elems := vupdN h.elems i fun e =>
            { e with days := daysLeft m num den, conf := conf, slope := min sl.toNat 0xFFFF, sat := decide (0xFFFF < sl), restored := none } }

/-- The day of element `i`: a sample appended, and the fit (R361, R362). A metric below 0 has no form in a record: free. -/
def Dev.latchElem (d : Dev) (i : Nat) : Dev :=
  if (vget d.health.elems i newElem).frozen then d
  else
    match d.dayMetric i with
    | (none, d) => d.fitElem i
    | (some m, d) =>
      let (shown, d) := if m < 0 then d.freeVal else (m.toNat, d)
      let day := d.g LONG_DAY_DAY
      (d.inHealth fun h =>
        { h with elems := vupdN h.elems i fun e => { e with m := shown, window := ((day, m) :: e.window).take 32 } }).fitElem i

/-! ### Tags (R361, class 5) -/

/-- WEAR of an entry. -/
def Dev.entWear (d : Dev) (i : Nat) : Nat := d.ce i 4 24 8

/-- The prediction of a tag: DAYS and CONF. -/
def tagPrediction (limit wear w0 days : Nat) : Nat × Nat :=
  if w0 + 2 ≤ wear then (min 0xFFFF ((limit - wear) * days / (wear - w0)), min 255 (16 * (wear - w0)))
  else (0xFFFF, 0)

/-- The bases of the entries of the present Day: a new one for an ACTIVE entry without, and every prediction afresh. -/
def Dev.latchTags (d : Dev) : Dev :=
  let day := d.g LONG_DAY_DAY
  let limit := d.g LONG_LIMITS_NVM_LIMIT
  let old := fun (i : Nat) => d.health.tagBase.find? fun b => b.idx == i && b.w0 ≤ d.entWear i
  let one := fun (i : Nat) =>
    let base : Option TagBase :=
      match old i with
      | some b => some b
      | none =>
        if d.entState i = stActive then
          some { idx := i, sa := d.entSa i, w0 := d.entWear i, d0 := day, days := 0xFFFF, conf := 0, warned := false }
        else none
    base.map fun b =>
      let p := tagPrediction limit (d.entWear i) b.w0 (day - b.d0)
      { b with sa := d.entSa i, days := p.1, conf := p.2 }
  if d.bankOn 2 && d.bankOn 3 then d.inHealth fun h => { h with tagBase := (entries.filter fun i => d.entState i != stFree).filterMap one }
  else d

/-! ### LONG_WORST (R374) -/

/-- Class, index, DAYS and CONF of every unfrozen element, in the order of ties. -/
def Dev.predictions (d : Dev) : List (Nat × Nat × Nat × Nat) :=
  let elem := fun (c i k : Nat) =>
    let e := vget d.health.elems k newElem
    if e.frozen then none else some (c, i, e.days, e.conf)
  (List.range 24).filterMap (fun i => elem 0 i i) ++ (List.range 24).filterMap (fun i => elem 1 i (24 + i)) ++ (elem 2 0 72).toList
    ++ (List.range 24).filterMap (fun i => elem 3 i (48 + i)) ++ (elem 4 0 73).toList
    ++ (sortBy (fun a b => decide (a.2.1 < b.2.1)) (d.health.tagBase.map fun b => (5, b.sa, b.days, b.conf)))

/-- The lowest DAYS with CONF at least MIN_CONF, the first on ties. -/
def Dev.latchWorst (d : Dev) : Dev :=
  let ps := d.predictions.filter fun p => d.g HEALTH_CTRL_MIN_CONF ≤ p.2.2.2
  let best := ps.foldl (fun (b : Option (Nat × Nat × Nat × Nat)) p =>
    match b with
    | none => some p
    | some q => if p.2.2.1 < q.2.2.1 then some p else b) none
  match best with
  | some (c, i, days, _) => ((d.p LONG_WORST_DAYS 0 days).p LONG_WORST_CLASS 0 c).p LONG_WORST_INDEX 0 i
  | none => ((d.p LONG_WORST_DAYS 0 0xFFFF).p LONG_WORST_CLASS 0 0).p LONG_WORST_INDEX 0 0

/-- The snapshot that LONG_RESULT shows of an element (R374). -/
def Elem.snapshot (e : Elem) : Elem :=
  { e with before := e.shown, shown := { days := e.days, conf := e.conf, frozen := e.frozen, sat := e.sat } }

/-- The monitor's part of a Day boundary (R361). -/
def Dev.latchLong (d : Dev) : Dev :=
  let tags := d.health.tagBase
  let cyc := d.cycle
  let d := d.inc LONG_DAY_DAY
  let d := d.each (List.range 74) Dev.latchElem
  (d.latchTags.latchWorst).inHealth fun h =>
    { h with elems := vmap (fun _ e => e.snapshot) h.elems, latchCycle := cyc, tagBefore := tags, coilDay := vmap (fun _ _ => (0, 0)) h.coilDay, bankDay := vmap (fun _ _ => 0) h.bankDay, xtalDay := none, longDue := true }

/-! ### Longevity records (R363) -/

/-- A longevity record's three words. -/
def longRecord (cls idx days conf : Nat) (frozen sat : Bool) (m day : Nat) : List Nat :=
  [inField 24 8 0x41 + inField 19 5 2 + inField 16 3 cls + inField 0 12 idx,
   inField 0 16 days + inField 16 8 conf + inField 24 1 (flagOf frozen) + inField 25 1 (flagOf sat),
   inField 0 16 m + inField 16 16 day]

/-- DAYS and CONF that warn. -/
def Dev.warns (d : Dev) (days conf : Nat) : Bool := decide (days < d.g HEALTH_CTRL_WARN_DAYS) && decide (d.g HEALTH_CTRL_MIN_CONF ≤ conf)

def Dev.longWarn (d : Dev) (cls idx days conf : Nat) : Dev := d.raise codeLongWarn cls (days + inField 16 8 conf) idx

/-- The record of element `k`, and LONG_WARN once for each crossing. -/
def Dev.longElem (d : Dev) (cls idx k : Nat) : Dev :=
  let e := vget d.health.elems k newElem
  let d := d.pushHealth (longRecord cls idx e.days e.conf e.frozen e.sat (metricField e.m) (d.g LONG_DAY_DAY))
  let w := d.warns e.days e.conf
  let d := d.inHealth fun h => { h with elems := vupdN h.elems k fun e => { e with warned := w } }
  d.when (w && !e.warned) fun d => d.longWarn cls idx e.days e.conf

/-- The record of a tag that warns; an NVM_LIMIT of 0 leaves its metric open. -/
def Dev.longTag (d : Dev) (b : TagBase) : Dev :=
  let w := d.warns b.days b.conf
  let limit := d.g LONG_LIMITS_NVM_LIMIT
  let d := d.inHealth fun h => { h with tagBase := h.tagBase.map fun x => if x.idx = b.idx then { x with warned := w } else x }
  if w then
    let (m, d) := if limit = 0 then d.freeVal else (d.entWear b.idx * 65536 / limit, d)
    let d := d.pushHealth (longRecord 5 b.sa b.days b.conf false false (min m 0xFFFF) (d.g LONG_DAY_DAY))
    d.when (!b.warned) fun d => d.longWarn 5 b.sa b.days b.conf
  else d

/-- All records of a Day. -/
def Dev.longRecords (d : Dev) : Dev :=
  if !d.health.longDue then d
  else
    let d := d.inHealth fun h => { h with longDue := false }
    let d := d.each (List.range 24) fun d i => d.longElem 0 i i
    let d := d.each (List.range 24) fun d i => d.longElem 1 i (24 + i)
    let d := d.longElem 2 0 72
    let d := d.each (List.range 24) fun d i => d.longElem 3 i (48 + i)
    let d := d.longElem 4 0 73
    d.each d.health.tagBase Dev.longTag

def execLongevityRecords (s : State) : Out State := effect s fun d => d.longRecords.settlePool

/-- LONG_QUERY.REBASE with CLASS 1 (R360). -/
def Dev.rebaseCoil (d : Dev) (i : Nat) : Dev :=
  d.when (decide (i < 24)) fun d => d.inHealth fun h => { h with rebase := if h.rebase.contains i then h.rebase else i :: h.rebase }

/-- LONG_QUERY has been written: it names what LONG_RESULT shows. -/
def Dev.noteQuery (d : Dev) : Dev := d.inHealth fun h => { h with queried := true }

def execRebase (t : Tenant) (idx : BitVec 12) (s : State) : Out State :=
  effect s fun d => d.hostWrite t 0x1C0A fun d =>
    (((d.p LONG_QUERY_CLASS 0 1).p LONG_QUERY_INDEX 0 idx.toNat).noteQuery).rebaseCoil idx.toNat

/-- What LONG_RESULT shows: the snapshot, at the last Day latch, of the element that LONG_QUERY names; in a Day boundary cycle, the
one before it (R373, R374). -/
def Dev.longQuery (d : Dev) : Option LongShown :=
  let c := d.g LONG_QUERY_CLASS
  let i := d.g LONG_QUERY_INDEX
  let now := d.health.latchCycle == d.cycle
  let elem := fun (k : Nat) =>
    let e := vget d.health.elems k newElem
    some (if now then e.before else e.shown)
  if !d.health.queried then none
  else if c = 0 ∧ i < 24 then elem i
  else if c = 1 ∧ i < 24 then elem (24 + i)
  else if c = 2 ∧ i = 0 then elem 72
  else if c = 3 ∧ i < 24 then elem (48 + i)
  else if c = 4 ∧ i = 0 then elem 73
  else if c = 5 then
    match (if now then d.health.tagBefore else d.health.tagBase).find? fun b => b.sa == i with
    | some b => some { days := b.days, conf := b.conf, frozen := false, sat := false }
    | none => (d.holder i).map fun _ => noPrediction
  else none

end Sys2Proof.Machine
end

