-- ==== Sys2Proof/Machine/ReelOps.lean ====
section
/-!
DEFINITION. Loading a Reel, its activation and swap, and the boundaries of Tempo (02_reel.md R36 to R48; 04_tempo_angle.md
R92 to R103; 07_census.md R195).
-/

-- One declaration after another: the package is compiled as one text under a memory limit.
set_option Elab.async false

namespace Sys2Proof.Machine

/-! ### Loader states (R36) -/
abbrev reelEmpty : Nat := 0
abbrev reelLoading : Nat := 1
abbrev reelChecking : Nat := 2
abbrev reelStaged : Nat := 3
abbrev reelArmed : Nat := 4
abbrev reelRefused : Nat := 5

def Dev.reelState (d : Dev) : Nat := d.g REEL_STATUS_STATE
def Dev.putReelState (d : Dev) (v : Nat) : Dev := d.p REEL_STATUS_STATE 0 v
def Dev.reelSeqErr (d : Dev) : Dev := d.set1 REEL_STATUS_SEQ_ERR

def Dev.reelFuses (d : Dev) : ReelFuses :=
  { keyHash := d.fuses.keyHash.toNat, sigRequired := d.fuses.sigRequired, bootFlash := d.fuses.bootFlash }

/-- What the loader records of a check (R39, R41). -/
def Dev.reelVerdict (d : Dev) (e : ReelErr) : Dev :=
  ((d.p REEL_STATUS_ERR 0 e.code).p REEL_STATUS_ERR_SEC 0 e.sec).p REEL_ERR_OFFSET_OFFSET 0 e.off

/-- A refused image: its code and the count of refusals. -/
def Dev.noteRefusal (d : Dev) (e : ReelErr) : Dev :=
  ((d.reelVerdict e).bump REEL_REFUSALS_COUNT).inReel fun r => { r with staged := none }

/-- REFUSED, with the REEL cause of T0's request (R37, R41). -/
def Dev.refuseReel (d : Dev) (e : ReelErr) : Dev := ((d.noteRefusal e).putReelState reelRefused).inReel fun r => { r with irq := true }

/-! ### Host sessions and credits at an activation (R45, R46, R272, R296) -/

/-- A new total of credits (R46). -/
def HostCtx.retotal (c : HostCtx) (total : Nat) : HostCtx :=
  { c with free := total - c.outstanding, debt := c.outstanding - total }

/-- A session that ends once its commands are answered. -/
def HostCtx.finish (c : HostCtx) : HostCtx :=
  if c.outstanding = 0 then { c with session := none, ending := false } else { c with ending := true }

/-- The contexts under the first Reel: T0's goes on from the port that it has, the others end (R272). Sessions of T1 to T3
that a wake restored stay (R296). -/
def Dev.firstHosts (d : Dev) (r : Reel) : Dev :=
  let find := fun (t : Nat) => r.tenants.find? fun e => e.tenant == t
  let c0 := d.ctx 0
  let c4 := d.ctx 4
  let one := fun (t : Nat) =>
    match find t with
    | none => newCtx 0
    | some e =>
      if t = 0 then (if e.port = 0 then c0 else if e.port = 1 then c4 else newCtx e.credits).retotal e.credits
      else { newCtx e.credits with session := (d.ctx t).session }
  d.inHost fun h => { h with ctx := vmap (fun i _ => if i.val < 4 then one i.val else newCtx 0) h.ctx }

/-- The contexts at a swap. -/
def Dev.swapHosts (d : Dev) (old r : Reel) : Dev :=
  let find := fun (x : Reel) (t : Nat) => x.tenants.find? fun e => e.tenant == t
  let one := fun (t : Nat) (c : HostCtx) =>
    match find old t, find r t with
    | some o, some e =>
      let c := if o.credits = e.credits then c else c.retotal e.credits
      if o.port = e.port ∧ o.addr = e.addr then c else c.finish
    | some _, none => c.finish
    | none, some e => newCtx e.credits
    | none, none => c
  d.inHost fun h => { h with ctx := vmap (fun i c => if i.val < 4 then one i.val c else c) h.ctx }

/-! ### The census at an activation -/

/-- REF moves with REF_TAG; an entry that is REF no more keeps its position without trust. -/
def Dev.moveRefs (d : Dev) : Dev :=
  d.each (entries.filter fun i => d.entState i != stFree) fun d i =>
    let isRef := ((d.ringDef (d.entRing i)).map (·.refTag)) == some (d.entSa i)
    if isRef && !d.entRef i then d.putRef i
    else if !isRef && d.entRef i then (d.putCe i 3 23 1 0).putCe i 2 15 1 0
    else d

/-- After a wake in which MEM02 or MEM03 was Off: every entry FREE, and a rebuild of each ring (R195). -/
def Dev.wakeCensus (d : Dev) (r : Reel) : Dev :=
  if d.reel.rebuildDue && d.bankOn 2 && d.bankOn 3 then
    let d := ((d.clearBank 2).clearBank 3).inReel fun x => { x with rebuildDue := false }
    d.startRebuild (r.ring.map (·.ring))
  else d

/-! ### Rings restored after a wake (R99, R344, R345) -/

/-- The model of ring `x` from its 16 stored bytes, `dt` ticks later. -/
def Dev.restoreRing (d : Dev) (x dt : Nat) (bs : List Byte) : Dev :=
  let count := leAt bs 0 5
  let inc := signedOf 32 (leAt bs 8 4)
  let fl := leAt bs 12 1
  let frac : Int := (leAt bs 5 3 * 65536 : Nat)
  let revs := if d.pwr.motion then max 1 (inc.natAbs * dt / turn40) else 0
  let d := d.putRing x fun r => ({ r with inc := inc }.setSub ((frac + inc * dt) % turn40).toNat).setCount (count + revs)
  ((((d.set1 RING_STATUS_PROVISIONAL x).set1 RING_STATUS_COUNT_EST x).p RING_STATUS_VALID x 0).pf RING_STATUS_STILL x (fl.testBit 1)).pf
    RING_STATUS_REVERSE x (fl.testBit 2)

/-- Ring-bound items, where the RING section is the stored one: the models over the sleep T1 - T0, the phases and the checkpoint.
Without item 3, or with another section, the counts start at 0, estimated. -/
def Dev.restoreRings (d : Dev) (r : Reel) : Dev :=
  match d.pwr.kept with
  | none => d
  | some k =>
    let d := d.inPwr fun s => { s with kept := none }
    let same := k.crc == r.ringCrc
    let d := d.each r.ring fun d e =>
      if same && k.rings != [] then d.restoreRing e.ring (k.t1 - k.t0) (k.rings.getD e.ring []) else d.set1 RING_STATUS_COUNT_EST e.ring
    if !same then d
    else
      let ph := fun i => k.phases.getD i 0
      let d := d.when (k.phases != []) fun d =>
        (((d.p FLD_RING_PHASE_RING_A 0 (ph 0)).p FLD_RING_PHASE_RING_B 0 (ph 1)).p FLD_RING_PHASE_RING_C 0 (ph 2)).p FLD_RING_PHASE_RING_D 0 (ph 3)
      d.inCen fun c => { c with seeds := k.seeds }

/-! ### Activation (R40, R42, R45) -/

/-- The least multiple of the Period after the present tick (R100). -/
def Dev.nextPeriod (d : Dev) (ms : Nat) : Nat := let p := max 1 ms * msTicks; (d.now / p + 1) * p

/-- What REEL_STATUS and REEL_ACTIVE_SERIAL say of the active Reel. -/
def Dev.reelShown (d : Dev) (r : Reel) (flash : Bool) : Dev :=
  let d := ((d.set1 REEL_STATUS_ACTIVE).pf REEL_STATUS_SIGNED 0 r.signed).pf REEL_STATUS_BOOT_SRC 0 flash
  (d.p REEL_STATUS_FORMAT 0 (r.format - 1)).p REEL_ACTIVE_SERIAL_SERIAL 0 r.serial

/-- The hub's graph under the new Reel; the registers of a HUB that is Off stay at reset. -/
def Dev.reelHub (d : Dev) (old : Option Reel) (r : Reel) : Dev :=
  (d.setHub (old.map (·.hub)) r.hub).when (!d.domOn domHub) fun d => d.clearRegs 0x1400 0x17FF

/-- Domains of POLICY 3 go Off without Bow (R327). -/
def Dev.heldOff (d : Dev) (r : Reel) : Dev :=
  let goes := (r.power.filter fun e => e.policy == 3).map (·.dom)
  (d.each (switchOrder.filter fun n => goes.contains n && d.domState n != .off) fun d n => d.leaveOn goes .off n).inPwr fun s =>
    { s with clkWait := s.clkWait.filter fun n => !goes.contains n }

/-- The Reel `r` becomes active; `old` was. A swap lists every entry that it finds in CANDIDATE (R412). -/
def Dev.applyReel (d : Dev) (old : Option Reel) (r : Reel) (flash : Bool) : Dev :=
  let ringIn := fun (x : Option Reel) (n : Nat) => x.bind fun y => y.ring.find? fun e => e.ring == n
  let before := fun (e : RingDef) => if ringIn old e.ring = some e then d.gaps e else []
  let candidates := if old.isSome then entries.filter fun i => d.entState i == stCandidate else []
  let was := r.ring.map fun e => (e, before e)
  let d := if old.isNone then d.restoreRings r else d
  let d := d.inReel fun s => { s with active := some r }
  let d := d.each (List.range 4) fun d x => d.setRing x (ringIn old x) (ringIn (some r) x)
  let d := d.setAllWindows
  let d := d.each was fun d p => d.rewindow p.1 p.2
  let d := d.applyQmap ((old.map (·.qmap)).getD []) r.qmap
  let d := d.reelHub old r
  let d := d.when (d.domOn domLane) fun d => d.setLanes r
  let d := d.when (d.domOn domDec) fun d => d.setCores r
  let d := d.moveRefs
  let d := d.each candidates fun d i => d.joinEntry { idx := i, plan := none, regen := false }
  let d := d.p TAP_INTERVAL_MS 0 r.tapMs
  let d := if old.isNone then (d.p TEMPO_PERIOD_PERIOD_MS 0 r.hub.periodMs).inTempo fun s => { s with periodNext := some (d.nextPeriod r.hub.periodMs), periodNew := none }
    else d.inTempo fun s => { s with periodNew := some r.hub.periodMs }
  let d := match old with
    | none => d.firstHosts r
    | some o => d.swapHosts o r
  let d := d.when (d.domOn domSio) fun d => d.p SBUS_STATUS_ENABLED 0 ((List.range 4).map fun b => if d.busEnabled b then 2 ^ b else 0).sum
  let d := (d.reelShown r flash).heldOff r
  if old.isNone then d.wakeCensus r else d

/-! ### Loading (R37 to R41, R47) -/

/-- MEM20 and MEM21 are forced On. -/
def Dev.forceStaging (d : Dev) : Dev :=
  d.each [36, 37] fun d n => if d.domOn n then d else if d.domState n = .retain then d.bankBack n else d.comeOn n

/-- REEL_CTRL.START. -/
def Dev.reelStart (d : Dev) : Dev :=
  if d.reel.boot.isSome then d
  else
    let d := d.inReel fun r => { r with irq := false }
    if d.reelState = reelArmed then d.reelSeqErr
    else
      let d := (d.inReel fun r => { r with bytes := [], total := none, staged := none }).p REEL_COUNT_BYTES 0 0
      d.forceStaging.putReelState reelLoading

/-- The header's checks, as its bytes arrive (R38). -/
def Dev.headerCheck (d : Dev) : Dev :=
  let bs := d.reel.bytes
  let n := bs.length
  let found := if n = 8 then firstBad 0 (headFindings8 bs) else if n = hdrLen bs then firstBad 0 (headFindings bs) else .ok ()
  match found with
  | .error e => d.refuseReel e
  | .ok () => if n = hdrLen bs ∧ 8 < n then d.inReel fun r => { r with total := some (hdrTotal bs) } else d

/-- A word of the Reel. -/
def Dev.reelWord (d : Dev) (w : Word) : Dev :=
  if d.reel.boot.isSome then d
  else if d.reelState ≠ reelLoading then d.reelSeqErr
  else
    let d := d.inReel fun r => { r with bytes := r.bytes ++ leBytes 4 w.toNat }
    let d := d.p REEL_COUNT_BYTES 0 d.reel.bytes.length
    let d := if d.reel.total.isNone then d.headerCheck else d
    if d.reelState = reelLoading ∧ d.reel.total = some d.reel.bytes.length then d.putReelState reelChecking else d

/-- CHECKING ends (R37, R39, R42). The first Reel that passes goes through STAGED. -/
def Dev.checkDone (d : Dev) : Dev :=
  if d.reelState ≠ reelChecking then d
  else
    match checkReel d.reelFuses d.reel.active d.reel.bytes with
    | .error e => d.refuseReel e
    | .ok r =>
      let d := (d.reelVerdict ⟨0, 0, 0⟩).p REEL_STAGED_SERIAL_SERIAL 0 r.serial
      let d := d.inReel fun s => { s with irq := true }
      if d.reelOn then (d.inReel fun s => { s with staged := some r }).putReelState reelStaged
      else (d.putReelState reelEmpty).applyReel none r false

/-- REEL_CTRL.ARM (R42). -/
def Dev.reelArm (d : Dev) (x : Nat) (any : Bool) : Dev :=
  if d.reel.boot.isSome then d
  else if d.reelState ≠ reelStaged ∨ (any = false ∧ (d.ringDef x).isNone) then d.reelSeqErr
  else (d.inReel fun s => { s with armed := some (if any then .any else .ring x) }).putReelState reelArmed

/-- REEL_CTRL.DISARM (R43, R47). Outside ARMED it does nothing, and sets no SEQ_ERR (DESIGN CHOICE, notes/assumptions/14.md). -/
def Dev.reelDisarm (d : Dev) : Dev :=
  if d.reel.boot.isSome then d
  else if d.reelState = reelArmed then (d.inReel fun s => { s with armed := none }).putReelState reelStaged
  else d

/-- REEL_STATUS.WAIT_ANGLE (R43). -/
def Dev.waitAngle (d : Dev) : Bool :=
  let stuck := fun x => !d.ringValid x || d.ringStill x
  match d.reel.armed with
  | none => false
  | some (.ring x) => stuck x
  | some .any => (List.range 4).all fun x => (d.ringDef x).isNone || stuck x

/-- REEL_STATUS as it is read. -/
def Dev.reelStatus (d : Dev) : Word :=
  BitVec.ofNat 32 (d.g REEL_STATUS_STATE + inField 3 1 (d.g REEL_STATUS_ACTIVE) + inField 4 1 (d.g REEL_STATUS_SIGNED)
    + inField 5 1 (d.g REEL_STATUS_BOOT_SRC) + inField 6 1 (flagOf d.waitAngle) + inField 7 1 (d.g REEL_STATUS_FORMAT)
    + inField 8 8 (d.g REEL_STATUS_ERR) + inField 16 8 (d.g REEL_STATUS_ERR_SEC) + inField 24 1 (d.g REEL_STATUS_SWAP_DONE)
    + inField 25 1 (d.g REEL_STATUS_CARRY_ABORT) + inField 26 1 (d.g REEL_STATUS_SEQ_ERR))

/-- `n` bytes of a flash image; what was never programmed reads 0xFF. -/
def flashBytes (n : Nat) (image : List Byte) : List Byte := image.take n ++ List.replicate (n - image.length) 0xFF

/-- The verdict on a flash image: its length and the check (R38, R40). -/
def checkFlash (f : ReelFuses) (image : List Byte) : Nat × Except ReelErr Reel :=
  let head := flashBytes 64 image
  match checkHeader head with
  | .error e => (if hdrFormat head = 1 ∧ hdrLen head = 32 then 32 else 64, .error e)
  | .ok () => (hdrTotal head, checkReel f none (flashBytes (hdrTotal head) image))

/-- An image has been read from the boot flash (R40). -/
def Dev.bootImage (d : Dev) (image : List Byte) : Dev :=
  match d.reel.boot with
  | none => d
  | some alt =>
    let (n, found) := checkFlash d.reelFuses image
    let d := d.p REEL_COUNT_BYTES 0 n
    match found with
    | .ok r =>
      let d := ((d.reelVerdict ⟨0, 0, 0⟩).p REEL_STAGED_SERIAL_SERIAL 0 r.serial).inReel fun s => { s with boot := none }
      ((d.pf REEL_BOOT_ALT_USED 0 alt).putReelState reelEmpty).applyReel none r true
    | .error e =>
      if alt then (d.inReel fun s => { s with boot := none }).refuseReel e
      else ((d.noteRefusal e).set1 REEL_BOOT_ALT_TRIED).inReel fun s => { s with boot := some true }

/-! ### The swap (R42 to R45) -/

/-- The swap, in the boundary cycle of ring `x`. -/
def Dev.swapReel (d : Dev) (x : Nat) : Dev :=
  match d.reel.active, d.reel.staged with
  | some old, some r =>
    let busy := d.busySlots
    let a := d.stamp x
    let d := d.inFig fun f => { f with slots := vmap (fun _ s => s.map fun s => { s with carried := true }) f.slots }
    let d := d.inReel fun s =>
      { s with staged := none, armed := none, outgoing := if busy = 0 then none else some old,
               swapTick := if busy = 0 then none else some d.now }
    let d := ((d.p REEL_SWAP_LO_STAMP 0 a).p REEL_SWAP_HI_STAMP 0 (a / 2 ^ 32)).set1 REEL_STATUS_SWAP_DONE
    let d := (d.p REEL_CARRIED_CARRIED 0 busy).p REEL_CARRIED_ABORTED 0 0
    (d.putReelState reelEmpty).applyReel (some old) r false
  | _, _ => d

/-- The tick at which carried operations are aborted (R44). -/
def Dev.carryEnd (d : Dev) : Option Nat := d.reel.swapTick.map fun t => t + 2 * max 256 (d.g REEL_CARRY_LIMIT)

/-- A carried operation that still holds its slot at the limit (R44). -/
def Dev.abortCarried (d : Dev) (i : Nat) : Dev :=
  let due := match d.carryEnd with
    | some t => decide (t ≤ d.now)
    | none => false
  if !due || !((d.slot i).map (·.carried)).getD false then d
  else
    let own := ClaimOwner.slot i
    let d := d.repeatSlot i
    let d := d.dropClaims fun c => c.owner == own
    let d := d.each (List.range 24) fun d n =>
      let d := d.dropHeld n i
      if d.hasGranted n own then (d.leaveGlide n).segToZero n else d
    let d := d.each (List.range 20) fun d l =>
      let d := d.putLane l fun x => { x with next := x.next.filter fun w => w.slot != i }
      d.when (((d.lane l).win.map (·.slot)) == some i) fun d => d.deliverEmpty l stNoReply
    let d := (d.abortSlotBus i).freeSlot i
    (d.bump REEL_CARRIED_ABORTED).set1 REEL_STATUS_CARRY_ABORT

/-! ### Boundaries (R92, R100, R101, R103) -/

/-- The Revolution boundary of ring `x`. -/
def Dev.revolution (d : Dev) (x : Nat) : Dev :=
  if (d.ringDef x).isNone || !d.flag RING_STATUS_ARMED x || !(d.ring x).wrapped then d
  else
    let now := d.now
    let d := (d.p RING_STATUS_ARMED x 0).putRing x fun r =>
      { r.setCount (r.count + 1) with wrapped := false, lastFire := none, skipBack := false, boundaryAt := some now }
    let d := d.learnedRevolution x
    let d := d.inFig fun f => { f with fired := vupdN f.fired x fun _ => [] }
    let segs := ((d.ringDef x).map RingDef.segs).getD []
    let d := d.each (segs.filter fun n => (d.seg n).reinstate) Dev.returnSeg
    let d := d.latchGroup x (d.stamp x)
    if d.reel.armed = some .any ∨ d.reel.armed = some (.ring x) then d.swapReel x else d

/-- The Period boundary; both audits run with it (R226, R270). -/
def Dev.periodEnd (d : Dev) : Dev :=
  match d.tempo.periodNext with
  | none => d
  | some t =>
    if d.now < t || !d.reelOn then d
    else
      let d := d.latchGroup 4 0
      let d := match d.tempo.periodNew with
        | some ms => (d.p TEMPO_PERIOD_PERIOD_MS 0 ms).inTempo fun s => { s with periodNew := none }
        | none => d
      let d := d.inTempo fun s => { s with periodNext := some (t + max 1 (d.g TEMPO_PERIOD_PERIOD_MS) * msTicks) }
      d.auditBooks.auditPool

/-- The Day boundary. -/
def Dev.dayEnd (d : Dev) : Dev :=
  if d.now < d.dayNext || !d.domOn domCore || d.pwr.resync then d
  else ((d.latchGroup 5 0).putDayNext (d.dayNext + dayTicks)).latchLong

/-- Records that AON held are raised in the order of their codes (R357). -/
def Dev.raiseHeld (d : Dev) : Dev :=
  let held := sortBy (fun (a b : HeldRecord) => decide (a.code < b.code)) d.pwr.held
  (d.inPwr fun s => { s with held := [] }).each held fun d r => d.raise r.code r.elem r.a0 r.a1

/-- The uncertainty of a resynchronisation over `dt` ticks (R97). -/
def Dev.syncErr (d : Dev) (dt : Nat) : Nat × Dev :=
  let (e, d) := if d.flag AON_ACLK_SRC then d.roundOpen (2 * dt : Nat) 100 else d.roundOpen (2 * dt : Nat) 100000
  (min 65535 ((if d.flag AON_ACLK_SRC then 0 else 828) + e.toNat), d)

/-- How many boundaries of a grid of `p` ticks, the next of them at `next`, have passed. -/
def Dev.passedOn (d : Dev) (next p : Nat) : Nat := if p = 0 ∨ d.now < next then 0 else (d.now - next) / p + 1

/-- Boundaries that passed while CORE was Off, on the grids of PERIOD_NEXT and DAY_NEXT as they stood; one latch for each of the two
groups (R103). -/
def Dev.passedWhileOff (d : Dev) : Dev :=
  let ms := match d.encItem 1 with
    | some w => if (leAt w 8 1).testBit 3 then leAt w 12 2 else 0
    | none => 0
  let periods := match d.pwr.periodNext with
    | some next => d.passedOn next (ms * msTicks)
    | none => 0
  let next := d.pwr.dayNext
  let days := d.passedOn next dayTicks
  let d := (d.p TEMPO_MISSED_PERIOD_MISSED 0 (min 0xFFFF periods)).p TEMPO_MISSED_DAY_MISSED 0 (min 0xFF days)
  let d := ((d.putDayNext (next + days * dayTicks)).latchGroup 4 0).latchGroup 5 0
  d.when (days != 0) fun d => (d.inc LONG_DAY_DAY 0 (days - 1)).latchLong

/-- Tempo loads the time stamp at the first ACLK edge after CORE came On (R97, R103). -/
def Dev.resync (d : Dev) : Dev :=
  if !d.pwr.resync then d
  else
    let d := d.inPwr fun s => { s with resync := false }
    let d := match d.encItem 3 with
      | none => d
      | some b =>
        let t0 := leAt b 0 8
        let ratio := leAt b 14 4
        let acl := (d.clock.aclk.toNat + 2 ^ 48 - leAt b 8 6) % 2 ^ 48
        let (dt, d) := d.roundOpen (acl * ratio : Nat) 65536
        let dt := max 1 dt.toNat
        let was := d.now
        let d : Dev := { d with clock := { d.clock with time := BitVec.ofNat 64 (t0 + dt) } }
        let late := fun (k : RingKept) => { k with t1 := t0 + dt }
        let d := d.inPwr fun s => { s with rcSince := t0 + dt + s.rcSince - was, kept := s.kept.map late }
        let (e, d) := d.syncErr dt
        let d := ((d.p TEMPO_SYNC_ERR 0 e).set1 TEMPO_SYNC_RESYNC).p TEMPO_ACLK_RATIO_RATIO 0 ratio
        d.passedWhileOff
    d.raiseHeld

/-! ### The commands -/

def execFlashBootImageRead (image : List Byte) (s : State) : Out State := effect s fun d => (d.bootImage image).settlePool

def execStart (t : Tenant) (s : State) : Out State := effect s fun d => (d.hostWrite t 0x800 Dev.reelStart).settlePool

def execReelData (t : Tenant) (w : Word) (s : State) : Out State := effect s fun d => (d.hostWrite t 0x810 fun d => d.reelWord w).settlePool

def execReelCheckDone (s : State) : Out State := effect s fun d => d.checkDone.settlePool

def execArm (t : Tenant) (r : Ring) (any : Bool) (s : State) : Out State := effect s fun d => (d.hostWrite t 0x800 fun d => d.reelArm r any).settlePool

def execDisarm (t : Tenant) (s : State) : Out State := effect s fun d => d.hostWrite t 0x800 Dev.reelDisarm

def execCarryAbort (slot : SlotId) (s : State) : Out State := effect s fun d => (d.abortCarried slot).settlePool

def execRevolutionBoundary (r : Ring) (s : State) : Out State := effect s fun d => (d.revolution r).settlePool

def execPeriodBoundary (s : State) : Out State := effect s fun d => d.periodEnd.settlePool

def execDayBoundary (s : State) : Out State := effect s fun d => d.dayEnd.settlePool

def execTimeResync (s : State) : Out State := effect s fun d => d.resync.settlePool

end Sys2Proof.Machine
end

