-- ==== Sys2Proof/Machine/LifeCycle.lean ====
section
/-!
DEFINITION. Power-on reset, tamper, the key commands and the life cycle (00_scope.md R7, 13_power_clocks_wake.md R320, R333;
14_dependability_longevity.md R367 to R372).
-/

-- One declaration after another: the package is compiled as one text under a memory limit.
set_option Elab.async false

namespace Sys2Proof.Machine

/-! ### Power-on reset -/

/-- The two bits of a state, its missing bit programmed (R372). -/
def mendPair (b : Fin 4) : Fin 4 := if b = 0 then 0 else 3

/-- One bit of the present state is unprogrammed. -/
def Fuses.halfDone (f : Fuses) : Bool :=
  let b := if f.lifeCycle = 3 then f.ret else if f.lifeCycle = 2 then f.field else f.make
  b == 1 || b == 2

/-- The fuses as a power-on reset loads them (R7, R372, R406). -/
def Fuses.reload (f : Fuses) : Fuses :=
  let rows := f.rows.toList.map BitVec.toNat
  { f with
    keyHash := BitVec.ofNat 256 ((rows.take 8).foldl (fun n w => n * 2 ^ 32 + w) 0)
    sigRequired := (rows.getD 8 0).testBit 0
    bootFlash := (rows.getD 8 0).testBit 1
    make := mendPair f.make
    field := mendPair f.field
    ret := mendPair f.ret }

/-- Power-on reset: the fuses load; the TAP, the tags outside and the model's counter stay (R7, R401, R403). Domains whose
pad supply is absent are Held (R394). -/
def Dev.powerOn (d : Dev) : Dev :=
  let f := d.fuses.reload
  let fresh : Dev :=
    { resetDev with
      freeCtr := d.freeCtr
      air := { resetDev.air with tags := d.air.tags }
      fuses := f
      tap := { resetTap with ir := d.tap.ir, stopped := d.tap.stopped, boundary := d.tap.boundary, captured := d.tap.captured, dr := d.tap.dr, acc := d.tap.acc }
      pwr := { resetPower with vioLow := d.pwr.vioLow, wakePins := d.pwr.wakePins }
      reel := { resetDev.reel with boot := if f.bootFlash then some false else none } }
  let low := [(0, domHio), (1, domSio)].filter fun p => vget d.pwr.vioLow p.1 false
  let fresh := fresh.each low fun d p => d.putDom p.2 .held
  let fresh := fresh.when d.fuses.halfDone fun d => d.set1 LC_STATUS_PARTIAL
  fresh.each (List.range 24) Dev.orderLimits

def execPowerOnReset (s : State) : Out State := effect s Dev.powerOn

/-! ### Key commands (R367, R369) -/

def execLoad (t : Tenant) (s : State) : Out State := effect s fun d => d.hostWrite t 0x1E06 Dev.loadKey
def execPromote (t : Tenant) (s : State) : Out State := effect s fun d => d.hostWrite t 0x1E06 Dev.promoteKey
def execErase (t : Tenant) (s : State) : Out State := effect s fun d => d.hostWrite t 0x1E06 Dev.eraseKey
def execWipe (t : Tenant) (s : State) : Out State := effect s fun d => d.hostWrite t 0x1E00 fun d => d.wipeVault.2

/-- A tamper sensor reads (R370). -/
def execTamper (r : TamperReading) (s : State) : Out State := effect s fun d => (d.tamperSense r).settlePool

/-! ### The life cycle (R371, R372) -/

/-- The transition is disarmed. -/
def Dev.disarmLc (d : Dev) : Dev := { d.p LC_STATUS_ARMED 0 0 with lc := { d.lc with armed := none } }

/-- More than 1 ms has passed since the arming write. -/
def Dev.lcLapsed (d : Dev) (tick aclk : Nat) : Bool := decide (tick + msTicks < d.now) || decide (aclk + 33 < d.clock.aclk.toNat)

/-- A write with KEY and GO = 0. -/
def Dev.armLc (d : Dev) (target : Nat) : Dev :=
  let d := d.disarmLc
  if target = d.fuses.lifeCycle + 1 then { d.set1 LC_STATUS_ARMED with lc := { d.lc with armed := some (target, d.now, d.clock.aclk.toNat) } }
  else d

/-- A write with KEY and GO = 1, VAON at `mv`. -/
def Dev.goLc (d : Dev) (target mv : Nat) : Dev :=
  let ok := match d.lc.armed with
    | some (g, tick, aclk) => g == target && target == d.fuses.lifeCycle + 1 && !d.lcLapsed tick aclk && decide (2500 ≤ mv)
    | none => false
  let d := d.disarmLc
  if ok then { d.wipeVault.2 with lc := { armed := none, programming := some target } } else d.set1 LC_STATUS_REFUSED

def execLcArm (t : Tenant) (target : Fin 4) (s : State) : Out State := effect s fun d => d.hostWrite t 0x1E11 fun d => d.armLc target

def execLcGo (t : Tenant) (target : Fin 4) (vaonMv : Nat) (s : State) : Out State :=
  effect s fun d => d.hostWrite t 0x1E11 fun d => d.goLc target vaonMv

def Fuses.program (f : Fuses) (state : Nat) (bits : Fin 4) : Fuses :=
  if state = 1 then { f with make := bits } else if state = 2 then { f with field := bits } else { f with ret := bits }

/-- The two bits are programmed and the device resets; power that fails between them leaves one, and no reset yet. -/
def Dev.lcProgrammed (d : Dev) (powerFailed : Bool) : Dev :=
  match d.lc.programming with
  | none => d
  | some n =>
    if powerFailed then { d.set1 LC_STATUS_PARTIAL with fuses := d.fuses.program n 1, lc := { d.lc with programming := none } }
    else { d with fuses := d.fuses.program n 3 }.powerOn

def execLcProgramDone (powerFailed : Bool) (s : State) : Out State := effect s fun d => d.lcProgrammed powerFailed

/-- The arming lapses 1 ms after its write. -/
def execLcArmExpiry (s : State) : Out State := effect s fun d => if d.lc.armed.isSome then d.disarmLc else d

end Sys2Proof.Machine
end

