-- ==== Sys2Proof/Machine/Test.lean ====
section
/-!
DEFINITION. The TAP, boundary scan, segment loopback and fuse programming (16_balls_electrical_test.md R401 to R406).
-/

-- One declaration after another: the package is compiled as one text under a memory limit.
set_option Elab.async false

namespace Sys2Proof.Machine

/-- IDCODE (R401). -/
abbrev tapIdcode : Nat := 0x12440A5F

/-- The instructions that stop functional operation (R403). -/
def TapInstr.stops (i : TapInstr) : Bool := i == .extest || i == .clamp || i == .highz || i == .segloop

/-- TESTACC is allowed in BLANK, MAKE and RETURN (R401). -/
def Dev.testStates (d : Dev) : Bool := d.fuses.lifeCycle != 2

/-- Functional operation stops (R403, R405). -/
def Dev.stopFunction (d : Dev) : Dev :=
  let d := (d.stopWork).inTap fun t => { t with stopped := true }
  if 1 ≤ d.entry ∧ d.entry ≤ 3 then d else d.wakeDoms allDoms

/-- SEG of TEST_LOOP_CTRL, above 23 taken as 23. -/
def Dev.loopSeg (d : Dev) : Nat := min 23 (d.g TEST_LOOP_CTRL_SEG)

/-- The SEGLOOP register as Capture-DR loads it. -/
def Dev.segloopRegister (d : Dev) : BitVec 48 :=
  let ctrl := d.g TEST_LOOP_CTRL_SEG + inField 5 1 (d.g TEST_LOOP_CTRL_EXT) + inField 6 8 (d.g TEST_LOOP_CTRL_AMP)
  let res := d.g TEST_LOOP_RESULT_DONE + inField 1 1 (d.g TEST_LOOP_RESULT_PASS) + inField 2 1 (d.g TEST_LOOP_RESULT_OPEN)
    + inField 3 1 (d.g TEST_LOOP_RESULT_SHORT) + inField 4 1 (d.g TEST_LOOP_RESULT_REFUSED) + inField 5 12 (d.g TEST_LOOP_RESULT_MAG)
    + inField 17 12 (d.g TEST_LOOP_RESULT_PHASE)
  BitVec.ofNat 48 (ctrl + 65536 * res)

/-- What Capture-DR loads into the register that instruction `i` selects: IDCODE, bypass or SEGLOOP; the boundary and TESTACC
registers stand in fields of their own (R401, R404). -/
def Dev.captureDr (d : Dev) (i : TapInstr) : BitVec 48 :=
  match i with
  | .idcode => BitVec.ofNat 48 tapIdcode
  | .segloop => d.segloopRegister
  | _ => 0

/-- The instruction register takes `i`. A stopping instruction that is replaced ends in a power-on reset (R403). -/
def Dev.loadTap (d : Dev) (i : TapInstr) : Dev :=
  let was := d.tap.ir
  let d := d.inTap fun t => { t with ir := i, dr := d.captureDr i }
  if was = i then d
  else
    let d := if was.stops then (d.inTap fun t => { t with stopped := false }).powerOn else d
    if i.stops then d.stopFunction else d

/-! ### Boundary register (R402) -/

/-- The cells of balls on VIOH and on VIOS, in the ball order of R392: cells 10 to 51, and 52 to 161. -/
def captureCells (viohAbsent viosAbsent : Bool) (cells : BitVec 162) : BitVec 162 :=
  let h : BitVec 162 := if viohAbsent then BitVec.ofNat 162 ((2 ^ 42 - 1) * 2 ^ 10) else 0
  let s : BitVec 162 := if viosAbsent then BitVec.ofNat 162 ((2 ^ 110 - 1) * 2 ^ 52) else 0
  cells &&& ~~~(h ||| s)

/-- The output cell of HINTp; its enable cell follows it. -/
def hintCell (p : Nat) : Nat := if p < 2 then 10 + 2 * p else 44 + 2 * p

/-- A cell of the boundary register set. -/
def setCell (i : Nat) (v : Bool) (cells : BitVec 162) : BitVec 162 :=
  if v then cells ||| BitVec.ofNat 162 (2 ^ i) else cells &&& ~~~BitVec.ofNat 162 (2 ^ i)

/-- What SAMPLE captures: the cells that the balls' surroundings give, with those of the HINT pins that the block drives (R297). -/
def Dev.captureBalls (d : Dev) (cells : BitVec 162) : BitVec 162 :=
  let put := fun (c : BitVec 162) (p : Nat) =>
    match d.hintLevel p with
    | some v => setCell (hintCell p + 1) true (setCell (hintCell p) v c)
    | none => c
  captureCells (vget d.pwr.vioLow 0 false) (vget d.pwr.vioLow 1 false) ((List.range 4).foldl put cells)

/-! ### Segment loopback (R404, R405) -/

/-- A run: its claim, or REFUSED. -/
def Dev.loopStart (d : Dev) : Dev :=
  let n := d.loopSeg
  let ext := d.flag TEST_LOOP_CTRL_EXT
  let amp := if ext then d.g TEST_LOOP_CTRL_AMP else min 32 (d.g TEST_LOOP_CTRL_AMP)
  let k := if ext then d.tokens n amp else 1
  let d := (d.clearRegs 0x1F01 0x1F01).inTap fun t => { t with loop := some { seg := n, ext := ext, amp := amp, tokens := k, got := none } }
  if !d.flag CLK_STATUS_PLL_LOCK || d.vdrvLow || (d.segIsRetired n && ext) then d.refuseLoop
  else
    match d.claimTokens { seg := n, owner := .loop, tokens := k, prio := 0, cycle := d.cycle, caller := 8 } (!ext) with
    | (true, d) => d.refuseLoop
    | (false, d) => d

/-- A write of TEST_LOOP_CTRL; GO during a run is ignored. -/
def Dev.writeLoop (d : Dev) (ctrl : Nat) : Dev :=
  let d := ((d.p TEST_LOOP_CTRL_SEG 0 ctrl).p TEST_LOOP_CTRL_EXT 0 (bitOf ctrl 5)).p TEST_LOOP_CTRL_AMP 0 (bitsOf ctrl 6 8)
  if ctrl.testBit 14 && d.tap.loop.isNone then d.loopStart else d

/-- Whether a run passes: the internal path by MAG and PHASE, the external one by its faults, MAG and clipping. -/
def Dev.loopPass (d : Dev) (r : LoopRun) (mag : Nat) (phase : Int) (opened shorted clipped : Bool) : Bool × Dev :=
  if r.ext then (!opened && !shorted && !clipped && decide (72 * r.amp ≤ 32 * mag), d)
  else
    let (e, d) := d.roundOpen (r.amp * d.g FLD_VDRV_VDRV : Nat) 160
    (decide (100 * ((mag : Int) - e).natAbs ≤ 15 * e.natAbs) && decide (phase.natAbs ≤ 90), d)

/-- The segment has been driven for the run's 256 carrier cycles. -/
def Dev.loopDriven (d : Dev) (r : LoopRun) : Bool :=
  d.hasGranted r.seg .loop && (d.seg r.seg).ramp.isNone && decide (256 ≤ (d.seg r.seg).driveCycles) && r.got.isNone

/-- What the sense channel measured over a run's drive; the segment ramps down over 32 cycles, and DONE comes with its 0. -/
def Dev.loopEnd (d : Dev) (mag : Nat) (phase : Int) (opened shorted clipped : Bool) : Dev :=
  match d.tap.loop with
  | none => d
  | some r =>
    if !d.loopDriven r then d
    else
      let (pass, d) := d.loopPass r mag phase opened shorted clipped
      let got : LoopGot := { pass := pass, opened := opened, shorted := shorted, mag := mag, phase := phase }
      let d := d.inTap fun t => { t with loop := some { r with got := some got } }
      if (d.seg r.seg).level = 0 then (d.segToZero r.seg).loopOver r.seg
      else d.startRamp r.seg 0 32 segRampDown

/-! ### Fuse programming (R406) -/

/-- TEST_FUSE_CMD with VAON at `mv`. -/
def Dev.fuseCmd (d : Dev) (cmd : Word) (mv : Nat) : Dev :=
  let row := bitsOf cmd.toNat 0 4
  let d := d.inTap fun t => { t with fuseRow := row }
  if !cmd.toNat.testBit 4 then d
  else if 2 ≤ d.fuses.lifeCycle || mv < 2500 || 8 < row || bitsOf cmd.toNat 16 16 != 0x4655 || d.tap.fusing.isSome then
    d.set1 TEST_FUSE_STATUS_REFUSED
  else (d.inTap fun t => { t with fusing := some (row, t.fuseData) }).set1 TEST_FUSE_STATUS_BUSY

/-- The bits of a row that are fuses. -/
def fuseBits (row : Nat) : Word := if row = 8 then 3 else 0xFFFFFFFF

/-- A row has been programmed, the bits of `failed` left at 0, and read back. -/
def Dev.fuseDone (d : Dev) (failed : Word) : Dev :=
  match d.tap.fusing with
  | none => d
  | some (row, data) =>
    let ask := data &&& fuseBits row
    let new := vget d.fuses.rows row 0 ||| (ask &&& ~~~failed)
    let d := { d with fuses := { d.fuses with rows := vupdN d.fuses.rows row fun _ => new } }
    let d := ((d.inTap fun t => { t with fusing := none }).p TEST_FUSE_STATUS_BUSY 0 0).set1 TEST_FUSE_STATUS_DONE
    d.when (ask &&& ~~~new != 0) fun d => d.set1 TEST_FUSE_STATUS_VERIFY_FAIL

/-! ### TESTACC (R401) -/

/-- A word of the TEST block; TEST_FUSE_READ is the selected row as its fuses stand. -/
def Dev.testRead (d : Dev) (a : Nat) : Nat :=
  if a = 0x1F00 then d.segloopRegister.toNat % 65536
  else if a = 0x1F01 then d.segloopRegister.toNat / 65536
  else if a = 0x1F0A then
    d.g TEST_FUSE_STATUS_BUSY + inField 1 1 (d.g TEST_FUSE_STATUS_DONE) + inField 2 1 (d.g TEST_FUSE_STATUS_VERIFY_FAIL)
      + inField 3 1 (d.g TEST_FUSE_STATUS_REFUSED)
  else if a = 0x1F0B then (vget d.fuses.rows d.tap.fuseRow 0).toNat
  else 0

/-- A write of the TEST block. The voltage of VAON at a GO is no part of this access: it is open. -/
def Dev.testWrite (d : Dev) (a : Nat) (w : Word) : Dev :=
  if a = 0x1F00 then d.writeLoop (w.toNat % 65536)
  else if a = 0x1F08 then d.inTap fun t => { t with fuseData := w }
  else if a = 0x1F09 then
    let (v, d) := d.freeVal
    d.fuseCmd w v
  else if a = 0x1F0A then
    let clear := fun (d : Dev) (r : Row) (i : Nat) => if w.toNat.testBit i then d.p r 0 0 else d
    clear (clear (clear d TEST_FUSE_STATUS_DONE 1) TEST_FUSE_STATUS_VERIFY_FAIL 2) TEST_FUSE_STATUS_REFUSED 3
  else d

/-- One access by Update-DR; its register then holds the data and DONE. -/
def Dev.testAccess (d : Dev) (acc : BitVec 49) : Dev :=
  let a := bitsOf acc.toNat 32 16
  let write := acc.toNat.testBit 48
  let data := BitVec.ofNat 32 acc.toNat
  let d := if write then d.testWrite a data else d
  let got := if write then data.toNat else d.testRead a
  d.inTap fun t => { t with acc := BitVec.ofNat 50 (got + inField 32 16 a + inField 48 1 (flagOf write) + inField 49 1 1) }

/-! ### The commands -/

def execExtest (s : State) : Out State := effect s fun d => (d.loadTap .extest).settlePool

/-- SAMPLE: the boundary register captures the balls. -/
def execSample (cells : BitVec 162) (s : State) : Out State :=
  effect s fun d => ((d.loadTap .sample).inTap fun t => { t with captured := d.captureBalls cells }).settlePool

/-- PRELOAD: the cells shifted in become the update stage. -/
def execPreload (cells : BitVec 162) (s : State) : Out State :=
  effect s fun d => ((d.loadTap .preload).inTap fun t => { t with boundary := cells }).settlePool

def execIdcode (s : State) : Out State := effect s fun d => (d.loadTap .idcode).settlePool

def execClamp (s : State) : Out State := effect s fun d => (d.loadTap .clamp).settlePool

def execHighz (s : State) : Out State := effect s fun d => (d.loadTap .highz).settlePool

def execSegloop (s : State) : Out State := effect s fun d => (d.loadTap .segloop).settlePool

/-- TESTACC, which in FIELD acts as BYPASS; `acc` is an Update-DR of DATA, address and WRITE. -/
def execTestacc (acc : Option (BitVec 49)) (s : State) : Out State :=
  effect s fun d =>
    if !d.testStates then (d.loadTap .bypass).settlePool
    else
      let d := d.loadTap .testacc
      (match acc with
        | some a => d.testAccess a
        | none => d).settlePool

def execBypass (s : State) : Out State := effect s fun d => (d.loadTap .bypass).settlePool

/-- TRST_N, or the Test-Logic-Reset state (R401, R403). -/
def execTestLogicReset (s : State) : Out State :=
  effect s fun d =>
    let was := d.tap.ir.stops
    let d := d.inTap fun t => { t with ir := .idcode, dr := d.captureDr .idcode, stopped := false }
    if was then d.powerOn else d

/-- Capture-DR and Update-DR of SEGLOOP, or a TESTACC write of TEST_LOOP_CTRL. -/
def execLoopRun (ctrl : Half) (s : State) : Out State :=
  effect s fun d =>
    if d.tap.ir = .segloop then (d.inTap fun t => { t with dr := d.captureDr .segloop }).writeLoop ctrl.toNat
    else if d.tap.ir = .testacc then d.writeLoop ctrl.toNat
    else d

def execLoopDone (mag : Nat) (phase : Int) (opened shorted clipped : Bool) (s : State) : Out State :=
  effect s fun d => d.loopEnd mag phase opened shorted clipped

/-- A TESTACC write of TEST_FUSE_CMD; the host ports have no path to it. -/
def execFuseProgram (cmd : Word) (vaonMv : Nat) (s : State) : Out State :=
  effect s fun d => if d.tap.ir = .testacc then d.fuseCmd cmd vaonMv else d

def execFuseRowDone (failed : Word) (s : State) : Out State := effect s fun d => d.fuseDone failed

end Sys2Proof.Machine
end

