-- ==== Sys2Proof/Machine/Live.lean ====
section
/-!
DEFINITION. The register fields that show what the block holds elsewhere in State: what a host reads of each
(the register tables of R48, R80, R104, R177, R201, R228, R253, R271, R300, R317, R346, R374, R375, R406).
-/

-- One declaration after another: the package is compiled as one text under a memory limit.
set_option Elab.async false

namespace Sys2Proof.Machine

/-- The coding of a domain's state in PWR_STATE_A to PWR_STATE_C. -/
def domCode (s : DomState) : Nat :=
  match s with
  | .off => 0
  | .on => 1
  | .retain => 2
  | .held => 3

/-- The coding of CLk_STATUS.STATE. A Caller that serves a census job runs. -/
def waitCode (w : CallerWait) : Nat :=
  match w with
  | .idle => 0
  | .run => 1
  | .time _ => 2
  | .angle _ => 3
  | .point _ _ _ => 3
  | .frame _ _ _ => 4
  | .slot _ _ _ => 5
  | .bus _ _ _ => 6
  | .job => 1
  | .takeOver _ => 7

def trackCode (s : TrackState) : Nat :=
  match s with
  | .off => 0
  | .wait => 1
  | .inVote => 2
  | .outVote => 3

/-! ### Field by field -/

def Dev.liveReel (d : Dev) (r : Row) : Option Nat :=
  if r = REEL_STATUS_WAIT_ANGLE then some (flagOf d.waitAngle)
  else if r = REEL_BOOT_FLASH_EN then some (flagOf d.fuses.bootFlash)
  else if r = REEL_CAPS_KEY_FUSED then some (flagOf (d.fuses.keyHash != 0))
  else if r = REEL_CAPS_SIG_REQUIRED then some (flagOf d.fuses.sigRequired)
  else none

def Dev.liveField (d : Dev) (r : Row) (n : Nat) : Option Nat :=
  if r = SEG_PHASE_PHASE then some (d.effPhase n)
  else if r = SEG_CAL_AMAX then some (d.amax n)
  else if r = SEG_STATUS_WARN then some (flagOf (d.tempWarn n))
  else if r = FLD_BUDGET_CLAIMED then some d.claimed
  else if r = FLD_PEND_WAITING then some d.fld.claims.length
  else if r = FLD_PEND_HEAD_TOKENS then some ((d.headClaim.map (·.tokens)).getD 0)
  else none

def Dev.liveTempo (d : Dev) (r : Row) (n : Nat) : Option Nat :=
  if r = TEMPO_TIME_LO_TICKS then some (lo32 d.now)
  else if r = TEMPO_TIME_HI_TICKS then some (hi32 d.now)
  else if r = RING_ANG_LO_STAMP then some (lo32 (d.stamp n))
  else if r = RING_ANG_HI_STAMP then some (hi32 (d.stamp n))
  else if r = RING_SPEED_INC then some (fieldOf 32 (d.ring n).inc)
  else if r = RING_RPM_RPM then some (rpmOf (d.ring n).inc)
  else if r = RING_EST_KP then some (trackCode (d.track n 0).st)
  else if r = RING_EST_TRANSIT then some (trackCode (d.track n 1).st)
  else if r = RING_EST_DETUNE then some (trackCode (d.track n 2).st)
  else if r = RING_EST_STALLED then
    some (flagOf (d.track n 0).stalled + 2 * flagOf (d.track n 1).stalled + 4 * flagOf (d.track n 2).stalled)
  else none

/-- LNn_STATE.STATE: a candidate past its preamble is in SYNC, a packet past its header in PAYLOAD (R154, R177). -/
def Dev.laneState (d : Dev) (l : Nat) : Nat :=
  let x := d.lane l
  let v := d.g LN_STATE_STATE l
  let late := (List.range 2).any fun s => match vget x.cands s none with
    | some c => !c.hold && decide (c.tick + 24 * symTicks (if c.fc16 then 1 else 2) ≤ d.now)
    | none => false
  let past := match x.pkt with
    | some p => decide (p.headerEnd ≤ d.now)
    | none => false
  if v = 2 ∧ late = true then 3 else if v = 4 ∧ past = true then 5 else v

def Dev.liveRx (d : Dev) (r : Row) (n : Nat) : Option Nat :=
  if r = LN_STATE_STATE then some (d.laneState n)
  else if r = SNS_STATUS_EXCLUDED then some (flagOf (d.segIsRetired n))
  else if r = DECC_STATUS_QUEUE then some (d.core n).queue.length
  else if r = DECC_STATUS_BUSY then some (flagOf !(d.core n).queue.isEmpty)
  else none

def Dev.liveCensus (d : Dev) (r : Row) : Option Nat :=
  if r = CENSUS_LOOKUP_INDEX then some ((d.holder (d.g CENSUS_LOOKUP_SA)).getD 0)
  else if r = CENSUS_LOOKUP_HIT then some (flagOf (d.holder (d.g CENSUS_LOOKUP_SA)).isSome)
  else if r = CENSUS_COUNT_A_LOW then some (d.countState (· == stActive))
  else if r = CENSUS_COUNT_A_HIGH then some (d.countState (· == stCandidate))
  else if r = CENSUS_COUNT_B_LOW then some (d.countState (· == stLost))
  else if r = CENSUS_COUNT_B_HIGH then some (d.countState fun s => s == stRetired || s == stRetiring)
  else if r = CENSUS_COUNT_C_LOW then some (d.countState (· == stDuplicate))
  else if r = CENSUS_COUNT_C_HIGH then some (d.countState (· == stFree))
  else none

/-- Levels of the GPIO pins: an output shows what SBUS_GPIO_OUT drives (R315). -/
def Dev.gpioLevels (d : Dev) : Nat :=
  let out := fun k => (d.reel.active.map fun r => r.pinFunction k == 1).getD false
  ((List.range 16).map fun k => inField k 1 (flagOf ((if out k then d.g SBUS_GPIO_OUT_LEVEL else d.g SBUS_PINS_GPIO).testBit k))).sum

/-- Committed, enabled Steps of a ring. -/
def Dev.ringSteps (d : Dev) (x : Nat) : List Nat := d.fig.index.filter fun i => d.stepRing i == x && d.stepEn i && !d.fig.dirty.contains i

def Dev.callerIdle (d : Dev) (k : Nat) : Bool := (d.caller k).st == .idle && (d.caller k).queue.isEmpty

def Dev.liveFigure (d : Dev) (r : Row) (n : Nat) : Option Nat :=
  if r = FIG_STATUS_DIRTY then some d.fig.dirty.length
  else if r = FIG_RING_NEXT then some (d.nextStep n)
  else if r = FIG_RING_WAITING then some (flagOf ((d.ringDef n).isSome && !d.ringValid n))
  else if r = FIG_RING_COUNT then some (d.ringSteps n).length
  else if r = SB_PEAK_WAITING then some d.slotWaits.length
  else if r = SB_COUNT_FREE then some d.freeSlots
  else if r = SB_COUNT_BUSY then some d.busySlots
  else if r = SB_KIND_A_LOW then some (d.kindSlots .air)
  else if r = SB_KIND_A_HIGH then some (d.kindSlots .decode)
  else if r = SB_KIND_B_LOW then some (d.kindSlots .write)
  else if r = SB_KIND_B_HIGH then some (d.kindSlots .bus)
  else if r = SB_KIND_C_LOW then some (d.kindSlots .job)
  else if r = SB_KIND_C_HIGH then some d.keptSlots
  else if r = BOOK_CREDIT_FREE then some (d.ctx n).free
  else if r = BOOK_CREDIT_OUTSTANDING then some (d.ctx n).outstanding
  else if r = BOOK_CREDIT_DEBT then some (d.ctx n).debt
  else if r = BOOK_CREDIT_TOTAL then some (d.creditTotal n)
  else none

def Dev.liveCaller (d : Dev) (r : Row) (n : Nat) : Option Nat :=
  if r = CALL_STATUS_IDLE then some (((List.range 8).map fun k => inField k 1 (flagOf (d.callerIdle k))).sum)
  else if r = CALL_STATUS_ALL_IDLE then some (flagOf ((List.range 8).all d.callerIdle))
  else if r = CL_STATUS_STATE then some (waitCode (d.caller n).st)
  else if r = CL_STATUS_QUEUED then some (d.caller n).queue.length
  else if r = CL_STATUS_PC then some (d.caller n).pc
  else if r = CL_HELD_TOKENS then some (d.heldTokens n)
  else if r = CL_HELD_SLOTS then some (d.slotsOf n).length
  else none

def Dev.liveHub (d : Dev) (r : Row) (n : Nat) : Option Nat :=
  if r = HUB_STATUS_BUSY then some (flagOf (!d.hub.intake.isEmpty || d.hub.engines.toList.any fun e => !e.inbox.isEmpty))
  else if r = HUB_FIFO_LEVEL then some d.hub.intake.length
  else if r = HUB_ENG_INBOX then some (d.engine n).inbox.length
  else none

def Dev.liveQueue (d : Dev) (r : Row) (n : Nat) : Option Nat :=
  if r = Q_STAT_DEPTH then some (d.queue n).depth
  else if r = Q_STAT_PENDING then some (flagOf (d.queue n).mark.isSome)
  else if r = Q_STAT_FULL then some (flagOf (d.queueUsed n && d.queueFull n))
  else if r = Q_CELLS_CELLS then some (d.queue n).cells
  else if r = POOL_FREE_FREE then some d.que.free
  else if r = POOL_HELD_QUEUED then some d.queuedCells
  else none

def Dev.liveHost (d : Dev) (r : Row) (t : Nat) : Option Nat :=
  let e := d.tenantDef t
  let s := (d.ctx t).session
  if r = HOST_ID_TENANT then some ((e.map (·.tenant)).getD 0)
  else if r = HOST_ID_PORT then some ((e.map (·.port)).getD 0)
  else if r = HOST_ID_ADDR then some ((e.map (·.addr)).getD 0)
  else if r = HOST_ID_QUAD then
    some (flagOf ((e.map fun x => x.port < 2 && ((d.reel.active.map fun r => r.pinFunction (0x30 + x.port)).getD 0) == 1).getD false))
  else if r = HOST_ID_HINT then some ((e.map (·.hint)).getD 0)
  else if r = HOST_STATUS_OPEN then some (flagOf s.isSome)
  else if r = HOST_STATUS_VERSION then some ((s.map (·.version)).getD 0)
  else if r = HOST_STATUS_FEATURES then some ((s.map (·.features)).getD 0)
  else if r = HOST_STATUS_REQ then some (flagOf (d.request t))
  else if r = HOST_IRQ_HUB then some (bitOf (d.causes t) 0)
  else if r = HOST_IRQ_QUEUE then some (bitOf (d.causes t) 1)
  else if r = HOST_IRQ_ANS then some (bitOf (d.causes t) 2)
  else if r = HOST_IRQ_REEL then some (bitOf (d.causes t) 3)
  else none

def Dev.liveSbus (d : Dev) (r : Row) : Option Nat :=
  let bits := fun (p : Nat → Bool) => ((List.range 4).map fun b => inField b 1 (flagOf (p b))).sum
  if r = SBUS_STATUS_BUSY then some (bits fun b => (d.busRun b).isSome)
  else if r = SBUS_STATUS_ENABLED then some (bits d.busEnabled)
  else if r = SBUS_STATUS_WAITING then some (((List.range 4).map fun b => (d.busWait b).length).sum)
  else if r = SBUS_PINS_GPIO then some d.gpioLevels
  else none

/-- PWR_STATE_A to PWR_STATE_C: `a` the word, `i` the place of the field. -/
def Dev.livePower (d : Dev) (r : Row) : Option Nat :=
  if r.base = 0x104 then some (domCode (d.domState (r.lo / 2)))
  else if r.base = 0x105 then some (domCode (d.domState (16 + r.lo / 2)))
  else if r.base = 0x106 then some (domCode (d.domState (32 + r.lo / 2)))
  else none

/-- LONG_RESULT: what the query names. -/
def Dev.liveHealth (d : Dev) (r : Row) : Option Nat :=
  let q := d.longQuery
  if r = LONG_RESULT_DAYS then some ((q.map (·.days)).getD 0xFFFF)
  else if r = LONG_RESULT_CONF then some ((q.map (·.conf)).getD 0)
  else if r = LONG_RESULT_FROZEN then some (flagOf ((q.map (·.frozen)).getD false))
  else if r = LONG_RESULT_SAT then some (flagOf ((q.map (·.sat)).getD false))
  else if r = LONG_RESULT_VALID then some (flagOf q.isSome)
  else none

/-- The Vault: keys themselves have no field. -/
def Dev.liveVault (d : Dev) (r : Row) : Option Nat :=
  let k := d.keySlot (d.g VAULT_KEY_SEL_KEYID)
  if r = VAULT_KEY_INFO_VALID then some (flagOf k.active.isSome)
  else if r = VAULT_KEY_INFO_STAGED_VALID then some (flagOf k.staged.isSome)
  else if r = VAULT_KEY_INFO_TAM then some (flagOf k.tam)
  else if r = VAULT_KEY_INFO_MAM then some (flagOf k.mam)
  else if r = VAULT_KEY_INFO_TENANTS then some k.tenants
  else if r = VAULT_KEY_INFO_KCV then some ((k.active.map keyCheck).getD 0)
  else if r = VAULT_STATUS_SLOTS then some (d.vault.slots.filter fun p => p.2.active.isSome).length
  else if r = VAULT_STATUS_DISABLED then some (flagOf !d.vaultEnabled)
  else if r = LC_STATUS_STATE then some d.fuses.lifeCycle
  else none

/-- A field as it stands elsewhere in State; none: it stands in its register. -/
def Dev.live (d : Dev) (r : Row) (n : Nat) : Option Nat :=
  let a := r.base
  if a < 0x100 then none
  else if a < 0x200 then d.livePower r
  else if r = CLK_STATUS_ACLK_XTAL then some (1 - d.g AON_ACLK_SRC)
  else if a < 0x400 then none
  else if a < 0x800 then d.liveHost r n
  else if a < 0x900 then d.liveReel r
  else if a < 0xA00 then d.liveTempo r n
  else if a < 0xD00 then d.liveField r n
  else if a < 0x1100 then d.liveRx r n
  else if a < 0x1200 then d.liveCensus r
  else if a < 0x1220 then d.liveFigure r n
  else if a < 0x1400 then d.liveCaller r n
  else if a < 0x1800 then d.liveHub r n
  else if a < 0x1A00 then d.liveQueue r n
  else if a < 0x1C00 then d.liveSbus r
  else if a < 0x1E00 then d.liveHealth r
  else d.liveVault r

/-- A field as a host reads it. -/
def Dev.fieldValue (d : Dev) (r : Row) (n : Nat) : Nat × Dev :=
  if r.ty = .wo then (0, d)
  else if r = SEG_AMP_LEVEL then d.appliedLevel n
  else ((d.live r n).getD (d.g r n), d)

end Sys2Proof.Machine
end

