-- ==== Sys2Proof/Machine/Regs.lean ====
section
/-!
DEFINITION. A host's access to one word: registers by the types of their fields, windows by the permission table
(01_one_revolution.md R5, R8, R410; 15_memory_registers.md R376 to R391).
-/

-- One declaration after another: the package is compiled as one text under a memory limit.
set_option Elab.async false

namespace Sys2Proof.Machine

/-! ### Reading a register (R5, R385, R410) -/

/-- What an RC field holds after a read: its reset value, or, where it keeps a peak or a minimum, the present level. -/
def Dev.afterRead (d : Dev) (r : Row) (n : Nat) : Nat :=
  if r = FLD_PEAK_PEAK then d.claimed
  else if r = SB_PEAK_PEAK then d.busySlots
  else if r = HUB_FIFO_PEAK then d.hub.intake.length
  else if r = POOL_MIN_MIN_FREE then d.que.free
  else r.resetOf n

/-- One field of a word read: its value in its place, and its RC action. -/
def readField (acc : Nat × Dev) (f : Row × Nat) : Nat × Dev :=
  let (r, n) := f
  let (v, d) := acc.2.fieldValue r n
  (acc.1 + inField r.lo r.width v, if r.ty = .rc then d.p r n (d.afterRead r n) else d)

/-- The fields of a word, read together. -/
def Dev.readFields (d : Dev) (a : Nat) : Word × Dev :=
  let (v, d) := (fieldsAt a).foldl readField (0, d)
  (BitVec.ofNat 32 v, d)

/-- The HI word of a pair whose LO is at `a` (R385). -/
def pairOf (a : Nat) : Option Nat :=
  if a = 0x900 ∨ a = 0x806 then some (a + 1)
  else if 0x910 ≤ a ∧ a < 0x950 ∧ (a - 0x910) % 16 = 0 then some (a + 1)
  else none

def latchKey (t a : Nat) : Nat := 65536 * t + a

/-- HOSTn_ANS of tenant `n`: one answer word (R286). -/
def Dev.popAnswer (d : Dev) (n : Nat) : Word × Dev :=
  match (d.ctx n).buf with
  | [] => (0xFFFFFFFF, d)
  | w :: ws => (w, d.inHost fun h => { h with ctx := vupdN h.ctx n fun c => { c with buf := ws } })

/-- A register word read, the access allowed. -/
def Dev.readRegister (d : Dev) (t a : Nat) : Word × Dev :=
  if 0x1800 ≤ a ∧ a < 0x1A00 ∧ (queueWord a).2 < 2 then d.dataRead t (queueWord a).1
  else if 0x400 ≤ a ∧ a < 0x800 ∧ 0x80 ≤ a % 0x100 then d.popAnswer ((a - 0x400) / 0x100)
  else
    match assocGet (latchKey t a) d.host.latches with
    | some v => (BitVec.ofNat 32 v, d)
    | none =>
      match pairOf a with
      | none => d.readFields a
      | some hi =>
        let v := (d.readFields hi).1.toNat
        let (w, d) := d.readFields a
        (w, d.inHost fun h => { h with latches := assocPut (latchKey t hi) v h.latches })

/-! ### Writing a register (R5) -/

/-- One field of a word written: RW stores, W1C clears the bits written 1. REEL_CARRY holds 256 for a value below it (R48). -/
def writeField (w : Nat) (d : Dev) (f : Row × Nat) : Dev :=
  let (r, n) := f
  let v := if r = REEL_CARRY_LIMIT then max 256 (bitsOf w r.lo r.width) else bitsOf w r.lo r.width
  match r.ty with
  | .rw => d.p r n v
  | .w1c => d.p r n (d.g r n - (d.g r n &&& v))
  | _ => d

def Dev.writeFields (d : Dev) (a w : Nat) : Dev := (fieldsAt a).foldl (writeField w) d

/-- CENSUS_CMD (R201). -/
def Dev.censusCmd (d : Dev) (w : Nat) : Dev :=
  let ring := bitsOf w 4 2
  let force := w.testBit 6
  let arg := bitsOf w 8 13
  let seg := bitsOf w 25 5
  match bitsOf w 0 4 with
  | 1 => d.walkCmd ring
  | 2 => d.rebuildCmd ring
  | 3 => d.retireCmd (arg % 4096) force
  | 4 => d.freeCmd arg force
  | 5 => d.setplanCmd (arg % 4096) (bitsOf w 21 4)
  | 6 => d.serviceCmd .serviceA ring seg 0
  | 7 => d.serviceCmd .serviceV ring seg arg
  | 8 => d.updJob fun j => { j with stop := true }
  | _ => d

/-- REEL_CTRL (R37, R42, R43, R48). -/
def Dev.reelCtrl (d : Dev) (w : Nat) : Dev :=
  let d := d.when (w.testBit 0) Dev.reelStart
  let d := d.when (w.testBit 1) fun d => d.reelArm (bitsOf w 4 2) (w.testBit 3)
  d.when (w.testBit 2) Dev.reelDisarm

/-- LC_CTRL (R372). The voltage of VAON at a GO is no part of this access: it is open. -/
def Dev.lcCtrl (d : Dev) (w : Nat) : Dev :=
  if bitsOf w 16 16 != 0x4C43 then d.disarmLc
  else if w.testBit 2 then
    let (mv, d) := d.freeVal
    d.goLc (bitsOf w 0 2) mv
  else d.armLc (bitsOf w 0 2)

/-- TEMPO_DAY_NEXT: HI is held, LO commits both words (R100, R104). -/
def Dev.dayNextLo (d : Dev) (w : Nat) : Dev :=
  let hi := (d.tempo.dayHold.map BitVec.toNat).getD (d.g TEMPO_DAY_NEXT_HI_TICKS)
  (d.inTempo fun s => { s with dayHold := none }).writeDayNext (w + 2 ^ 32 * hi)

/-- SYS_RESET (R391). -/
def Dev.sysReset (d : Dev) (w : Nat) : Dev := if w.testBit 0 && bitsOf w 16 16 == 0x5253 then d.powerOn else d

/-- A word of HOSTn_CMD appended to the stream of tenant `n` (R286), or discarded where it is to be drained (R288). -/
def Dev.appendCmd (d : Dev) (n : Nat) (w : Word) : Dev :=
  d.inHost fun h =>
    { h with ctx := vupdN h.ctx n fun c => if c.drain = 0 then { c with cmd := c.cmd ++ [w] } else { c with drain := c.drain - 1 } }

/-- The actions of the PWR, AON, REEL and FLD words. -/
def Dev.actField (d : Dev) (a w : Nat) : Dev :=
  let n := (a - 0xA00) / 32
  if a = 0x100 then (d.when (w.testBit 1) Dev.clearLog).when (w.testBit 0) Dev.enterCmd
  else if a = 0x108 ∨ a = 0x109 then d.wakeRewritten
  else if a = 0x300 then d.selectAclk (w.testBit 0)
  else if a = 0x301 then d.when (w.testBit 3) Dev.learnTaps
  else if a = 0x800 then d.reelCtrl w
  else if 0x810 ≤ a ∧ a < 0x820 then d.reelWord (BitVec.ofNat 32 w)
  else if 0xA00 ≤ a ∧ a < 0xD00 ∧ (a - 0xA00) % 32 = 0 then
    (d.when (w.testBit 16) fun d => d.tuneStart n).when (w.testBit 17) fun d => d.reinstateReq n
  else d

/-- The actions of the CENSUS, CALL, QUE and SBUS words. -/
def Dev.actWork (d : Dev) (t a w : Nat) : Dev :=
  if a = 0x1100 then d.censusCmd w
  else if a = 0x1201 then d.when (w.testBit 0) fun d => d.commit t
  else if a = 0x1218 then d.when (w.testBit 0) Dev.auditBooks
  else if a = 0x182F then d.when (w.testBit 0) Dev.auditPool
  else if 0x1800 ≤ a ∧ a < 0x1A00 then
    let q := queueWord a
    if q.2 < 2 then d.dataWrite q.1 (BitVec.ofNat 32 w) else d.when (q.2 == 5 && w.testBit 5) fun d => d.resetByHost q.1
  else if a = 0x1A00 then d.each ((List.range 4).filter fun b => w.testBit (4 + b)) Dev.abortBus
  else if 0x1A20 ≤ a ∧ a < 0x1A38 then d.when (!d.flag SBUS_IN_EN (a - 0x1A20)) fun d => d.inSbus fun s => { s with rise := vupdN s.rise (a - 0x1A20) fun _ => none }
  else d

/-- The actions of the HEALTH, VAULT and HOST words. -/
def Dev.actKeep (d : Dev) (a w : Nat) : Dev :=
  if a = 0x1C0A then d.noteQuery.when (w.testBit 3 && bitsOf w 0 3 == 1) fun d => d.rebaseCoil (bitsOf w 16 12)
  else if a = 0x1E00 then d.when (w.testBit 1) fun d => d.wipeVault.2
  else if 0x1E02 ≤ a ∧ a < 0x1E06 then d.inVault fun v => { v with data := vupdN v.data (a - 0x1E02) fun _ => BitVec.ofNat 32 w }
  else if a = 0x1E06 then
    ((d.when (w.testBit 0) Dev.loadKey).when (w.testBit 1) Dev.promoteKey).when (w.testBit 2) Dev.eraseKey
  else if a = 0x1E11 then d.lcCtrl w
  else if 0x400 ≤ a ∧ a < 0x800 then
    let n := (a - 0x400) / 0x100
    let o := a % 0x100
    if 0x40 ≤ o ∧ o < 0x80 then d.appendCmd n (BitVec.ofNat 32 w)
    else d.when (o == 4 && n == 0 && w.testBit 13) fun d => d.inReel fun r => { r with irq := false }
  else d

/-- A register word written, the access allowed. A CENSUS_RINGx_SA or TEMPO_DAY_NEXT write is judged as a whole. -/
def Dev.writeRegister (d : Dev) (t a : Nat) (w : Word) : Dev :=
  let v := w.toNat
  if 0x1109 ≤ a ∧ a < 0x110D then d.writeRange (a - 0x1109) (bitsOf v 0 12) (bitsOf v 16 12)
  else if a = 0x906 then d.dayNextLo v
  else if a = 0x907 then d.inTempo fun s => { s with dayHold := some w }
  else if a = 0x0002 then d.sysReset v
  else ((d.writeFields a v).actField a v).actWork t a v |>.actKeep a v

/-! ### Windows (R376, R379 to R382) -/

/-- The SRAM word that an address above the registers reaches in tenant `t`'s view (R380). -/
def Dev.windowWord (d : Dev) (t a : Nat) : Nat :=
  if a < 0x8000 then d.g HOST_WINA_BASE_BASE t + (a - 0x4000)
  else if a < 0xC000 then d.g HOST_WINB_BASE_BASE t + (a - 0x8000)
  else d.g HOST_WINC_BASE_BASE t + (a - 0xC000)

/-- The hub slot whose configuration or statistics a word of MEM08 and MEM09 holds (R237, R241). -/
def slotOfWord (w : Nat) : Nat := if w < statBase then (w - slotBase) / 16 else (w - statBase) / 32

/-- Tenant `t` owns the channel that watched entry `i` names. -/
def Dev.ownsWatch (d : Dev) (t i : Nat) : Bool := ((d.watchDef i).bind fun e => d.chanOwner e.chan) == some t

/-- Words of a tenant's private area. -/
def privateOf (t w : Nat) : Bool := 0xB9000 + 0x1C00 * t ≤ w && w < 0xB9000 + 0x1C00 * (t + 1)

/-- The table of R381, for a read. -/
def Dev.windowReads (d : Dev) (t w : Nat) : Bool :=
  if w < 0x10000 then d.stepOwner (w / 4) == some t
  else if w < 0x20000 then true
  else if w < 0x30000 then t == 0
  else if w < 0x40000 then t == 0 || d.ownsWatch t ((w - watchBase) / 4)
  else if w < 0x50000 then t == 0 || ((d.hubSlot (slotOfWord w)).map d.slotTenant) == some t
  else if w < 0xB0000 then false
  else if w < 0xB2000 then t == 0 || d.tenantHealth t
  else if w < 0xB8000 then false
  else if w < 0xB9000 then true
  else privateOf t w

/-- The table of R381, for a write. -/
def Dev.windowWrites (d : Dev) (t w : Nat) : Bool :=
  if w < 0x10000 then d.stepOwner (w / 4) == some t
  else if w < 0x20000 then t == 0 && w % 8 == 7
  else if w < 0x24000 then t == 0 && d.flag CALL_CTRL_HOLD
  else if w < 0x30000 then false
  else if w < 0x40000 then (w % 4 == 1 || w % 4 == 2) && (t == 0 || d.ownsWatch t ((w - watchBase) / 4))
  else if w < 0xB8000 then false
  else if w < 0xB9000 then ((d.tenantDef t).map TenantDef.commonsWr).getD false
  else privateOf t w

/-- R388 for a window word. -/
def Dev.judgeWindow (d : Dev) (t w : Nat) (write : Bool) : Gate :=
  if !d.reelOn then .perm
  else if sramWords ≤ w then .perm
  else if !(if write then d.windowWrites t w else d.windowReads t w) then .perm
  else if !d.bankOn (w / 0x8000) then .dark (16 + w / 0x8000)
  else .pass

/-- A word of latched statistics whose bank a switch has made live (R102). A single read in the boundary cycle gives the bank as it
was. A read of H2 of which `burst` words have been taken gives up to 16 words of it, and the newly latched bank from there on. -/
def Dev.oldBank (d : Dev) (burst : Option Nat) (w : Nat) : Option Word :=
  if w < statBase ∨ statBase + 0x8000 ≤ w then none
  else
    let o := w - statBase
    let was := fun (l : List (Nat × List Nat)) => (assocGet (o / 16) l).map fun ws => BitVec.ofNat 32 (ws.getD (o % 16) 0)
    match burst with
    | none => if d.hub.nowCycle = d.cycle then was d.hub.nowOld else none
    | some k =>
      if k < 16 then was d.hub.old
      else (was d.hub.old).map fun _ => d.rword (statBase + 16 * (o / 16 + 1 - 2 * (o / 16 % 2)) + o % 16)

/-- A window word read: corrected, or 0xD0EC_00dd where two bits are wrong (R379). MEM05 and the spare-transfer area of MEM04, whose word
layout the spec does not give, read 0: the model's choice (notes/assumptions/131.md). -/
def Dev.readWindow (d : Dev) (w : Nat) (burst : Option Nat) : Word × Dev :=
  let k := w / 0x8000
  let o := w % 0x8000
  let v := (d.oldBank burst w).getD (d.rword w)
  let e := d.eccOf k o
  if e = 0 then (v, d)
  else if e = 1 then (v, d.eccCorrect k o)
  else
    match d.eccBad k o with
    | (true, d) => (BitVec.ofNat 32 (0xD0EC0010 + k), d.raise codeEcc k o 4)
    | (false, d) => (BitVec.ofNat 32 (0xD0EC0010 + k), d)

/-- A window word written: a Step becomes dirty; of word 2 of a watched entry only bits [31:16] are written (R203, R230). -/
def Dev.writeWindow (d : Dev) (w : Nat) (v : Word) : Dev :=
  let d := d.eccClear (w / 0x8000) (w % 0x8000)
  if w < 0x10000 then (d.ww w v.toNat).markDirty (w / 4)
  else if 0x30000 ≤ w ∧ w < 0x40000 ∧ w % 4 = 2 then d.wf w 16 16 (v.toNat / 65536)
  else d.ww w v.toNat

/-! ### One word of an access (R386 to R388) -/

/-- What one word of an access gives: the word, the Dumar status that it contributes (0, 9 PERM, 10 DARK) and the block. -/
structure Got where
  word : Word
  status : Nat
  dev : Dev

/-- A read judged, and `f` where it is performed. -/
def Dev.readGate (d : Dev) (g : Gate) (t a : Nat) (f : Dev → Word × Dev) : Got :=
  match g with
  | .pass =>
    let (w, d) := f d
    ⟨w, 0, d⟩
  | .reserved => ⟨0, 0, d⟩
  | .perm => ⟨0, 9, d.permErr t a false⟩
  | .dark n => ⟨BitVec.ofNat 32 (darkWord n), 10, d.darkErr t a false⟩

/-- A write judged, and `f` where it is performed; `word` is 1 for a word written. -/
def Dev.writeGate (d : Dev) (g : Gate) (t a : Nat) (f : Dev → Dev) : Got :=
  match g with
  | .pass => ⟨1, 0, f d⟩
  | .reserved => ⟨0, 0, d⟩
  | .perm => ⟨0, 9, d.permErr t a true⟩
  | .dark _ => ⟨0, 10, d.darkErr t a true⟩

/-- The gate of a register word that is written: a block that has accepted Bow acts as if dark (R326). -/
def Dev.judgeWrite (d : Dev) (t a : Nat) : Gate :=
  match d.judge t a true with
  | .pass => if d.pwr.accepted.contains (wordDomain a) then .dark (wordDomain a) else .pass
  | g => g

/-- A host's read of address `a` through tenant `t`'s view. -/
def Dev.hostRead (d : Dev) (t a : Nat) (burst : Option Nat := none) : Got :=
  if !d.tenantPresent t then ⟨0, 0, d⟩
  else if a < 0x4000 then (d.touched).readGate (d.judge t a false) t a fun d => d.readRegister t a
  else (d.touched).readGate (d.judgeWindow t (d.windowWord t a) false) t a fun d => d.readWindow (d.windowWord t a) burst

/-- A host's write of address `a` through tenant `t`'s view. -/
def Dev.hostStore (d : Dev) (t a : Nat) (w : Word) : Got :=
  if !d.tenantPresent t then ⟨0, 0, d⟩
  else if a < 0x4000 then (d.touched).writeGate (d.judgeWrite t a) t a fun d => d.writeRegister t a w
  else (d.touched).writeGate (d.judgeWindow t (d.windowWord t a) true) t a fun d => d.writeWindow (d.windowWord t a) w

/-- The next address of an auto-incrementing access (R383). -/
def nextAddr (a : Nat) : Nat := a / 0x4000 % 4 * 0x4000 + (a + 1) % 0x4000

/-- The access advances; WRAP at the end of a region. -/
def Dev.advanceAddr (d : Dev) (t a : Nat) : Nat × Dev :=
  (nextAddr a, if (a + 1) % 0x4000 = 0 then d.set1 HOST_STATUS_WRAP t else d)

/-! ### Bank conflicts and Commons overwrites (R378, R382) -/

/-- A window access that stalled for `k` cycles. -/
def Dev.stalledBy (d : Dev) (k : Nat) : Dev :=
  if k = 0 then d else (d.bump SYS_STALL_HOST).high SYS_STALL_PEAK 0 (min 255 k)

def Dev.portOf (d : Dev) (t : Nat) : Option Nat := (d.tenantDef t).map (·.port)

/-- The write of `t` to Commons word `w` overwrote one of tenant `o` of the same cycle. -/
def Dev.commonsOver (d : Dev) (t o w : Nat) : Dev :=
  if d.portOf t = d.portOf o ∨ (d.portOf o).isNone ∨ w < commonsBase ∨ commonsBase + 0x1000 ≤ w then d
  else ((d.inc COMMONS_OVERWRITE_COUNT).p COMMONS_OVERWRITE_WORD 0 (w - commonsBase)).set1 HOST_ERR_COMMONS o

end Sys2Proof.Machine
end

