-- ==== Sys2Proof/Machine/Dumar.lean ====
section
/-!
DEFINITION. Dumar: commands, their answers, credits and sessions (11_hosts_tenancy.md R286 to R296).
-/

-- One declaration after another: the package is compiled as one text under a memory limit.
set_option Elab.async false

namespace Sys2Proof.Machine

/-! ### Contexts (R272) -/

/-- The tenant of a context. -/
def ctxTenant (c : Nat) : Nat := if c = 4 then 0 else c

def Dev.putCtx (d : Dev) (c : Nat) (f : HostCtx → HostCtx) : Dev := d.inHost fun h => { h with ctx := vupdN h.ctx c f }

/-- A context that exists: of a tenant of the active Reel, or T0's on H0 and H1 before a Reel. -/
def Dev.ctxLives (d : Dev) (c : Nat) : Bool :=
  d.domOn domHio && (if d.reelOn then decide (c < 4) && (d.tenantDef c).isSome else c == 0 || c == 4)

/-- The port of a context. -/
def Dev.ctxPort (d : Dev) (c : Nat) : Nat := if d.reelOn then ((d.tenantDef c).map (·.port)).getD 0 else if c = 4 then 1 else 0

/-! ### Operation codes, lengths and status (R288 to R290) -/

abbrev opNop : Nat := 0x00
abbrev opHello : Nat := 0x01
abbrev opBye : Nat := 0x02
abbrev opRd : Nat := 0x10
abbrev opWr : Nat := 0x11
abbrev opRmw : Nat := 0x12
abbrev opQread : Nat := 0x20
abbrev opQwrite : Nat := 0x21
abbrev opReelStart : Nat := 0x30
abbrev opReelData : Nat := 0x31
abbrev opReelArm : Nat := 0x32

abbrev dmOk : Nat := 0x00
abbrev dmNoSession : Nat := 0x01
abbrev dmVersion : Nat := 0x02
abbrev dmLength : Nat := 0x03
abbrev dmNoCredit : Nat := 0x04
abbrev dmCrc : Nat := 0x05
abbrev dmUnknownOp : Nat := 0x06
abbrev dmTruncated : Nat := 0x07
abbrev dmQueue : Nat := 0x08
abbrev dmPerm : Nat := 0x09
abbrev dmDark : Nat := 0x0A
abbrev dmReelSeq : Nat := 0x0B

/-- The least and the greatest LEN of an operation; none: the operation does not exist. -/
def opLen (op : Nat) : Option (Nat × Nat) :=
  if op = opNop ∨ op = opBye ∨ op = opReelStart then some (0, 0)
  else if op = opHello then some (2, 2)
  else if op = opRd ∨ op = opQread ∨ op = opReelArm then some (1, 1)
  else if op = opWr ∨ op = opQwrite then some (2, 1024)
  else if op = opRmw then some (3, 3)
  else if op = opReelData then some (1, 1024)
  else none

/-- A LEN above 1,024, or wrong for its OP (R288). -/
def lenWrong (op len : Nat) : Bool :=
  1024 < len || (match opLen op with
    | some (lo, hi) => decide (len < lo) || decide (hi < len)
    | none => false)

def HostCmd.arg (x : HostCmd) (i : Nat) : Nat := ((x.ws[i]?).map BitVec.toNat).getD 0

/-- An RD count or a QREAD limit out of range (R289). -/
def HostCmd.rangeWrong (x : HostCmd) : Bool :=
  if x.ws.isEmpty then false
  else if x.op = opRd then (let n := bitsOf (x.arg 0) 16 11; n == 0 || decide (1024 < n))
  else if x.op = opQread then (let n := bitsOf (x.arg 0) 16 10; n == 0 || decide (992 < n))
  else false

/-- Refused for LENGTH. The words of a command that found no credit are drained unread (R292, R299). -/
def HostCmd.lengthRefused (x : HostCmd) : Bool := lenWrong x.op x.len || (x.credit && x.rangeWrong)

/-- A HELLO that proposes a version below 1.0. -/
def HostCmd.versionRefused (x : HostCmd) : Bool := x.op == opHello && !lenWrong x.op x.len && !x.ws.isEmpty && decide (x.arg 0 % 256 < 0x10)

/-- The header word that a command had. -/
def HostCmd.header (x : HostCmd) : Word := BitVec.ofNat 32 (inField 24 8 x.op + inField 16 8 x.tag + inField 0 11 x.len)

/-- CRC-32C over the header and the LEN words, most significant byte of each first (R293). -/
def dumarCrc (ws : List Word) : Word := BitVec.ofNat 32 (crc32c (ws.flatMap fun w => beBytes 4 w.toNat))

/-! ### Versions and features (R294, R295) -/

/-- The limit M on a context's version. -/
def Dev.versionLimit (d : Dev) (c : Nat) : Nat :=
  match d.reel.active with
  | none => 0x11
  | some r => if r.format = 1 then 0x11 else ((d.tenantDef c).map (·.dumarMax)).getD 0x11

/-- The version chosen for a proposal. -/
def chosenVersion (p m : Nat) : Nat := min m (if p < 0x11 then 0x10 else if p < 0x20 then 0x11 else 0x20)

/-- The features granted. -/
def grantedFeatures (asked v : Nat) : Nat := (if v = 0x20 then asked else if v = 0x11 then asked &&& 0xC else 0) % 16

def Session.crc (s : Session) : Bool := s.features.testBit 0
def Session.qrw (s : Session) : Bool := s.features.testBit 1
def Session.rmw (s : Session) : Bool := s.features.testBit 2

def HostCtx.hasCrc (c : HostCtx) : Bool := (c.session.map Session.crc).getD false

/-- The terms that a HELLO would get. -/
def Dev.helloTerms (d : Dev) (c : Nat) (x : HostCmd) : Session :=
  let v := chosenVersion (x.arg 0 % 256) (d.versionLimit c)
  { version := v, features := grantedFeatures (x.arg 1) v }

/-- Whether a command of context `c` carries a CRC word: once CRC is granted, except the HELLO that grants it. -/
def Dev.carriesCrc (d : Dev) (c : Nat) (x : HostCmd) : Bool :=
  (d.ctx c).hasCrc && !(x.op == opHello && x.ws.length == 2 && x.len == 2 && (d.helloTerms c x).crc)

/-- Whether the operation is available in the context's session. -/
def HostCtx.opKnown (c : HostCtx) (op : Nat) : Bool :=
  if op = opQread ∨ op = opQwrite then (c.session.map Session.qrw).getD false
  else if op = opRmw then (c.session.map Session.rmw).getD false
  else (opLen op).isSome

/-- The status that refuses a command before it runs; 0 where none does. The lowest-numbered decides (R290). -/
def Dev.refusal (d : Dev) (c : Nat) (x : HostCmd) : Nat :=
  let s := d.ctx c
  if x.op != opHello && x.op != opNop && s.session.isNone then dmNoSession
  else if x.versionRefused && x.credit then dmVersion
  else if x.lengthRefused then dmLength
  else if !x.credit then dmNoCredit
  else if !x.cut && d.carriesCrc c x && x.crc != dumarCrc (x.header :: x.ws) then dmCrc
  else if !s.opKnown x.op then dmUnknownOp
  else if x.cut then dmTruncated
  else dmOk

/-! ### The operations (R289) -/

/-- What an operation gives: its status, the words of its answer and the block after it. -/
structure Done where
  status : Nat
  words : List Word
  dev : Dev

/-- The status of several words: the lowest-numbered that is not OK. -/
def joinStatus (a b : Nat) : Nat := if a = 0 then b else if b = 0 then a else min a b

/-- RD, word by word. -/
def Dev.readMany (d : Dev) (t : Nat) : Nat → Nat → Done
  | _, 0 => ⟨dmOk, [], d⟩
  | a, 1 =>
    let g := d.hostRead t a
    ⟨g.status, [g.word], g.dev⟩
  | a, n + 2 =>
    let g := d.hostRead t a
    let (b, d) := g.dev.advanceAddr t a
    let r := d.readMany t b (n + 1)
    ⟨joinStatus g.status r.status, g.word :: r.words, r.dev⟩

/-- A write that performs a power-on reset: what follows it in its command is lost with the reset (R391). -/
def resets (a : Nat) (w : Word) : Bool := a == 2 && w.toNat.testBit 0 && bitsOf w.toNat 16 16 == 0x5253

/-- WR, word by word: how many words were written. -/
def Dev.writeMany (d : Dev) (t : Nat) : Nat → List Word → Nat × Nat × Dev
  | _, [] => (dmOk, 0, d)
  | a, [w] =>
    let g := d.hostStore t a w
    (g.status, g.word.toNat, g.dev)
  | a, w :: v :: vs =>
    let g := d.hostStore t a w
    if resets a w && g.word == 1 then (g.status, 1, g.dev)
    else
    let (b, d) := g.dev.advanceAddr t a
    let (st, n, d) := d.writeMany t b (v :: vs)
    (joinStatus g.status st, g.word.toNat + n, d)

/-- RMW: one indivisible access; the write follows only a read that was performed. -/
def Dev.modify (d : Dev) (t a : Nat) (mask value : Word) : Done :=
  let g := d.hostRead t a
  if g.status != 0 then ⟨g.status, [g.word], g.dev⟩
  else
    let p := g.dev.hostStore t a ((g.word &&& ~~~mask) ||| (value &&& mask))
    ⟨p.status, [g.word], p.dev⟩

/-- `n` words popped, each with its kind. -/
def Dev.popMany (d : Dev) (q : Nat) : Nat → List QWord × Dev
  | 0 => ([], d)
  | n + 1 =>
    let r := d.popWord q
    let (ws, d) := r.dev.popMany q n
    (r.word :: ws, d)

/-- A kind mask before each group of up to 32 words. -/
def kindGroups (l : List QWord) : List Word :=
  (chunks 32 l).flatMap fun g =>
    BitVec.ofNat 32 ((g.zipIdx.map fun p => inField p.2 1 (flagOf p.1.marker)).sum) :: g.map (·.w)

/-- Words pushed to a queue: how many it accepted. -/
def Dev.pushMany (d : Dev) (q : Nat) : List Word → Nat × Dev
  | [] => (0, d)
  | w :: ws =>
    let (ok, d) := d.pushWord q w
    let (n, d) := d.pushMany q ws
    (flagOf ok + n, d)

/-- The tenant owns the queue, and its SOURCE suits the operation. -/
def Dev.queueFor (d : Dev) (t q : Nat) (write : Bool) : Bool :=
  d.queueUsed q && d.queueOwner q == t && (d.queueSource q == 2) == write

/-- A REEL command: the REEL_CTRL or REEL_DATA write `f` at `a`, then REEL_STATUS. Out of sequence: REEL_SEQ (R47). -/
def Dev.reelCommand (d : Dev) (t a : Nat) (f : Dev → Dev) : Done :=
  let seq := d.flag REEL_STATUS_SEQ_ERR
  let g := (d.touched).writeGate (d.judgeWrite t a) t a fun d => f (d.p REEL_STATUS_SEQ_ERR 0 0)
  if g.status = dmPerm then ⟨dmPerm, [0], g.dev⟩
  else if g.status = dmDark then ⟨dmDark, [BitVec.ofNat 32 (darkWord (wordDomain a))], g.dev⟩
  else
    let bad := g.dev.flag REEL_STATUS_SEQ_ERR
    let d := g.dev.pf REEL_STATUS_SEQ_ERR 0 (seq || bad)
    ⟨if bad then dmReelSeq else dmOk, [d.reelStatus], d⟩

/-- HELLO: the terms chosen, in force from the next command (R294 to R296). -/
def Dev.helloRun (d : Dev) (c : Nat) (x : HostCmd) : Done :=
  let s := d.helloTerms c x
  let t := ctxTenant c
  let last := t + inField 2 2 (d.ctxPort c) + inField 8 8 (d.creditTotal c)
  ⟨dmOk, [BitVec.ofNat 32 s.version, BitVec.ofNat 32 s.features, BitVec.ofNat 32 (d.g SYS_ID_ID), BitVec.ofNat 32 last],
    d.putCtx c fun k => { k with session := some s, ending := false }⟩

/-- A command that nothing refuses. -/
def Dev.runOp (d : Dev) (c : Nat) (x : HostCmd) : Done :=
  let t := ctxTenant c
  let a := x.arg 0 % 65536
  let q := x.arg 0 % 64
  if x.op = opHello then d.helloRun c x
  else if x.op = opRd then d.readMany t a (bitsOf (x.arg 0) 16 11)
  else if x.op = opWr then
    let (st, n, d) := d.writeMany t a (x.ws.drop 1)
    ⟨st, [BitVec.ofNat 32 n], d⟩
  else if x.op = opRmw then d.modify t a (x.ws.getD 1 0) (x.ws.getD 2 0)
  else if x.op = opQread then
    if !d.queueFor t q false then ⟨dmQueue, [], d⟩
    else
      let (l, d) := d.popMany q (min (bitsOf (x.arg 0) 16 10) (d.queue q).depth)
      ⟨dmOk, kindGroups l, d⟩
  else if x.op = opQwrite then
    if !d.queueFor t q true then ⟨dmQueue, [], d⟩
    else
      let (n, d) := d.pushMany q (x.ws.drop 1)
      ⟨dmOk, [BitVec.ofNat 32 n], d⟩
  else if x.op = opReelStart then d.reelCommand t 0x800 Dev.reelStart
  else if x.op = opReelData then d.reelCommand t 0x810 fun d => d.each x.ws Dev.reelWord
  else if x.op = opReelArm then
    d.reelCommand t 0x800 fun d =>
      if (x.arg 0).testBit 3 then d.reelDisarm else d.reelArm (bitsOf (x.arg 0) 0 2) ((x.arg 0).testBit 2)
  else ⟨dmOk, [], d⟩

/-- A command executed: its answer, and the block after it. -/
def Dev.runCmd (d : Dev) (c : Nat) (x : HostCmd) : HostAnswer × Dev :=
  let st := d.refusal c x
  let crc := (d.ctx c).hasCrc && !(x.op == opHello && st == dmOk && (d.helloTerms c x).crc)
  let done := if st = dmOk then d.runOp c x else ⟨st, [], d⟩
  let t := ctxTenant c
  let d := done.dev.when (st == dmLength) fun d => d.set1 HOST_ERR_LENGTH t
  let d := d.when (st == dmNoCredit) fun d => d.set1 HOST_ERR_NO_CREDIT t
  ({ words := dumarAnswer crc x.op x.tag done.status done.words, credit := x.credit && !x.lengthRefused,
     closes := x.op == opBye && done.status == dmOk }, d)

/-! ### Room, order and credits (R291, R292) -/

/-- The answer buffer's words. -/
abbrev answerRoom : Nat := 2048

/-- Words of answers that are pushed or due. -/
def HostCtx.queued (c : HostCtx) : Nat := c.buf.length + (c.out.map fun a => a.words.length).sum

/-- The command at the head of those that wait runs, where its answer has room and no BYE is still to be answered. One that
writes SYS_RESET takes the context with it. -/
def Dev.runHead (d : Dev) (c : Nat) : Dev :=
  let s := d.ctx c
  match s.wait with
  | [] => d
  | x :: xs =>
    if s.out.any (·.closes) then d
    else
      let (a, e) := d.runCmd c x
      if (e.ctx c).wait.isEmpty then e
      else if s.queued + a.words.length ≤ answerRoom then e.putCtx c fun k => { k with wait := xs, out := k.out ++ [a] } else d

/-- Every command that can run, in order: at most `n`. -/
def runWaiting (c : Nat) : Nat → Dev → Dev
  | 0, d => d
  | n + 1, d => runWaiting c n (d.runHead c)

def Dev.runWait (d : Dev) (c : Nat) : Dev := runWaiting c (d.ctx c).wait.length d

/-- A command that waited can run. -/
def Dev.waitRuns (d : Dev) (c : Nat) : Bool :=
  !(d.ctx c).wait.isEmpty && decide (((d.runHead c).ctx c).wait.length < (d.ctx c).wait.length)

/-- One credit comes back: it pays a debt first (R225). -/
def HostCtx.giveCredit (c : HostCtx) : HostCtx := if c.debt = 0 then { c with free := c.free + 1 } else { c with debt := c.debt - 1 }

/-- A command header arrives: whether it is accepted (R291, R292). -/
def HostCtx.meet (c : HostCtx) : Admit :=
  if answerRoom < c.buf.length + 1 + flagOf c.hasCrc then .lost else if c.free = 0 then .noCredit else .taken

/-- The effect of a header on the credits. -/
def Dev.meetHeader (d : Dev) (c : Nat) : Dev :=
  let m := (d.ctx c).meet
  d.putCtx c fun k => { k with head := some m, free := if m = .taken then k.free - 1 else k.free }

/-- A whole command has arrived, its header met as `head` says. A command refused for LENGTH has its credit back at once. -/
def Dev.takeCmd (d : Dev) (c : Nat) (x : HostCmd) : Dev :=
  let t := ctxTenant c
  match (d.ctx c).head with
  | none => d
  | some .lost => ((d.set1 HOST_ERR_LOST_CMD t).bump HOST_CNT_REFUSED t).putCtx c fun k => { k with head := none }
  | some m =>
    let x := { x with credit := m == .taken }
    let d := d.putCtx c fun k => { k with head := none }
    let d := d.when (x.credit && x.lengthRefused) fun d => d.putCtx c HostCtx.giveCredit
    let bad := x.lengthRefused || x.versionRefused || !x.credit
    let d := d.bump (if bad then HOST_CNT_REFUSED else HOST_CNT_ACCEPTED) t
    (d.putCtx c fun k => { k with wait := k.wait ++ [x] }).runWait c

/-- A whole Dumar command: header, words and CRC word. -/
def Dev.dumar (d : Dev) (c op : Nat) (tag : Byte) (ws : List Word) (crc : Word) : Dev :=
  if !d.ctxLives c then d
  else (d.meetHeader c).takeCmd c { op := op, tag := tag.toNat, ws := ws, crc := crc, cut := false, len := ws.length, credit := false }

/-- The oldest answer is pushed and its credit returns; the session of a BYE, or one that ends, closes (R291, R292, R296).
With no answer due, a command that waited for room runs once there is room. -/
def Dev.pushAnswer (d : Dev) (c : Nat) : Dev :=
  match (d.ctx c).out with
  | [] => d.runWait c
  | a :: rest =>
    let d := d.putCtx c fun k =>
      let k := { k with buf := k.buf ++ a.words, out := rest }
      let k := if a.credit then k.giveCredit else k
      let k := if a.closes then { k with session := none } else k
      if k.ending && k.outstanding == 0 then { k with session := none, ending := false } else k
    d.runWait c

/-! ### Words that spell commands (R277, R279, R286) -/

/-- The words of a context's stream that make up its first command, header and CRC word counted. -/
def Dev.cmdNeeds (d : Dev) (c : Nat) (l : List Word) : Nat :=
  match l with
  | [] => 1
  | h :: ws =>
    let len := bitsOf h.toNat 0 11
    let x : HostCmd := { op := bitsOf h.toNat 24 8, tag := 0, ws := ws.take len, crc := 0, cut := false, len := len, credit := false }
    1 + len + flagOf (d.carriesCrc c x)

/-- The command that words spell: cut where its LEN words, or the CRC word that it carries, did not all come (R290, R293). -/
def Dev.spell (d : Dev) (c : Nat) (h : Word) (ws : List Word) : HostCmd :=
  let len := bitsOf h.toNat 0 11
  { op := bitsOf h.toNat 24 8, tag := bitsOf h.toNat 16 8, ws := ws.take len, crc := (ws.drop len).headD 0,
    cut := decide ((h :: ws).length < d.cmdNeeds c (h :: ws)), len := len, credit := false }

/-- The stream of HOSTn_CMD: the header of the first command is met, and each command that is whole is taken: at most `n`. One
that its header refuses for LENGTH is taken at once, and its words are drained (R225, R288). -/
def runStream (c : Nat) : Nat → Dev → Dev
  | 0, d => d
  | n + 1, d =>
    match (d.ctx c).cmd with
    | [] => d
    | h :: ws =>
      let d := d.when (d.ctx c).head.isNone fun d => d.meetHeader c
      let need := d.cmdNeeds c (h :: ws)
      if lenWrong (bitsOf h.toNat 24 8) (bitsOf h.toNat 0 11) then
        let d := d.putCtx c fun k => { k with cmd := k.cmd.drop need, drain := need - k.cmd.length }
        runStream c n (d.takeCmd c (d.spell c h ws))
      else if (h :: ws).length < need then d
      else
        let d := d.putCtx c fun k => { k with cmd := k.cmd.drop need }
        runStream c n (d.takeCmd c (d.spell c h (ws.take (need - 1))))

/-- What the appended words make whole. A command may append to the stream itself, and what it appends is taken after it. -/
def Dev.settleStreams (d : Dev) : Dev := d.each (List.range 4) fun d c => runStream c ((d.ctx c).cmd.length + 1024) d

/-- A STOP ends a command short of its words: TRUNCATED (R290). -/
def Dev.cutStream (d : Dev) (c : Nat) : Dev :=
  let d := d.when ((d.ctx c).drain != 0) fun d => d.putCtx c fun k => { k with drain := 0 }
  match (d.ctx c).cmd with
  | [] => d
  | h :: ws => (d.putCtx c fun k => { k with cmd := [] }).takeCmd c (d.spell c h ws)

end Sys2Proof.Machine
end

