-- ==== Sys2Proof/Machine/HostPorts.lean ====
section
/-!
DEFINITION. The ports H0, H1 and H2, Dumar commands as they arrive, and a host's direct accesses
(11_hosts_tenancy.md R272 to R287; 15_memory_registers.md R376 to R391).
-/

-- One declaration after another: the package is compiled as one text under a memory limit.
set_option Elab.async false

namespace Sys2Proof.Machine

/-- What follows a host's access: the commands that it made whole, records and requests. -/
def Dev.settleHost (d : Dev) : Dev := d.settleStreams.settlePool

/-! ### SPI frames (R274 to R280) -/

def Dev.spi (d : Dev) (p : Nat) : SpiState := vget d.host.spi p idleSpi
def Dev.putSpi (d : Dev) (p : Nat) (f : SpiState → SpiState) : Dev := d.inHost fun h => { h with spi := vupdN h.spi p f }

/-- The context of an SPI port: the tenant whose PORT names it; before a Reel T0's own context of the port (R272). -/
def Dev.spiCtx (d : Dev) (p : Nat) : Option Nat :=
  match d.reel.active with
  | none => some (if p = 0 then 0 else 4)
  | some r => (r.tenants.find? fun e => e.port == p).map (·.tenant)

/-- Quad-SPI mode, by PINS group 0x30 or 0x31. -/
def Dev.quad (d : Dev) (p : Nat) : Bool := ((d.reel.active.map fun r => r.pinFunction (0x30 + p)).getD 0) == 1

/-- The status word at select (R276). -/
def Dev.spiStatus (d : Dev) (p c : Nat) : Word :=
  let s := d.spi p
  let k := d.ctx c
  BitVec.ofNat 32 (inField 31 1 (flagOf s.under) + inField 30 1 (flagOf s.part) + inField 29 1 (flagOf (d.request (ctxTenant c)))
    + inField 28 1 (flagOf k.session.isSome) + inField 21 7 k.free + inField 12 9 (if s.under then min s.first 0x1FF else 0)
    + min k.buf.length 4095)

/-- HnCS_N falls. While HIO is Off the frame is lost (R287). -/
def Dev.select (d : Dev) (p : Nat) : Dev :=
  if !d.domOn domHio || (d.spi p).selected then d
  else
    match d.spiCtx p with
    | none => d.putSpi p fun s => { s with selected := true, ctx := none, lane := .none, status := 0, miso := [], under := false, part := false }
    | some c =>
      let w := d.spiStatus p c
      d.putSpi p fun s => { s with selected := true, ctx := some c, lane := .none, status := w, miso := [], under := false, part := false }

/-- The queue may be read over the stream lane. -/
def Dev.streamable (d : Dev) (t q : Nat) : Bool := d.queueUsed q && d.queueOwner q == t && d.flag Q_CFG_STREAM q

/-- The lane word (R275). -/
def Dev.takeLane (d : Dev) (p : Nat) (w : Word) : Dev :=
  let s := d.spi p
  match s.ctx, s.lane with
  | some c, .none =>
    if !s.selected then d
    else
      let t := ctxTenant c
      let lane := bitsOf w.toNat 24 8
      let q := bitsOf w.toNat 16 6
      if lane = 0xC1 then d.putSpi p fun s => { s with lane := .command }
      else if lane = 0x5A then
        (d.putSpi p fun s => { s with lane := .stream q (bitsOf w.toNat 0 16) }).when (!d.streamable t q) fun d => d.set1 HOST_ERR_STREAM t
      else (d.putSpi p fun s => { s with lane := .ignored }).set1 HOST_ERR_FRAME t
  | _, _ => d

/-- The words that MISO carries after the status word when `i` is the first that was not ready: from there on the word before
it again (R278). `status`: the word at index 0. -/
def resent (status : Word) (late : Option Nat) (sent : Nat) (ws : List Word) : List Word :=
  match late with
  | none => ws.take sent
  | some i =>
    let good := ws.take (min sent (i - 1))
    good ++ List.replicate (sent - good.length) (good.getLastD status)

/-- Words consumed of `sent`: those before the first that was not ready. -/
def consumed (late : Option Nat) (sent : Nat) : Nat :=
  match late with
  | none => sent
  | some i => min sent (i - 1)

/-- An underrun of the present frame. -/
def Dev.underrun (d : Dev) (p t : Nat) (late : Option Nat) : Dev :=
  match late with
  | none => d
  | some i => (d.set1 HOST_STATUS_UNDERRUN t).putSpi p fun s => { s with under := true, first := i }

/-- `n` words of a stream frame from its word `j` on, `budget` words allowed and `at` of them gone: a kind mask before each 32. -/
def Dev.streamWords (d : Dev) (q budget : Nat) : Nat → Nat → Nat → List Word × Dev
  | 0, _, _ => ([], d)
  | n + 1, j, gone =>
    if (j - 2) % 33 = 0 then
      let kinds := (((d.queue q).words.take (min 32 (budget - gone))).zipIdx.map fun p => inField p.2 1 (flagOf p.1.marker)).sum
      let (ws, d) := d.streamWords q budget n (j + 1) gone
      (BitVec.ofNat 32 kinds :: ws, d)
    else if gone < budget then
      let r := d.popWord q
      let (ws, d) := r.dev.streamWords q budget n (j + 1) (gone + 1)
      (r.word.w :: ws, d)
    else
      let (ws, d) := d.streamWords q budget n (j + 1) gone
      (0 :: ws, d)

/-- The stream words of a frame, `sent` of them whole (R280). -/
def Dev.streamFrame (d : Dev) (p sent : Nat) (late : Option Nat) : Dev :=
  let s := d.spi p
  match s.ctx, s.lane with
  | some c, .stream q most =>
    let t := ctxTenant c
    let d := d.underrun p t (late.filter fun i => 1 ≤ i && i ≤ sent)
    if !d.streamable t q then d.putSpi p fun s => { s with miso := List.replicate sent 0 }
    else
      let depth := (d.queue q).depth
      let budget := if most = 0 then depth else min depth most
      let n := consumed late sent
      let (ws, d) := d.streamWords q budget (n - 1) 2 0
      let first := BitVec.ofNat 32 (budget + inField 19 6 q)
      d.putSpi p fun s => { s with miso := resent s.status late sent (first :: ws) }
  | _, _ => d

/-- The first `n` words of the answer buffer leave it. -/
def Dev.dropAnswers (d : Dev) (c n : Nat) : Dev := d.putCtx c fun k => { k with buf := k.buf.drop n }

/-- A command-lane frame's words: MISO takes answers while MOSI brings the command. In SPI mode the header has come when the
first answer word is out; in quad mode the host's phase comes first. -/
def Dev.commandFrame (d : Dev) (p c : Nat) (words : List Word) (miso : Nat) (late : Option Nat) : Dev :=
  let n := consumed late miso
  let buf := (d.ctx c).buf
  let out := resent (d.spi p).status late miso (buf.take miso ++ List.replicate (miso - buf.length) 0xFFFFFFFF)
  let d := (d.putSpi p fun s => { s with miso := out }).underrun p (ctxTenant c) (late.filter fun i => 1 ≤ i && i ≤ miso)
  let before := if d.quad p then 0 else min 1 n
  let d := d.dropAnswers c before
  match words with
  | [] => d.dropAnswers c (n - before)
  | h :: ws => ((d.meetHeader c).dropAnswers c (n - before)).takeCmd c (d.spell c h ws)

/-- HnCS_N rises: a partial word counts as a received word (R279), and a short command is TRUNCATED. -/
def Dev.release (d : Dev) (p : Nat) (mosi : List Word) (part : Option (Nat × Word)) (miso : Nat) (late : Option Nat) : Dev :=
  let s := d.spi p
  if !s.selected then d
  else
    let words := mosi ++ (match part with
      | some (k, w) => [BitVec.ofNat 32 (w.toNat % 2 ^ min k 32)]
      | none => [])
    let d := match s.ctx with
      | none => d
      | some c =>
        let t := ctxTenant c
        let d := d.when part.isSome fun d => (d.set1 HOST_STATUS_PARTIAL t).putSpi p fun s => { s with part := true }
        let d := if s.lane = FrameLane.command then d.commandFrame p c words miso late else d
        d.when (d.spi p).under fun d => (d.p HOST_UR_FIRST t (min (d.spi p).first 0xFFFF)).bump HOST_UR_COUNT t
    d.putSpi p fun s => { s with selected := false, ctx := none, lane := .none }

/-! ### The two-wire port (R281 to R285) -/

def Dev.putH2 (d : Dev) (f : H2State → H2State) : Dev := d.inHost fun h => { h with h2 := f h.h2 }

/-- The tenant that an H2 address names (R272). -/
def Dev.h2Tenant (d : Dev) (addr : Nat) : Option Nat :=
  match d.reel.active with
  | none => if addr = 0x2C then some 0 else none
  | some r => (r.tenants.find? fun e => e.port == 2 && e.addr == addr).map (·.tenant)

/-- An address byte. The write buffer never holds words of an earlier transaction here. -/
def Dev.h2Select (d : Dev) (addr : Nat) (isRead : Bool) : Dev :=
  if !d.domOn domHio then d
  else
    match d.h2Tenant addr with
    | none => d.putH2 fun h => { h with tenant := none, read := false, ack := false }
    | some t =>
      let d := d.when isRead fun d => d.inHub fun h => { h with old := [] }
      d.putH2 fun h => { h with tenant := some t, read := isRead, ack := true, ptrBytes := 0, page := none, refused := false, bytes := [], burst := 0 }

/-- A byte written (R281). -/
def Dev.h2Byte (d : Dev) (b : Byte) : Dev :=
  let h := d.host.h2
  match h.tenant with
  | none => d.putH2 fun h => { h with ack := false }
  | some t =>
    if h.read || h.refused then d.putH2 fun h => { h with ack := false }
    else if h.ptrBytes = 0 then d.putH2 fun h => { h with ptr := 256 * b.toNat + h.ptr % 256, ptrBytes := 1, ack := true }
    else if h.ptrBytes = 1 then d.putH2 fun h => { h with ptr := h.ptr / 256 * 256 + b.toNat, ptrBytes := 2, ack := true }
    else
      let page := h.page.getD (h.ptr / 64)
      if h.ptr / 64 ≠ page then (d.set1 HOST_ERR_PAGE_NACK t).putH2 fun h => { h with refused := true, ack := false }
      else
        let bytes := h.bytes ++ [b]
        if bytes.length < 4 then d.putH2 fun h => { h with bytes := bytes, page := some page, ack := true }
        else
          let g := (d.putH2 fun h => { h with bytes := [], page := some page, ack := true }).hostStore t h.ptr (BitVec.ofNat 32 (beNat bytes))
          let (a, d) := g.dev.advanceAddr t h.ptr
          d.putH2 fun h => { h with ptr := a }

/-- A word taken for a read, as its first byte is sent (R282). -/
def Dev.h2Word (d : Dev) : Dev :=
  let h := d.host.h2
  match h.tenant with
  | none => d
  | some t =>
    if !h.read then d
    else
      let g := d.hostRead t h.ptr (some h.burst)
      let (a, d) := g.dev.advanceAddr t h.ptr
      (d.putRead t g.word).putH2 fun h => { h with ptr := a, data := g.word, burst := h.burst + 1 }

/-- The bytes of an incomplete word are discarded. -/
def Dev.h2Discard (d : Dev) : Dev :=
  match d.host.h2.tenant with
  | none => d
  | some t =>
    (d.when (!d.host.h2.read && !d.host.h2.bytes.isEmpty) fun d => d.set1 HOST_ERR_PARTIAL_WR t).putH2 fun h => { h with bytes := [], page := none }

/-- A STOP or a repeated START. A STOP also ends a Dumar command that is short of its words (R290). -/
def Dev.h2End (d : Dev) (repeated : Bool) : Dev :=
  let d := d.h2Discard
  if repeated then d
  else
    let d := match d.host.h2.tenant with
      | some t => if d.onH2 t then d.cutStream t else d
      | none => d
    d.putH2 fun h => { h with tenant := none, read := false, ack := false }

/-- A START in the acknowledge slot of a byte: the byte is discarded, and a repeated start follows (R284). -/
def Dev.h2AckStart (d : Dev) : Dev :=
  match d.host.h2.tenant with
  | none => d
  | some t => (d.bump HOST_ACKERR_ACK_START t).h2End true

/-- The tenants on H2, by ascending address. -/
def Dev.h2Tenants (d : Dev) : List TenantDef :=
  match d.reel.active with
  | none => []
  | some r => sortBy (fun a b => decide (a.addr < b.addr)) (r.tenants.filter fun e => e.port == 2)

/-- Microseconds for which an in-band pulse holds SDA low: 4 for the lower address, 8 for the higher, 12 for both. -/
def Dev.inbandTime (d : Dev) : Nat :=
  ((d.h2Tenants.zipIdx.filter fun p => d.request p.1.tenant).map fun p => if p.2 = 0 then 4 else 8).sum

/-- An in-band pulse; `clash`: a controller drove SCL low during it. -/
def Dev.inband (d : Dev) (clash : Bool) : Dev :=
  let n := d.inbandTime
  if n = 0 ∨ d.host.h2.tenant.isSome ∨ d.domOn domHio = false then d
  else if clash then
    (d.each (d.h2Tenants.filter fun e => d.request e.tenant) fun d e => d.bump HOST_REQ_CLASH e.tenant).putH2 fun h => { h with pulse := 0 }
  else d.putH2 fun h => { h with pulse := n }

/-! ### The commands: ports -/

def execSelectAssert (p : SpiPort) (s : State) : Out State := effect s fun d => d.select p

def execLaneWord (p : SpiPort) (w : Word) (s : State) : Out State := effect s fun d => d.takeLane p w

def execStreamFrame (p : SpiPort) (sent : Nat) (late : Option Nat) (s : State) : Out State := effect s fun d => (d.streamFrame p sent late).settlePool

def execSelectRelease (p : SpiPort) (mosi : List Word) (part : Option (Nat × Word)) (miso : Nat) (late : Option Nat) (s : State) : Out State :=
  effect s fun d => (d.release p mosi part miso late).settleHost

def execDumarNop (c : Ctx) (tag : Byte) (ws : List Word) (crc : Word) (s : State) : Out State :=
  effect s fun d => (d.dumar c opNop tag ws crc).settleHost

def execHello (c : Ctx) (tag : Byte) (ws : List Word) (crc : Word) (s : State) : Out State :=
  effect s fun d => (d.dumar c opHello tag ws crc).settleHost

def execBye (c : Ctx) (tag : Byte) (ws : List Word) (crc : Word) (s : State) : Out State :=
  effect s fun d => (d.dumar c opBye tag ws crc).settleHost

def execRd (c : Ctx) (tag : Byte) (ws : List Word) (crc : Word) (s : State) : Out State :=
  effect s fun d => (d.dumar c opRd tag ws crc).settleHost

def execWr (c : Ctx) (tag : Byte) (ws : List Word) (crc : Word) (s : State) : Out State :=
  effect s fun d => (d.dumar c opWr tag ws crc).settleHost

def execRmw (c : Ctx) (tag : Byte) (ws : List Word) (crc : Word) (s : State) : Out State :=
  effect s fun d => (d.dumar c opRmw tag ws crc).settleHost

def execQread (c : Ctx) (tag : Byte) (ws : List Word) (crc : Word) (s : State) : Out State :=
  effect s fun d => (d.dumar c opQread tag ws crc).settleHost

def execQwrite (c : Ctx) (tag : Byte) (ws : List Word) (crc : Word) (s : State) : Out State :=
  effect s fun d => (d.dumar c opQwrite tag ws crc).settleHost

def execReelStart (c : Ctx) (tag : Byte) (ws : List Word) (crc : Word) (s : State) : Out State :=
  effect s fun d => (d.dumar c opReelStart tag ws crc).settleHost

def execDumarReelData (c : Ctx) (tag : Byte) (ws : List Word) (crc : Word) (s : State) : Out State :=
  effect s fun d => (d.dumar c opReelData tag ws crc).settleHost

def execReelArm (c : Ctx) (tag : Byte) (ws : List Word) (crc : Word) (s : State) : Out State :=
  effect s fun d => (d.dumar c opReelArm tag ws crc).settleHost

def execAnswerPush (c : Ctx) (s : State) : Out State := effect s fun d => (d.pushAnswer c).settleHost

def execH2Address (addr : BitVec 7) (isRead : Bool) (s : State) : Out State := effect s fun d => d.h2Select addr.toNat isRead

def execH2WriteByte (b : Byte) (s : State) : Out State := effect s fun d => (d.h2Byte b).settleHost

def execH2ReadWord (s : State) : Out State := effect s fun d => d.h2Word.settlePool

def execH2Stop (repeated : Bool) (s : State) : Out State := effect s fun d => (d.h2End repeated).settleHost

def execAckStart (s : State) : Out State := effect s fun d => d.h2AckStart

def execInbandPulse (clash : Bool) (s : State) : Out State := effect s fun d => d.inband clash

/-- A write of HOSTn_CMD in the tenant's own view. -/
def execHostnCmd (t : Tenant) (w : Word) (s : State) : Out State :=
  effect s fun d => (d.hostStore t (0x440 + 0x100 * t) w).dev.settleHost

/-- A read of HOSTn_ANS in the tenant's own view. -/
def execHostnAns (t : Tenant) (s : State) : Out State :=
  effect s fun d =>
    let g := d.hostRead t (0x480 + 0x100 * t)
    (g.dev.putRead t g.word).settlePool

/-- HOSTn_IRQ.REEL_ACK (R297). -/
def execReelAck (t : Tenant) (s : State) : Out State :=
  effect s fun d => (d.hostWrite t (0x404 + 0x100 * t) fun d =>
    if t.val = 0 then d.inReel fun r => { r with irq := false } else d).settlePool

/-! ### The commands: direct accesses -/

/-- A read through a window, which stalled for `stalled` cycles at its bank. -/
def execWindowRead (t : Tenant) (a : BitVec 16) (stalled : Nat) (s : State) : Out State :=
  effect s fun d =>
    let g := (if a.toNat < 0x4000 then d else d.stalledBy stalled).hostRead t a.toNat
    (g.dev.putRead t g.word).settlePool

/-- A write through a window; `prev`: the tenant whose write to the same Commons word in the same cycle it overwrote. -/
def execWindowWrite (t : Tenant) (a : BitVec 16) (w : Word) (prev : Option Tenant) (stalled : Nat) (s : State) : Out State :=
  effect s fun d =>
    let x := d.windowWord t a.toNat
    let g := (if a.toNat < 0x4000 then d else d.stalledBy stalled).hostStore t a.toNat w
    let d := match prev with
      | some o => if 0x4000 ≤ a.toNat ∧ g.word = 1 then g.dev.commonsOver t o x else g.dev
      | none => g.dev
    if a.toNat < 0x4000 then d.settleHost else d.settlePool

def execRcRead (t : Tenant) (a : BitVec 16) (s : State) : Out State :=
  effect s fun d =>
    let g := d.hostRead t a.toNat
    (g.dev.putRead t g.word).settlePool

def execRegisterWrite (t : Tenant) (a : BitVec 16) (w : Word) (s : State) : Out State :=
  effect s fun d => (d.hostStore t a.toNat w).dev.settleHost

def execSysReset (t : Tenant) (w : Word) (s : State) : Out State := effect s fun d => (d.hostStore t 2 w).dev

end Sys2Proof.Machine
end

