-- ==== Sys2Proof/Machine/Idle.lean ====
section
/-!
DEFINITION. What the block does while no command waits (notes/assumptions/1.md): one CCLK cycle of its clocks, and the
commands that its own sequencers owe in that cycle, which are put into the queue in the order in which they act.
-/

-- One declaration after another: the package is compiled as one text under a memory limit.
set_option Elab.async false

namespace Sys2Proof.Machine

/-! ### Clocks (R9, R81, R95, R240, R360) -/

/-- ACLK through one tick, at 32,768 Hz. -/
def Clock.aclkTick (c : Clock) : Clock :=
  let f := c.aclkFrac + 32768
  if 27120000 ≤ f then { c with aclk := c.aclk + 1, aclkFrac := f - 27120000 } else { c with aclkFrac := f }

/-- The last firing angle has been passed again: Steps may fire (R208). -/
def Dev.clearSkip (d : Dev) (x : Nat) : Dev :=
  let r := d.ring x
  match r.skipBack, r.lastFire with
  | true, some f =>
    if (passedAt (d.ringReverse x) r.prevFrac r.frac f).isSome then d.putRing x fun r => { r with skipBack := false } else d
  | _, _ => d

/-- One tick: the rings, the carrier every second tick, ACLK, and the drivers' stress every millisecond. -/
def Dev.tick (d : Dev) : Dev :=
  let d : Dev := { d with clock := { d.clock.aclkTick with cclk := 0, time := d.clock.time + 1 } }
  let d := d.each ((List.range 4).filter fun x => (d.ringDef x).isSome) fun d x => (d.tickRing x).clearSkip x
  let d := d.when (d.now % 2 == 0) Dev.carrierCycle
  d.when (d.now % msTicks == 0) Dev.stressAll

/-- The engines in one cycle: stalls counted, and LOAD taken every 65,536 cycles (R239, R240, R253). -/
def Dev.engineCycle (d : Dev) : Dev :=
  let d := d.inHub fun h =>
    { h with engines := vmap (fun _ x => { x with stall := if x.out.isEmpty then 0 else x.stall + 1 }) h.engines }
  if d.cycle % 65536 == 0 then
    d.each (List.range 4) fun d e =>
      (d.p HUB_ENG_LOAD e (min 255 ((d.engine e).busy / 256))).putEngine e fun x => { x with busy := 0 }
  else d

/-- One CCLK cycle. -/
def Dev.cclkCycle (d : Dev) : Dev :=
  let d : Dev := if d.clock.cclk = 7 then d.tick else { d with clock := { d.clock with cclk := d.clock.cclk + 1 } }
  d.when (d.domOn domHub) Dev.engineCycle

/-- It is the first cycle of a tick. -/
def Dev.onTick (d : Dev) : Bool := d.clock.cclk == 0

/-! ### A Caller's next instruction (R212, R213) -/

/-- The instruction of Caller `k` that word `w` of Call memory spells. Fields that it does not use are not looked at. -/
def instrOf (k : CallerId) (w : Word) : Instr :=
  let op := bitsOf w.toNat 26 6
  let f := fun (lo : Nat) => Fin.ofNat 16 (bitsOf w.toNat lo 4)
  let d := f 22
  let a := f 18
  let b := f 14
  let i14 : BitVec 14 := BitVec.ofNat 14 w.toNat
  let i18 : BitVec 18 := BitVec.ofNat 18 w.toNat
  match op with
  | 0x00 => .nop k
  | 0x01 => .add k d a b
  | 0x02 => .sub k d a b
  | 0x03 => .and k d a b
  | 0x04 => .or k d a b
  | 0x05 => .xor k d a b
  | 0x06 => .shl k d a b
  | 0x07 => .shr k d a b
  | 0x08 => .sar k d a b
  | 0x09 => .mul k d a b
  | 0x0A => .addi k d a i18
  | 0x0B => .andi k d a i18
  | 0x0C => .ori k d a i18
  | 0x0D => .lui k d i18
  | 0x0E => .shli k d a i18
  | 0x0F => .shri k d a i18
  | 0x10 => .ld k d a i14
  | 0x11 => .st k d a i14
  | 0x12 => .ldc k d a i14
  | 0x13 => .rds k d i14
  | 0x14 => .wrs k a i14
  | 0x18 => .beq k d a i18
  | 0x19 => .bne k d a i18
  | 0x1A => .blt k d a i18
  | 0x1B => .bltu k d a i18
  | 0x1C => .jmp k i14
  | 0x1D => .call k i14
  | 0x1E => .ret k
  | 0x1F => .endProgram k
  | 0x20 => .slot k d i14
  | 0x21 => .rel k a
  | 0x22 => .keep k a b
  | 0x23 => .adopt k d a
  | 0x24 => .useSlot k a
  | 0x28 => .claim k d a b
  | 0x29 => .field k a b
  | 0x2A => .glide k d a b
  | 0x2B => .segl k d a
  | 0x2C => .seam k d a
  | 0x2D => .spos k d a
  | 0x30 => .send k d a i14
  | 0x31 => .listen k a b
  | 0x32 => .recv k d a i14
  | 0x34 => .push k d a b
  | 0x35 => .pop k d a
  | 0x38 => .waitc k a i14
  | 0x39 => .waita k a
  | 0x3A => .waitp k a b i14
  | 0x3C => .cen k d a i14
  | 0x3D => .bus k d a b
  | 0x3F => .entry k i14
  | _ => .undefinedOpcode k (BitVec.ofNat 6 op)

/-- Caller `k` is at a CLAIM. -/
def Dev.atClaim (d : Dev) (k : Nat) : Bool :=
  let c := d.caller k
  match c.st with
  | .run => bitsOf (d.rword (callBase + c.pc)).toNat 26 6 == 0x28
  | _ => false

/-- The Callers in the order in which claims of one cycle are taken: higher Step PRIO, then lower number (R67, R214). -/
def Dev.callerOrder (d : Dev) : List Nat :=
  let prio := fun (k : Nat) => ((d.caller k).fire.map (·.prio)).getD 0
  sortBy (fun a b => decide (prio b < prio a) || (prio a == prio b && decide (a < b))) (List.range 8)

/-- What Caller `k` does in a cycle: its instruction while it runs, the end of a wait, its limit, or a program's start. -/
def Dev.callerEvents (d : Dev) (k : CallerId) : List Instr :=
  let c := d.caller k
  let limit := if d.programLives k && d.programLimit ≤ d.progNow k then [Instr.programTimeout k] else []
  let own : List Instr :=
    match c.st with
    | .idle => if (d.nextEntry k).isSome && d.domTakes domCall then [.programStart k] else []
    | .run => [instrOf k (d.rword (callBase + c.pc))]
    | .time t => if d.timeReached k t then [.waitcReached k] else []
    | .angle f => if d.angleReached k f then [.waitaReached k] else []
    | .point sa f n => if d.pointReached k sa f n then [.waitpReached k] else []
    | .takeOver _ => [.spareTakeover k]
    | _ => []
  limit ++ own

/-! ### The commands that each sequencer owes -/

/-- A command for each number below `n` that meets a condition. -/
def eventsOf (n : Nat) (p : Nat → Bool) (f : Nat → Instr) : List Instr := ((List.range n).filter p).map f

/-- Boundaries and estimators (R83, R87, R90, R97, R100, R247). The vote takes the tick's last cycle, so that a mark of the tick has
updated its track before it (R94). -/
def Dev.tempoEvents (d : Dev) : List Instr :=
  let still := max 1 (d.g TEMPO_STILL_STILL_MS) * msTicks
  let ringOn := fun x => (d.ringDef x).isSome
  let wraps := fun x => ringOn x && d.flag RING_STATUS_ARMED x && (d.ring x).wrapped
  let vote := d.clock.cclk == 7 && d.now % 256 == 0
  let marked := fun x => (d.ring x).tracks.toList.any fun t => !t.marks.isEmpty
  let stands := fun x =>
    ringOn x && !d.ringStill x &&
      (if d.ringValid x then still ≤ d.now - (d.ring x).lastAdv else !marked x && still ≤ d.now - (d.ring x).created)
  let held := fun x e => match (d.track x e).heldSince with
    | some t => !(d.track x e).stalled && still ≤ d.now - t
    | none => false
  let period := match d.tempo.periodNext with
    | some t => d.reelOn && t ≤ d.now
    | none => false
  (if d.pwr.resync then [Instr.timeResync] else [])
    ++ (eventsOf 4 wraps fun x => .revolutionBoundary (Fin.ofNat 4 x))
    ++ (if period then [.periodBoundary] else [])
    ++ (if d.dayNext ≤ d.now && !d.pwr.resync then [.dayBoundary] else [])
    ++ (eventsOf 4 wraps fun x => .latchRecords (Fin.ofNat 6 x))
    ++ (if period then [.latchRecords 4] else [])
    ++ (if d.dayNext ≤ d.now && !d.pwr.resync then [.latchRecords 5] else [])
    ++ (if d.health.longDue then [.longevityRecords] else [])
    ++ (if vote then [.tempoVote] else [])
    ++ ((List.range 4).flatMap fun x => eventsOf 3 (held x) fun e => .trackStall (Fin.ofNat 4 x) (Fin.ofNat 3 e))
    ++ (eventsOf 4 stands fun x => .still (Fin.ofNat 4 x))

/-- The Steps whose ANGLE a tick or a reseat has passed (R206, R208). -/
def Dev.passedSteps (d : Dev) (reseat : Bool) : List Instr :=
  let due := fun (i : Nat) =>
    let x := d.stepRing i
    let r := d.ring x
    let way := match r.reseatFrom with
      | some f => if reseat then passedAt (d.ringReverse x) f r.frac (d.stepAngle i) else none
      | none => if reseat then none else passedAt (d.ringReverse x) r.prevFrac r.frac (d.stepAngle i)
    way.isSome && (d.ringDef x).isSome && (!reseat || d.mayFire i)
  (d.fig.index.filter due).map fun i => .stepFire (Fin.ofNat 16384 i)

/-- Ramps and fill-in (R59, R64, R75). The fill amplitude is applied while the point of the segment's tag lies in the borrowed part,
or is predicted to reach it within N carrier cycles. -/
def Dev.fieldEvents (d : Dev) : List Instr :=
  let seg := fun (n : Nat) => Fin.ofNat 24 n
  let ended := fun n => match (d.seg n).ramp with
    | some r => decide (r.n ≤ r.k)
    | none => false
  let glides := fun n => (d.seg n).partner.isSome
  let holds := fun n => d.segState n == segDrive || d.segState n == segLevel
  let up := fun n => d.segState n == segDrive && (d.seg n).ext == 0 && (d.seg n).heldStart.isNone && d.fillExt n != 0
  let down := fun n => holds n && (d.seg n).ext != 0 && d.fillExt n == 0
  (eventsOf 24 (fun n => ended n && !glides n) fun n => .rampEnd (seg n))
    ++ (eventsOf 24 (fun n => ended n && glides n && d.segState n == segGlideIn) fun n => .glideEnd (seg n))
    ++ (eventsOf 24 up fun n => .fillRampUp (seg n))
    ++ (eventsOf 24 down fun n => .fillRampDown (seg n))

/-- The budget unit acts last in a cycle: it sees the cycle's claims and token returns together (R67, R77). -/
def Dev.budgetEvents (d : Dev) : List Instr :=
  List.replicate (d.fld.claims.length + ((List.range 8).filter d.atClaim).length) .claimGrant

/-- Slots and census jobs (R134, R184, R214, R215, R412). -/
def Dev.boardEvents (d : Dev) : List Instr :=
  let old := fun i => match (d.slot i).bind (·.kept) with
    | some q => decide (16 ≤ q.passes) || decide (16 ≤ d.unknownPasses q.sa)
    | none => false
  let place : Bool := match d.cen.job with
    | some j => (j.phase == .place && (d.caller d.jobCaller).queue.length < 4) || d.exchangeEnded j
    | none => false
  (if d.slotWinner.isSome then [Instr.slotGrant] else [])
    ++ (eventsOf 256 (fun i => (((d.slot i).map (·.rel)).getD false) && !d.slotHeld i) fun i => .slotRelease (Fin.ofNat 256 i))
    ++ (eventsOf 256 old fun i => .writeUnresolved (BitVec.ofNat 12 ((((d.slot i).bind (·.kept)).map (·.sa)).getD 0)))
    ++ (eventsOf 256 old fun i => .keptSlotRelease (Fin.ofNat 256 i))
    ++ (if place then [.jobExchangePlace] else [])
    ++ (if !d.jobRuns && d.cen.serve && !d.cen.waits.isEmpty then [.entryJob] else [])

/-- The tick by which a candidate must have qualified: 96 symbols from its first one, or from the end of the hold blocks that its
window admits (R151). -/
def candLimit (w : RxWindow) (c : Cand) : Nat :=
  let gen := if c.fc16 then 1 else w.gen
  c.tick + 96 * symTicks gen + if c.hold then 2 * w.hold * holdCycles gen else 0

/-- Lanes and cores (R148, R153, R154, R167, R172). -/
def Dev.rxEvents (d : Dev) : List Instr :=
  let open? := fun l => match (d.lane l).win with
    | some w => w.close ≤ d.now && (d.lane l).pkt.isNone && (List.range 2).all fun i => (vget (d.lane l).cands i none).isNone
    | none => false
  let late := fun l s => match (d.lane l).win, vget (d.lane l).cands s none with
    | some w, some c => candLimit w c ≤ d.now && ((d.lane l).pkt.map (·.searcher)) != some s
    | _, _ => false
  let worn := fun c => !d.coreFailed c && decide (max 1 (d.g DEC_CTRL_MM_LIMIT) ≤ d.g DECC_MISMATCH_COUNT c)
  ((List.range 20).flatMap fun l => eventsOf 2 (late l) fun s => .falseDet (Fin.ofNat 20 l) (Fin.ofNat 2 s))
    ++ (eventsOf 20 open? fun l => .replyWindowExpiry (Fin.ofNat 20 l))
    ++ (eventsOf 4 (fun c => !(d.core c).queue.isEmpty) fun c => .codewordDecoded (Fin.ofNat 4 c) [])
    ++ (eventsOf 4 worn fun c => .decCoreFail (Fin.ofNat 4 c))
    ++ (eventsOf 20 (fun l => (d.lane l).failing) fun l => .laneSpared (Fin.ofNat 20 l))

/-- The hub (R231, R239, R241). A refill comes before a message of the same cycle (R252). -/
def Dev.hubEvents (d : Dev) : List Instr :=
  let stall := max 1 (d.g HUB_CTRL_STALL_MAX)
  let due := fun (n : Nat) => match d.hubSlot n with
    | some e => e.kind == kindRate && 0 < (d.runOf n).taken && (d.runOf n).refill + max 1 (e.u32 20) ≤ d.now
    | none => false
  if !d.domOn domHub then []
  else
    (if d.hub.intake.isEmpty || !d.onTick then [] else [Instr.sampleIntake])
      ++ (((d.hub.run.map (·.1)).filter due).map fun n => .rateRefill (Fin.ofNat 1024 n))
      ++ (eventsOf 4 (fun e => stall ≤ (d.engine e).stall) fun e => .stallDrop (Fin.ofNat 4 e))
      ++ (eventsOf 4 (fun e => !((d.engine e).inbox.isEmpty && (d.engine e).out.isEmpty)) fun e => .messageApply (Fin.ofNat 4 e))

/-- Queues, the Figure's index, the loader, the scrubber, the ports and the sensor buses
(R39, R44, R204, R207, R259, R270, R291, R305, R314, R352). -/
def Dev.storeEvents (d : Dev) : List Instr :=
  let enters := fun n =>
    let q := d.queue n
    d.queueUsed n && q.mark.isSome && q.seated && belowCap (d.queueLimit n) q.depth && d.hasRoom n 1
  let past := match d.carryEnd with
    | some t => t ≤ d.now
    | none => false
  (eventsOf 64 enters fun n => .markerEntry (Fin.ofNat 64 n))
    ++ (if d.flag POOL_AUDIT_BUSY then [Instr.markPassDone] else [])
    ++ (if d.fig.rebuild.isSome then [.figRebuildDone] else [])
    ++ (if d.reelState == reelChecking then [.reelCheckDone] else [])
    ++ (eventsOf 256 (fun i => past && ((d.slot i).map (·.carried)).getD false) fun i => .carryAbort (Fin.ofNat 256 i))
    ++ (eventsOf 5 (fun c => !(d.ctx c).out.isEmpty || d.waitRuns c) fun c => .answerPush (Fin.ofNat 5 c))
    ++ (eventsOf 4 (fun b => (2 ≤ b || !d.busEnabled b) && d.domOn domSio && (d.busRun b).isNone && !(d.busWait b).isEmpty) fun b =>
          .busTransactionStart (Fin.ofNat 4 b) false false)
    ++ (eventsOf 16 (fun p => d.onTick && d.pollDueAt p d.now) fun p => .pollDue (Fin.ofNat 16 p))
    ++ (if d.cycle % max 16 (d.g HEALTH_SCRUB_DIV) == 0 && d.flag HEALTH_CTRL_SCRUB_EN then [.scrubRead []] else [])
    ++ (match d.lc.armed with
        | some (_, tick, aclk) => if d.lcLapsed tick aclk then [.lcArmExpiry] else []
        | none => [])

/-- The timer fires (R328). -/
def Dev.timerDue (d : Dev) : Bool :=
  match d.pwr.done with
  | some c => d.g PWR_TIMER_TICKS != 0 && d.g PWR_TIMER_TICKS ≤ (d.clock.aclk.toNat + 2 ^ 48 - c) % 2 ^ 48
  | none => false

/-- The steward and Bow (R324, R327, R330, R331): a block answers without a delay, and every attempt succeeds. -/
def Dev.powerEvents (d : Dev) : List Instr :=
  let asked := allDoms.filter fun n => d.pwr.asked.contains n && !d.pwr.delaying.contains n && (d.entry == 1 || d.entry == 5)
  let again := d.flag PWR_REENTER_EN && d.pwr.lastSet.isSome && d.pwr.wokenBy != 0 && d.idleLong
  asked.map (fun n => Instr.bowAnswer (Fin.ofNat 40 n) none)
    ++ (if d.entry == 2 then [.entrySwitch []] else [])
    ++ (if d.pwr.groups.isEmpty then [] else [.switchReady])
    ++ (if d.timerDue then [.timerWake] else [])
    ++ (if again then [.reentry] else [])

/-- Everything that the block owes itself in the present cycle, in the order in which it acts. While the TAP holds functional
operation stopped, the steward alone acts (R403). -/
def Dev.dueEvents (d : Dev) : List Instr :=
  if d.tap.stopped then d.powerEvents
  else
    d.powerEvents ++ d.tempoEvents
      ++ (if d.onTick then d.passedSteps false else [])
      ++ (if d.fig.due.isEmpty then [] else [.stepDispatch])
      ++ d.fieldEvents ++ d.boardEvents ++ d.rxEvents ++ d.hubEvents ++ d.storeEvents
      ++ (d.callerOrder.flatMap fun k => d.callerEvents (Fin.ofNat 8 k))
      ++ d.budgetEvents

/-- The forward reseats have been dealt with. -/
def Dev.endReseat (d : Dev) : Dev :=
  d.each (List.range 4) fun d x => if (d.ring x).reseatFrom.isSome then d.putRing x fun r => { r with reseatFrom := none } else d

/-- The boundaries of the rings that a forward reseat has carried across 0: the reseat tick's own (R94). -/
def Dev.reseatBoundaries (d : Dev) : List Instr :=
  let wraps := fun x => (d.ringDef x).isSome && (d.ring x).reseatFrom.isSome && (d.ring x).wrapped && d.flag RING_STATUS_ARMED x
  (eventsOf 4 wraps fun x => .revolutionBoundary (Fin.ofNat 4 x)) ++ eventsOf 4 wraps fun x => .latchRecords (Fin.ofNat 6 x)

/-- One step with no command waiting. With CORE not On there is no CCLK: an ACLK cycle passes. A reseat's boundary and then the Steps
that it has passed, under the new count, come in the tick of the reseat (R94, R206, R208). -/
def State.idle (s : State) : State :=
  let d := s.dev
  if !d.domOn domCore then
    let d : Dev := { d with clock := { d.clock with aclk := d.clock.aclk + 1 } }
    let d := d.noteBusy
    { pending := d.powerEvents, dev := d }
  else
    match d.reseatBoundaries, d.passedSteps true with
    | i :: l, _ => { pending := i :: l, dev := d }
    | [], i :: l => { pending := i :: l, dev := d }
    | [], [] =>
      let d := d.endReseat.cclkCycle.settleRequests.noteBusy
      { pending := d.dueEvents, dev := d }

end Sys2Proof.Machine
end

