-- ==== Sys2Proof/Machine/Dispatch.lean ====
section
/-!
DEFINITION. Which meaning each command has: one arm for each row of spec/opcode_table.json.
-/
namespace Sys2Proof.Machine

def exec (i : Instr) (s : State) : Host.Outcome State Fault Refusal :=
  match i with
  | .powerOnReset => Sys2Proof.Machine.execPowerOnReset s
  | .flashBootImageRead image => Sys2Proof.Machine.execFlashBootImageRead image s
  | .start t => Sys2Proof.Machine.execStart t s
  | .reelData t w => Sys2Proof.Machine.execReelData t w s
  | .reelCheckDone => Sys2Proof.Machine.execReelCheckDone s
  | .arm t r any => Sys2Proof.Machine.execArm t r any s
  | .disarm t => Sys2Proof.Machine.execDisarm t s
  | .carryAbort slot => Sys2Proof.Machine.execCarryAbort slot s
  | .tune t n => Sys2Proof.Machine.execTune t n s
  | .tuneDone n imag iph trip => Sys2Proof.Machine.execTuneDone n imag iph trip s
  | .reinstate t n => Sys2Proof.Machine.execReinstate t n s
  | .vdrvRemeasure mv => Sys2Proof.Machine.execVdrvRemeasure mv s
  | .claimGrant => Sys2Proof.Machine.execClaimGrant s
  | .rampEnd n => Sys2Proof.Machine.execRampEnd n s
  | .glideEnd n => Sys2Proof.Machine.execGlideEnd n s
  | .fillRampUp n => Sys2Proof.Machine.execFillRampUp n s
  | .fillRampDown n => Sys2Proof.Machine.execFillRampDown n s
  | .segShort n => Sys2Proof.Machine.execSegShort n s
  | .segOpen n => Sys2Proof.Machine.execSegOpen n s
  | .thermalWarning n temp => Sys2Proof.Machine.execThermalWarning n temp s
  | .thermalFault n temp => Sys2Proof.Machine.execThermalFault n temp s
  | .vdrvLow mv => Sys2Proof.Machine.execVdrvLow mv s
  | .vdrvRestored mv => Sys2Proof.Machine.execVdrvRestored mv s
  | .kpEdge kp falling => Sys2Proof.Machine.execKpEdge kp falling s
  | .detuneBlock r mark backward meas => Sys2Proof.Machine.execDetuneBlock r mark backward meas s
  | .trackStall r e => Sys2Proof.Machine.execTrackStall r e s
  | .tempoVote => Sys2Proof.Machine.execTempoVote s
  | .still r => Sys2Proof.Machine.execStill r s
  | .revolutionBoundary r => Sys2Proof.Machine.execRevolutionBoundary r s
  | .periodBoundary => Sys2Proof.Machine.execPeriodBoundary s
  | .dayBoundary => Sys2Proof.Machine.execDayBoundary s
  | .longevityRecords => Sys2Proof.Machine.execLongevityRecords s
  | .tempoDayNext t v => Sys2Proof.Machine.execTempoDayNext t v s
  | .aclkRatioMeasure ticks => Sys2Proof.Machine.execAclkRatioMeasure ticks s
  | .timeResync => Sys2Proof.Machine.execTimeResync s
  | .tree d l pre => Sys2Proof.Machine.execTree d l pre s
  | .assign d uid newsa offset => Sys2Proof.Machine.execAssign d uid newsa offset s
  | .setgen d gen rate zsel self => Sys2Proof.Machine.execSetgen d gen rate zsel self s
  | .quiet d => Sys2Proof.Machine.execQuiet d s
  | .release d => Sys2Proof.Machine.execRelease d s
  | .wake d => Sys2Proof.Machine.execWake d s
  | .ping d => Sys2Proof.Machine.execPing d s
  | .readTag d ack plan upl hold maxw samples age spacing stat => Sys2Proof.Machine.execRead d ack plan upl hold maxw samples age spacing stat s
  | .readMem d addr nw upl hold => Sys2Proof.Machine.execReadMem d addr nw upl hold s
  | .prepare d addr nw hold data nvmOk => Sys2Proof.Machine.execPrepare d addr nw hold data nvmOk s
  | .commit d token hold nvmOk => Sys2Proof.Machine.execCommit d token hold nvmOk s
  | .confirm d token hold => Sys2Proof.Machine.execConfirm d token hold s
  | .auth d msg hold message => Sys2Proof.Machine.execAuth d msg hold message s
  | .writeUnresolved sa => Sys2Proof.Machine.execWriteUnresolved sa s
  | .cancelRefine k meanI meanQ => Sys2Proof.Machine.execCancelRefine k meanI meanQ s
  | .candidate l x fc16 rx noise => Sys2Proof.Machine.execCandidate l x fc16 rx noise s
  | .syncQualify l x rx => Sys2Proof.Machine.execSyncQualify l x rx s
  | .falseDet l x => Sys2Proof.Machine.execFalseDet l x s
  | .arrival l fc16 eighths rx => Sys2Proof.Machine.execArrival l fc16 eighths rx s
  | .seamCrossing l y rx => Sys2Proof.Machine.execSeamCrossing l y rx s
  | .windowSlide l rx => Sys2Proof.Machine.execWindowSlide l rx s
  | .replyWindowExpiry l => Sys2Proof.Machine.execReplyWindowExpiry l s
  | .codewordQueued l rx => Sys2Proof.Machine.execCodewordQueued l rx s
  | .codewordDecoded c bad => Sys2Proof.Machine.execCodewordDecoded c bad s
  | .frameDelivery l rx => Sys2Proof.Machine.execFrameDelivery l rx s
  | .laneFail l => Sys2Proof.Machine.execLaneFail l s
  | .laneSpared l => Sys2Proof.Machine.execLaneSpared l s
  | .decCoreFail c => Sys2Proof.Machine.execDecCoreFail c s
  | .walk t r => Sys2Proof.Machine.execWalk t r s
  | .rebuild t r => Sys2Proof.Machine.execRebuild t r s
  | .retire t sa force => Sys2Proof.Machine.execRetire t sa force s
  | .free t idx force => Sys2Proof.Machine.execFree t idx force s
  | .setplan t sa plan => Sys2Proof.Machine.execSetplan t sa plan s
  | .serviceA t r seg => Sys2Proof.Machine.execServiceA t r seg s
  | .serviceV t r seg blocks => Sys2Proof.Machine.execServiceV t r seg blocks s
  | .stop t => Sys2Proof.Machine.execStop t s
  | .jobExchangePlace => Sys2Proof.Machine.execJobExchangePlace s
  | .entryJob => Sys2Proof.Machine.execEntryJob s
  | .censusRingSa t r first last => Sys2Proof.Machine.execCensusRingSa t r first last s
  | .censusLookup t sa => Sys2Proof.Machine.execCensusLookup t sa s
  | .figCommit t => Sys2Proof.Machine.execFigCommit t s
  | .figRebuildDone => Sys2Proof.Machine.execFigRebuildDone s
  | .stepFire y => Sys2Proof.Machine.execStepFire y s
  | .stepDispatch => Sys2Proof.Machine.execStepDispatch s
  | .programStart k => Sys2Proof.Machine.execProgramStart k s
  | .nop k => Sys2Proof.Machine.execNop k s
  | .add k rd ra rb => Sys2Proof.Machine.execAdd k rd ra rb s
  | .sub k rd ra rb => Sys2Proof.Machine.execSub k rd ra rb s
  | .and k rd ra rb => Sys2Proof.Machine.execAnd k rd ra rb s
  | .or k rd ra rb => Sys2Proof.Machine.execOr k rd ra rb s
  | .xor k rd ra rb => Sys2Proof.Machine.execXor k rd ra rb s
  | .shl k rd ra rb => Sys2Proof.Machine.execShl k rd ra rb s
  | .shr k rd ra rb => Sys2Proof.Machine.execShr k rd ra rb s
  | .sar k rd ra rb => Sys2Proof.Machine.execSar k rd ra rb s
  | .mul k rd ra rb => Sys2Proof.Machine.execMul k rd ra rb s
  | .addi k rd ra imm => Sys2Proof.Machine.execAddi k rd ra imm s
  | .andi k rd ra imm => Sys2Proof.Machine.execAndi k rd ra imm s
  | .ori k rd ra imm => Sys2Proof.Machine.execOri k rd ra imm s
  | .lui k rd imm => Sys2Proof.Machine.execLui k rd imm s
  | .shli k rd ra imm => Sys2Proof.Machine.execShli k rd ra imm s
  | .shri k rd ra imm => Sys2Proof.Machine.execShri k rd ra imm s
  | .ld k rd ra imm => Sys2Proof.Machine.execLd k rd ra imm s
  | .st k rd ra imm => Sys2Proof.Machine.execSt k rd ra imm s
  | .ldc k rd ra imm => Sys2Proof.Machine.execLdc k rd ra imm s
  | .rds k rd imm => Sys2Proof.Machine.execRds k rd imm s
  | .wrs k ra imm => Sys2Proof.Machine.execWrs k ra imm s
  | .beq k ra rb off => Sys2Proof.Machine.execBeq k ra rb off s
  | .bne k ra rb off => Sys2Proof.Machine.execBne k ra rb off s
  | .blt k ra rb off => Sys2Proof.Machine.execBlt k ra rb off s
  | .bltu k ra rb off => Sys2Proof.Machine.execBltu k ra rb off s
  | .jmp k target => Sys2Proof.Machine.execJmp k target s
  | .call k target => Sys2Proof.Machine.execCall k target s
  | .ret k => Sys2Proof.Machine.execRet k s
  | .endProgram k => Sys2Proof.Machine.execEndProgram k s
  | .slot k rd imm => Sys2Proof.Machine.execSlot k rd imm s
  | .slotGrant => Sys2Proof.Machine.execSlotGrant s
  | .rel k ra => Sys2Proof.Machine.execRel k ra s
  | .slotRelease y => Sys2Proof.Machine.execSlotRelease y s
  | .keep k ra rb => Sys2Proof.Machine.execKeep k ra rb s
  | .adopt k rd ra => Sys2Proof.Machine.execAdopt k rd ra s
  | .keptSlotRelease y => Sys2Proof.Machine.execKeptSlotRelease y s
  | .useSlot k ra => Sys2Proof.Machine.execUseSlot k ra s
  | .claim k rd ra rb => Sys2Proof.Machine.execClaim k rd ra rb s
  | .field k ra rb => Sys2Proof.Machine.execField k ra rb s
  | .glide k rd ra rb => Sys2Proof.Machine.execGlide k rd ra rb s
  | .segl k rd ra => Sys2Proof.Machine.execSegl k rd ra s
  | .seam k rd ra => Sys2Proof.Machine.execSeam k rd ra s
  | .spos k rd ra => Sys2Proof.Machine.execSpos k rd ra s
  | .send k rd ra imm => Sys2Proof.Machine.execSend k rd ra imm s
  | .listen k ra rb => Sys2Proof.Machine.execListen k ra rb s
  | .recv k rd ra imm => Sys2Proof.Machine.execRecv k rd ra imm s
  | .push k rd ra rb => Sys2Proof.Machine.execPush k rd ra rb s
  | .pop k rd ra => Sys2Proof.Machine.execPop k rd ra s
  | .waitc k ra imm => Sys2Proof.Machine.execWaitc k ra imm s
  | .waitcReached k => Sys2Proof.Machine.execWaitcReached k s
  | .waita k ra => Sys2Proof.Machine.execWaita k ra s
  | .waitaReached k => Sys2Proof.Machine.execWaitaReached k s
  | .waitp k ra rb imm => Sys2Proof.Machine.execWaitp k ra rb imm s
  | .waitpReached k => Sys2Proof.Machine.execWaitpReached k s
  | .cen k rd ra imm => Sys2Proof.Machine.execCen k rd ra imm s
  | .bus k rd ra rb => Sys2Proof.Machine.execBus k rd ra rb s
  | .entry k imm => Sys2Proof.Machine.execEntry k imm s
  | .undefinedOpcode k op => Sys2Proof.Machine.execUndefinedOpcode k op s
  | .programTimeout k => Sys2Proof.Machine.execProgramTimeout k s
  | .lockstepMismatch k => Sys2Proof.Machine.execLockstepMismatch k s
  | .spareTakeover k => Sys2Proof.Machine.execSpareTakeover k s
  | .hold t v => Sys2Proof.Machine.execHold t v s
  | .bookAudit t => Sys2Proof.Machine.execBookAudit t s
  | .sampleIntake => Sys2Proof.Machine.execSampleIntake s
  | .messageApply e => Sys2Proof.Machine.execMessageApply e s
  | .stallDrop e => Sys2Proof.Machine.execStallDrop e s
  | .rateRefill x => Sys2Proof.Machine.execRateRefill x s
  | .latchRecords g => Sys2Proof.Machine.execLatchRecords g s
  | .queuePop t q => Sys2Proof.Machine.execQueuePop t q s
  | .queuePush t q w => Sys2Proof.Machine.execQueuePush t q w s
  | .markerEntry q => Sys2Proof.Machine.execMarkerEntry q s
  | .queueReset t q => Sys2Proof.Machine.execQueueReset t q s
  | .poolAudit t => Sys2Proof.Machine.execPoolAudit t s
  | .markPassDone => Sys2Proof.Machine.execMarkPassDone s
  | .selectAssert p => Sys2Proof.Machine.execSelectAssert p s
  | .laneWord p w => Sys2Proof.Machine.execLaneWord p w s
  | .streamFrame p sent late => Sys2Proof.Machine.execStreamFrame p sent late s
  | .selectRelease p mosi part miso late => Sys2Proof.Machine.execSelectRelease p mosi part miso late s
  | .dumarNop c tag ws crc => Sys2Proof.Machine.execDumarNop c tag ws crc s
  | .hello c tag ws crc => Sys2Proof.Machine.execHello c tag ws crc s
  | .bye c tag ws crc => Sys2Proof.Machine.execBye c tag ws crc s
  | .rd c tag ws crc => Sys2Proof.Machine.execRd c tag ws crc s
  | .wr c tag ws crc => Sys2Proof.Machine.execWr c tag ws crc s
  | .rmw c tag ws crc => Sys2Proof.Machine.execRmw c tag ws crc s
  | .qread c tag ws crc => Sys2Proof.Machine.execQread c tag ws crc s
  | .qwrite c tag ws crc => Sys2Proof.Machine.execQwrite c tag ws crc s
  | .reelStart c tag ws crc => Sys2Proof.Machine.execReelStart c tag ws crc s
  | .dumarReelData c tag ws crc => Sys2Proof.Machine.execDumarReelData c tag ws crc s
  | .reelArm c tag ws crc => Sys2Proof.Machine.execReelArm c tag ws crc s
  | .answerPush c => Sys2Proof.Machine.execAnswerPush c s
  | .h2Address addr isRead => Sys2Proof.Machine.execH2Address addr isRead s
  | .h2WriteByte b => Sys2Proof.Machine.execH2WriteByte b s
  | .h2ReadWord => Sys2Proof.Machine.execH2ReadWord s
  | .h2Stop repeated => Sys2Proof.Machine.execH2Stop repeated s
  | .ackStart => Sys2Proof.Machine.execAckStart s
  | .inbandPulse clash => Sys2Proof.Machine.execInbandPulse clash s
  | .hostnCmd t w => Sys2Proof.Machine.execHostnCmd t w s
  | .hostnAns t => Sys2Proof.Machine.execHostnAns t s
  | .reelAck t => Sys2Proof.Machine.execReelAck t s
  | .busTransactionStart b sdaHeld freed => Sys2Proof.Machine.execBusTransactionStart b sdaHeld freed s
  | .busTransactionEnd b w => Sys2Proof.Machine.execBusTransactionEnd b w s
  | .addressRetry b => Sys2Proof.Machine.execAddressRetry b s
  | .twoWireTimeout b h => Sys2Proof.Machine.execTwoWireTimeout b h s
  | .pollDue p => Sys2Proof.Machine.execPollDue p s
  | .edgeSource k level => Sys2Proof.Machine.execEdgeSource k level s
  | .busReset t b => Sys2Proof.Machine.execBusReset t b s
  | .enter t => Sys2Proof.Machine.execEnter t s
  | .bowAnswer d delay => Sys2Proof.Machine.execBowAnswer d delay s
  | .bowDelayExpiry d => Sys2Proof.Machine.execBowDelayExpiry d s
  | .entrySwitch retFail => Sys2Proof.Machine.execEntrySwitch retFail s
  | .clearLog t => Sys2Proof.Machine.execClearLog t s
  | .wakePin x high => Sys2Proof.Machine.execWakePin x high s
  | .timerWake => Sys2Proof.Machine.execTimerWake s
  | .portWake src => Sys2Proof.Machine.execPortWake src s
  | .switchReady => Sys2Proof.Machine.execSwitchReady s
  | .switchAttemptFail d => Sys2Proof.Machine.execSwitchAttemptFail d s
  | .xrefQualified edges => Sys2Proof.Machine.execXrefQualified edges s
  | .pllLock => Sys2Proof.Machine.execPllLock s
  | .clockBudgetExpiry => Sys2Proof.Machine.execClockBudgetExpiry s
  | .clockRetry ok => Sys2Proof.Machine.execClockRetry ok s
  | .xrefLoss unlock => Sys2Proof.Machine.execXrefLoss unlock s
  | .reentry => Sys2Proof.Machine.execReentry s
  | .crystalStart ms => Sys2Proof.Machine.execCrystalStart ms s
  | .crystalTimeout => Sys2Proof.Machine.execCrystalTimeout s
  | .srcSel t v => Sys2Proof.Machine.execSrcSel t v s
  | .rcTrim => Sys2Proof.Machine.execRcTrim s
  | .bodyBiasUpdate bias vcoreMv => Sys2Proof.Machine.execBodyBiasUpdate bias vcoreMv s
  | .retLost => Sys2Proof.Machine.execRetLost s
  | .supplyFall vcore => Sys2Proof.Machine.execSupplyFall vcore s
  | .tapPing k f a ring => Sys2Proof.Machine.execTapPing k f a ring s
  | .learn t => Sys2Proof.Machine.execLearn t s
  | .scrubRead hits => Sys2Proof.Machine.execScrubRead hits s
  | .load t => Sys2Proof.Machine.execLoad t s
  | .promote t => Sys2Proof.Machine.execPromote t s
  | .erase t => Sys2Proof.Machine.execErase t s
  | .wipe t => Sys2Proof.Machine.execWipe t s
  | .tamper r => Sys2Proof.Machine.execTamper r s
  | .lcArm t target => Sys2Proof.Machine.execLcArm t target s
  | .lcGo t target vaonMv => Sys2Proof.Machine.execLcGo t target vaonMv s
  | .lcProgramDone powerFailed => Sys2Proof.Machine.execLcProgramDone powerFailed s
  | .rebase t idx => Sys2Proof.Machine.execRebase t idx s
  | .windowRead t a stalled => Sys2Proof.Machine.execWindowRead t a stalled s
  | .windowWrite t a w prev stalled => Sys2Proof.Machine.execWindowWrite t a w prev stalled s
  | .rcRead t a => Sys2Proof.Machine.execRcRead t a s
  | .registerWrite t a w => Sys2Proof.Machine.execRegisterWrite t a w s
  | .sysReset t w => Sys2Proof.Machine.execSysReset t w s
  | .extest => Sys2Proof.Machine.execExtest s
  | .sample cells => Sys2Proof.Machine.execSample cells s
  | .preload cells => Sys2Proof.Machine.execPreload cells s
  | .idcode => Sys2Proof.Machine.execIdcode s
  | .clamp => Sys2Proof.Machine.execClamp s
  | .highz => Sys2Proof.Machine.execHighz s
  | .segloop => Sys2Proof.Machine.execSegloop s
  | .testacc acc => Sys2Proof.Machine.execTestacc acc s
  | .bypass => Sys2Proof.Machine.execBypass s
  | .testLogicReset => Sys2Proof.Machine.execTestLogicReset s
  | .loopRun ctrl => Sys2Proof.Machine.execLoopRun ctrl s
  | .loopDone mag phase opened shorted clipped => Sys2Proof.Machine.execLoopDone mag phase opened shorted clipped s
  | .fuseProgram cmd vaonMv => Sys2Proof.Machine.execFuseProgram cmd vaonMv s
  | .fuseRowDone failed => Sys2Proof.Machine.execFuseRowDone failed s
  | .fieldCollapse uid => Sys2Proof.Machine.execFieldCollapse uid s
  | .tagPowerUp k => Sys2Proof.Machine.execTagPowerUp k s
  | .vioBelow1v5 hio below => Sys2Proof.Machine.execVioBelow1v5 hio below s
  | .aonScrubber page => Sys2Proof.Machine.execAonScrubber page s
  | .lcArmExpiry => Sys2Proof.Machine.execLcArmExpiry s
  | .thermalWarningEnd n temp => Sys2Proof.Machine.execThermalWarningEnd n temp s

end Sys2Proof.Machine
end

