-- ==== Sys2Proof/WellFormed.lean ====
section
/-!
DEFINITION. Which commands are well formed: operands that stand together as the spec's formats ask.
-/

-- One declaration after another: the package is compiled as one text under a memory limit.
set_option Elab.async false

namespace Sys2Proof

/-- The opcodes that R213 defines. -/
def opcodeDefined (op : Nat) : Bool :=
  op ≤ 0x14 || (0x18 ≤ op && op ≤ 0x24) || (0x28 ≤ op && op ≤ 0x2D) || (0x30 ≤ op && op ≤ 0x32) || op == 0x34 || op == 0x35
    || (0x38 ≤ op && op ≤ 0x3A) || op == 0x3C || op == 0x3D || op == 0x3F

/-- A domain that may leave On: IDs 1 to 12 and 16 to 39 (R10, R318). -/
def isDomain (n : Nat) : Bool := (1 ≤ n && n ≤ 12) || (16 ≤ n && n ≤ 39)

/-- A partial word has 1 to 31 bits (R279). -/
def partOk (p : Option (Nat × Word)) : Bool :=
  match p with
  | none => true
  | some q => 1 ≤ q.1 && q.1 ≤ 31

/-- A pickup brings one to three branches, all for the same number of carrier cycles (R146). -/
def Pickup.even (rx : Pickup) : Bool :=
  decide (1 ≤ rx.branches.length ∧ rx.branches.length ≤ 3) && rx.branches.all fun b => b.length == (rx.branches.headD []).length

/-- A pickup of `n` carrier cycles. -/
def Pickup.lasts (rx : Pickup) (n : Nat) : Bool := rx.even && rx.branches.all fun b => b.length == n

/-- The carrier cycles of 8 symbols on an fc/16 or an fc/8 path (R111, R151). -/
def runCycles (fc16 : Bool) : Nat := if fc16 then 256 else 128

/-- Lengths that a frame or a command announces, fields that name one of several, and the opcodes that R213 leaves undefined. -/
def Instr.wf (i : Instr) : Bool :=
  match i with
  | .powerOnReset => true
  | .flashBootImageRead .. => true
  | .start .. => true
  | .reelData .. => true
  | .reelCheckDone => true
  | .arm .. => true
  | .disarm .. => true
  | .carryAbort .. => true
  | .tune .. => true
  | .tuneDone .. => true
  | .reinstate .. => true
  | .vdrvRemeasure .. => true
  | .claimGrant => true
  | .rampEnd .. => true
  | .glideEnd .. => true
  | .fillRampUp .. => true
  | .fillRampDown .. => true
  | .segShort .. => true
  | .segOpen .. => true
  | .thermalWarning .. => true
  | .thermalFault .. => true
  | .vdrvLow .. => true
  | .vdrvRestored .. => true
  | .kpEdge .. => true
  | .detuneBlock .. => true
  | .trackStall .. => true
  | .tempoVote => true
  | .still .. => true
  | .revolutionBoundary .. => true
  | .periodBoundary => true
  | .dayBoundary => true
  | .longevityRecords => true
  | .tempoDayNext .. => true
  | .aclkRatioMeasure .. => true
  | .timeResync => true
  | .tree .. => true
  | .assign .. => true
  | .setgen .. => true
  | .quiet .. => true
  | .release .. => true
  | .wake .. => true
  | .ping .. => true
  | .readTag .. => true
  | .readMem .. => true
  | .prepare _ _ nw _ data _ => decide (data.length = if nw = 0 then 16 else nw.toNat)
  | .commit .. => true
  | .confirm .. => true
  | .auth _ _ _ message => decide (1 ≤ message.length ∧ message.length ≤ 64)
  | .writeUnresolved .. => true
  | .cancelRefine .. => true
  | .candidate _ _ fc16 rx _ => rx.lasts (64 + runCycles fc16)
  | .syncQualify _ _ rx => rx.even
  | .falseDet .. => true
  | .arrival _ fc16 _ rx => rx.lasts (runCycles fc16)
  | .seamCrossing _ _ rx => rx.even
  | .windowSlide _ rx => rx.even
  | .replyWindowExpiry .. => true
  | .codewordQueued _ rx => rx.even
  | .codewordDecoded .. => true
  | .frameDelivery _ rx => rx.even
  | .laneFail .. => true
  | .laneSpared .. => true
  | .decCoreFail .. => true
  | .walk .. => true
  | .rebuild .. => true
  | .retire .. => true
  | .free .. => true
  | .setplan .. => true
  | .serviceA .. => true
  | .serviceV .. => true
  | .stop .. => true
  | .jobExchangePlace => true
  | .entryJob => true
  | .censusRingSa .. => true
  | .censusLookup .. => true
  | .figCommit .. => true
  | .figRebuildDone => true
  | .stepFire .. => true
  | .stepDispatch => true
  | .programStart .. => true
  | .nop .. => true
  | .add .. => true
  | .sub .. => true
  | .and .. => true
  | .or .. => true
  | .xor .. => true
  | .shl .. => true
  | .shr .. => true
  | .sar .. => true
  | .mul .. => true
  | .addi .. => true
  | .andi .. => true
  | .ori .. => true
  | .lui .. => true
  | .shli .. => true
  | .shri .. => true
  | .ld .. => true
  | .st .. => true
  | .ldc .. => true
  | .rds .. => true
  | .wrs .. => true
  | .beq .. => true
  | .bne .. => true
  | .blt .. => true
  | .bltu .. => true
  | .jmp .. => true
  | .call .. => true
  | .ret .. => true
  | .endProgram .. => true
  | .slot .. => true
  | .slotGrant => true
  | .rel .. => true
  | .slotRelease .. => true
  | .keep .. => true
  | .adopt .. => true
  | .keptSlotRelease .. => true
  | .useSlot .. => true
  | .claim .. => true
  | .field .. => true
  | .glide .. => true
  | .segl .. => true
  | .seam .. => true
  | .spos .. => true
  | .send .. => true
  | .listen .. => true
  | .recv .. => true
  | .push .. => true
  | .pop .. => true
  | .waitc .. => true
  | .waitcReached .. => true
  | .waita .. => true
  | .waitaReached .. => true
  | .waitp .. => true
  | .waitpReached .. => true
  | .cen .. => true
  | .bus .. => true
  | .entry .. => true
  | .undefinedOpcode _ op => !opcodeDefined op.toNat
  | .programTimeout .. => true
  | .lockstepMismatch .. => true
  | .spareTakeover .. => true
  | .hold .. => true
  | .bookAudit .. => true
  | .sampleIntake => true
  | .messageApply .. => true
  | .stallDrop .. => true
  | .rateRefill .. => true
  | .latchRecords .. => true
  | .queuePop .. => true
  | .queuePush .. => true
  | .markerEntry .. => true
  | .queueReset .. => true
  | .poolAudit .. => true
  | .markPassDone => true
  | .selectAssert .. => true
  | .laneWord .. => true
  | .streamFrame .. => true
  | .selectRelease _ _ part _ _ => partOk part
  | .dumarNop _ _ ws _ => decide (ws.length < 2048)
  | .hello _ _ ws _ => decide (ws.length < 2048)
  | .bye _ _ ws _ => decide (ws.length < 2048)
  | .rd _ _ ws _ => decide (ws.length < 2048)
  | .wr _ _ ws _ => decide (ws.length < 2048)
  | .rmw _ _ ws _ => decide (ws.length < 2048)
  | .qread _ _ ws _ => decide (ws.length < 2048)
  | .qwrite _ _ ws _ => decide (ws.length < 2048)
  | .reelStart _ _ ws _ => decide (ws.length < 2048)
  | .dumarReelData _ _ ws _ => decide (ws.length < 2048)
  | .reelArm _ _ ws _ => decide (ws.length < 2048)
  | .answerPush .. => true
  | .h2Address .. => true
  | .h2WriteByte .. => true
  | .h2ReadWord => true
  | .h2Stop .. => true
  | .ackStart => true
  | .inbandPulse .. => true
  | .hostnCmd .. => true
  | .hostnAns .. => true
  | .reelAck .. => true
  | .busTransactionStart .. => true
  | .busTransactionEnd .. => true
  | .addressRetry .. => true
  | .twoWireTimeout b _ => decide (b.val < 2)
  | .pollDue .. => true
  | .edgeSource .. => true
  | .busReset .. => true
  | .enter .. => true
  | .bowAnswer n _ => isDomain n.val
  | .bowDelayExpiry n => isDomain n.val
  | .entrySwitch l => l.all fun n => decide (16 ≤ n.val)
  | .clearLog .. => true
  | .wakePin .. => true
  | .timerWake => true
  | .portWake n => decide (10 ≤ n.val)
  | .switchReady => true
  | .switchAttemptFail n => isDomain n.val
  | .xrefQualified .. => true
  | .pllLock => true
  | .clockBudgetExpiry => true
  | .clockRetry .. => true
  | .xrefLoss .. => true
  | .reentry => true
  | .crystalStart .. => true
  | .crystalTimeout => true
  | .srcSel .. => true
  | .rcTrim => true
  | .bodyBiasUpdate .. => true
  | .retLost => true
  | .supplyFall .. => true
  | .tapPing .. => true
  | .learn .. => true
  | .scrubRead l => l.all fun p => decide (p.1 < 24 ∧ 1 ≤ p.2 ∧ p.2 ≤ 2)
  | .load .. => true
  | .promote .. => true
  | .erase .. => true
  | .wipe .. => true
  | .tamper .. => true
  | .lcArm .. => true
  | .lcGo .. => true
  | .lcProgramDone .. => true
  | .rebase .. => true
  | .windowRead .. => true
  | .windowWrite .. => true
  | .rcRead .. => true
  | .registerWrite .. => true
  | .sysReset .. => true
  | .extest => true
  | .sample .. => true
  | .preload .. => true
  | .idcode => true
  | .clamp => true
  | .highz => true
  | .segloop => true
  | .testacc .. => true
  | .bypass => true
  | .testLogicReset => true
  | .loopRun .. => true
  | .loopDone .. => true
  | .fuseProgram .. => true
  | .fuseRowDone .. => true
  | .fieldCollapse .. => true
  | .tagPowerUp k => decide (k.channels ≤ 64 ∧ k.plans.length ≤ 16)
  | .vioBelow1v5 .. => true
  | .aonScrubber .. => true
  | .lcArmExpiry => true
  | .thermalWarningEnd .. => true

end Sys2Proof
end

