-- ==== Sys2Proof/Safety.lean ====
section
/-!
DEFINITION. What the statements about the block are made of: a command's answer, an access that is performed, what stays as it
was, and the invariants.
-/

-- One declaration after another: the package is compiled as one text under a memory limit.
set_option Elab.async false

namespace Sys2Proof.Machine

/-- Command `c` completes in state `s`: the block after it is `d`, and the queue is as it was. -/
def Answers (c : Instr) (s : State) (d : Dev) : Prop := exec c s = .next { s with dev := d }

/-- The keys of the register store rise. -/
def regsRising (lo : Nat) : List (Nat × Nat) → Bool
  | [] => true
  | (j, _) :: l => lo ≤ j && regsRising (j + 1) l

/-- What stands at key `k` of the register store: none, where the field there holds its reset value. -/
def Dev.look (d : Dev) (k : Nat) : Option Nat := (d.regs.find? fun p => p.1 == k).map (·.2)

/-- Command `c` completes in state `s`: the block after it is `d` with its health records and requests settled. -/
def Settles (c : Instr) (s : State) (d : Dev) : Prop := Answers c s d.settlePool

/-- The register words of the queues and the pool, of the record counters, and of the tenants' requests. -/
def asideWord (a : Nat) : Bool :=
  (0x1800 ≤ a && a < 0x1A00) || (0x1C02 ≤ a && a < 0x1C05) || a == 0x401 || a == 0x501 || a == 0x601 || a == 0x701

/-- Between `d` and `e` nothing has changed but what records and requests change: those register words, the log in MEM22, the
queues, the counters of the records, and the answers that wait. -/
structure Dev.Aside (d e : Dev) : Prop where
  parts : e = { d with regs := e.regs, sram := e.sram, que := e.que, health := e.health, host := e.host }
  regs : ∀ k, asideWord (k / 32) = false → e.look k = d.look k
  rising : regsRising 0 d.regs = true → regsRising 0 e.regs = true
  mem : ∀ b, b < 4 * logBase ∨ 4 * (logBase + 0x2000) ≤ b → memGet b e.sram = memGet b d.sram
  memWf : Memory.wf d.sram = true → Memory.wf e.sram = true
  health : e.health = { d.health with groups := e.health.groups, bookFaults := e.health.bookFaults,
                                      tampers := e.health.tampers, last := e.health.last }
  host : e.host = { d.host with ctx := e.host.ctx }

/-- No record is owed to the pool, and every request stands as its causes ask. -/
def Dev.Quiet (d : Dev) : Prop :=
  d.que.lowDue = false ∧ d.que.exhaustDue = false ∧ ∀ t < 4, d.request t = d.flag HOST_STATUS_REQ t

/-- Every claim of an owner on a segment, with what it holds there, is within the 100 tokens of R66; a segment without an owner holds
none, and every claim names a segment. -/
structure Dev.ClaimsFit (d : Dev) : Prop where
  named : ∀ c ∈ d.fld.claims, c.seg < 24
  queued : ∀ n < 24, ∀ o, d.queuedTokens n o ≤ 100
  held : ∀ n < 24, ∀ o, (d.seg n).owner = some o → d.held n + d.queuedTokens n o ≤ 100
  free : ∀ n < 24, (d.seg n).owner = none → d.held n = 0

/-- One tag is in the field, powered, and no reply is on the air. -/
def Dev.OneTag (d : Dev) (t : Tag) : Prop := d.air.tags = [t] ∧ d.air.replies = [] ∧ t.powered = true

/-- The frame reaches tag `t` whole: on its ring, with a good CRC, to every tag (`bc`) or to its address. -/
def Reaches (f : Down) (t : Tag) (bc : Bool) : Prop := f.ok = true ∧ f.ring = t.kind.ring ∧ f.bc = bc ∧ (bc = true ∨ f.sa.toNat = t.sa)

/-- When a reply to a command that ends at tick `now` starts and ends (R129 to R131). -/
def Reply.Timed (r : Reply) (now : Nat) (tm : ReplyTiming) : Prop :=
  r.stop = r.start + 2 * frameCycles r.gen r.rate r.z64 r.payload.length
    ∧ match tm with
      | .onbeat o => r.hold = 0 ∧ r.start = now + 2 * (1024 + 16 * o)
      | .slot i => r.hold = 0 ∧ r.start = now + 2 * (1024 + 5120 * i)
      | .bounded m => r.hold ≤ m ∧ ∃ i, i ≤ 32 ∧ r.start = now + 2 * (112 + i + r.hold * holdCycles r.gen)

/-- In `s`, where one tag is in the field, command `c` leaves that tag as `t` and sends one reply of type `ty` with `payload`,
timed by `tm`; nothing else changes but the counter of free values and, where `auths` says so, the authentications. -/
def TagReplies (c : Instr) (s : State) (t : Tag) (a : Answer) (tm : ReplyTiming) (auths : List AuthRun) : Prop :=
  ∃ d r, Answers c s d ∧ d = { s.dev with freeCtr := d.freeCtr, air := { s.dev.air with tags := [t], replies := [r], auths := auths } }
    ∧ r.uid = t.uid ∧ r.ring = t.kind.ring.val ∧ r.ty = a.ty ∧ r.payload = a.payload ∧ r.sa = (if a.ty = tyUid then 0 else t.sa)
    ∧ r.gen = a.gen ∧ r.rate = a.rate ∧ r.z64 = a.z64 ∧ r.Timed s.dev.now tm

/-- The same where the tag stays silent. -/
def TagSilent (c : Instr) (s : State) (t : Tag) : Prop := Answers c s { s.dev with air := { s.dev.air with tags := [t], replies := [] } }

/-- A write of register word `a` by tenant `t` is performed (R388): the tenant exists, the word is defined, its domain is On and
has not accepted Bow, and the tenant may write it. -/
def Dev.admits (d : Dev) (t a : Nat) : Prop :=
  d.tenantPresent t = true ∧ d.judge t a true = .pass ∧ d.pwr.accepted.contains (wordDomain a) = false

/-- A write of register word `a` by tenant `t` is a permission error (R387). -/
def Dev.forbids (d : Dev) (t a : Nat) : Prop := d.tenantPresent t = true ∧ d.judge t a true = .perm

/-- Every register field but those at `keys` is as it was. -/
def Dev.regsKept (d e : Dev) (keys : List Nat) : Prop := ∀ k, k ∉ keys → e.look k = d.look k

/-- Nothing but register fields has changed, and of them only those at `keys`. -/
def Dev.onlyRegs (d e : Dev) (keys : List Nat) : Prop := e = { d with regs := e.regs } ∧ d.regsKept e keys

/-- The program of Caller `k` runs, and its next instruction stands in Call memory. -/
def Dev.Runs (d : Dev) (k : Nat) : Prop := (d.caller k).st = .run ∧ (d.caller k).pc < 16383

/-- Caller `k` goes on at word `pc` of Call memory. -/
def Dev.runAt (d : Dev) (k pc : Nat) : Dev := d.putCaller k fun x => { x with st := .run, pc := pc }

/-- Instruction `c` of Caller `k` completes in `s`: it leaves the block as `d`, and the Caller at the next instruction. -/
def Carries (c : Instr) (s : State) (k : Nat) (d : Dev) : Prop := Answers c s (d.runAt k ((s.dev.caller k).pc + 1))

/-- The block with one free value drawn. -/
def Dev.drawn (d : Dev) : Dev := { d with freeCtr := d.freeCtr + 1 }

/-- Context `c` can take a command and execute it at once: it lives, none of its commands waits, a credit is free, its answer buffer
has room, and its session has no CRC words. -/
def Dev.HostReady (d : Dev) (c : Nat) : Prop :=
  d.ctxLives c = true ∧ (d.ctx c).head = none ∧ (d.ctx c).wait = [] ∧ (d.ctx c).out = [] ∧ 0 < (d.ctx c).free
    ∧ (d.ctx c).buf.length < 2048 ∧ (d.ctx c).hasCrc = false

/-- Command `x` of context `c` accepted: a credit taken, and the command in execution. -/
def Dev.admitted (d : Dev) (c : Nat) (x : HostCmd) : Dev :=
  (d.putCtx c fun k => { k with free := k.free - 1, wait := [x] }).bump HOST_CNT_ACCEPTED (ctxTenant c)

/-- A whole command of operation `op`. -/
def hostCmd (op : Nat) (tag : Byte) (ws : List Word) (crc : Word) : HostCmd :=
  { op := op, tag := tag.toNat, ws := ws, crc := crc, cut := false, len := ws.length, credit := true }

/-- Command `i` completes in `s`: the Dumar command `x` of context `c` leaves the block as `r` says, and its answer, of status and
words as `r` says, waits to be pushed. -/
def DumarGives (i : Instr) (s : State) (c : Nat) (x : HostCmd) (r : Done) : Prop :=
  Answers i s (r.dev.putCtx c fun k =>
    { k with wait := [], out := k.out ++ [{ words := dumarAnswer false x.op x.tag r.status r.words, credit := true,
                                            closes := x.op == opBye && r.status == dmOk }] }).settleHost

/-- Canonical form of the register store and of the two byte memories. -/
def Dev.Canonical (d : Dev) : Prop := regsRising 0 d.regs = true ∧ Memory.wf d.sram = true ∧ Memory.wf d.pwr.encore = true

/-- No ill-formed command waits. -/
def State.QueueOk (s : State) : Prop := s.pending.all Instr.wf = true

end Sys2Proof.Machine
end

