-- ==== Sys2Proof/Certificates/Slice0/Obligations.lean ====
section
/-!
DEFINITION. The statements about the block. Each says of the commands that it names what their answer is; where the block after a
command is given by an equation, the equation is also the frame: nothing else has changed. Where records and requests are settled
(Settles), what settling may change besides is said by aside_settlePool in Sys2Proof/Laws/Settle.lean.
-/

-- One declaration after another: the package is compiled as one text under a memory limit.
set_option Elab.async false

open Sys2Proof Sys2Proof.Machine

/-- For every command c and state s, a step of s with c at the front of its queue is exec of c on s with the queue's rest. A step with an empty queue answers the idle state (a choice of the model, notes/assumptions/1.md). -/
def Obligations.StepRunsTheFrontCommand : Prop :=
  ∀ (s : State) (c : Instr) (rest : List Instr),
    step { s with pending := c :: rest } = exec c { s with pending := rest }
      ∧ step { s with pending := [] } = .next (State.idle { s with pending := [] })

/-- For every command and every state, exec answers a next state whose queue is the one that it was given: no command of the block stops it, and none but idling puts a command into the queue. -/
def Obligations.EveryCommandCompletes : Prop := ∀ (c : Instr) (s : State), ∃ d : Dev, Answers c s d

/-- From every state whose queue holds well-formed commands only, a step leaves a queue of well-formed commands: the commands that the block's own sequencers owe in a cycle (a Caller's next instruction decoded from Call memory, boundaries, answers to Bow and the rest) have operands that stand together as the formats ask, whatever Call memory and the registers hold. -/
def Obligations.OnlyWellFormedCommandsWait : Prop := ∀ s s' : State, s.QueueOk → step s = .next s' → s'.QueueOk

/-- After reset nothing waits and the invariants hold; every register field reads the value of its Reset column; the time stamp is 0; the loader is EMPTY and no Reel is active; 600 tokens are free and none is claimed; 65,536 cells are free; every domain is On; no tag, Step, slot or sample is known. -/
def Obligations.ResetLeaves : Prop :=
  State.reset.QueueOk ∧ State.reset.dev.Canonical
    ∧ (∀ r n, r.resetOf n < 2 ^ r.width → State.reset.dev.g r n = r.resetOf n)
    ∧ State.reset.dev.now = 0 ∧ State.reset.dev.reelState = reelEmpty ∧ State.reset.dev.reelOn = false
    ∧ State.reset.dev.g FLD_BUDGET_FREE = 600 ∧ State.reset.dev.claimed = 0 ∧ State.reset.dev.que.free = 65536
    ∧ (∀ n, 1 ≤ n ∧ n ≤ 12 ∨ 16 ≤ n ∧ n < 40 → State.reset.dev.domOn n = true)
    ∧ State.reset.dev.air.tags = [] ∧ State.reset.dev.fig.index = [] ∧ State.reset.dev.busySlots = 0 ∧ State.reset.dev.hub.intake = []

/-- Settles names the block after a command with its records and requests settled. Where the pool owes no record and every tenant's HOSTn_STATUS.REQ stands as its causes and its enable ask, settling changes nothing; and after any settling of requests HOSTn_STATUS.REQ of each of T0 to T3 stands as its request does (in a register store in canonical form). -/
def Obligations.SettlingAQuietBlockChangesNothing : Prop :=
  (∀ d : Dev, d.Quiet → d.settlePool = d)
    ∧ ∀ (d : Dev) (t : Nat), regsRising 0 d.regs = true → t < 4 → d.settleRequests.flag HOST_STATUS_REQ t = d.request t

/-- Whatever tenant t writes through its windows, at whatever base and with whatever overwrites and stalls, every word of the private area of each other tenant reads after the command as it did before: the write is performed in t's own area, or elsewhere, or not at all. -/
def Obligations.WindowsKeepTenantsApart : Prop :=
  ∀ (s s' : State) (t u : Tenant) (a : BitVec 16) (w : Word) (prev : Option Tenant) (stalled x : Nat),
    t ≠ u → 0x4000 ≤ a.toNat → privateOf u x = true → exec (.windowWrite t a w prev stalled) s = .next s' → s'.dev.rw x = s.dev.rw x

/-- With no Dumar command under way on H2, a register write of a tenant other than T0, at any address and of any value but a word of HOSTn_CMD, leaves the field, Tempo, the tags, the lanes and decoders, the census, the hub, the Reel loader, the sensor buses, the Vault, the fuses, the life cycle, the TAP and the clock exactly as they were, changes of the power state nothing but the time of the last access, and changes no SRAM outside the health log. -/
def Obligations.TenantsReachNoControl : Prop :=
  ∀ (s s' : State) (t : Tenant) (a : BitVec 16) (w : Word),
    t ≠ 0 → a.toNat < 0x4000 → ¬ (0x440 + 0x100 * t.val ≤ a.toNat ∧ a.toNat < 0x480 + 0x100 * t.val) → (∀ c, (s.dev.ctx c).cmd = []) →
      exec (.registerWrite t a w) s = .next s' →
        s'.dev = { s.dev with regs := s'.dev.regs, sram := s'.dev.sram, freeCtr := s'.dev.freeCtr, fig := s'.dev.fig, que := s'.dev.que,
                              host := s'.dev.host, health := s'.dev.health, pwr := { s.dev.pwr with busyAt := s'.dev.pwr.busyAt } }
          ∧ ∀ x, x < logBase ∨ logBase + 0x2000 ≤ x → s'.dev.rw x = s.dev.rw x

/-- R387 for registers and for windows. A read that the index or the table of R381 refuses returns 0, and a write that it refuses is ignored; each sets HOSTn_ERR.PERM and captures the address, KIND 1 and WRITE in HOSTn_ERR_ADDR, and nothing else changes but the time of the last access (and what settling of requests changes). A write by a tenant that may write the word, as one of an RO field, is no permission error. -/
def Obligations.ForbiddenAccessIsAPermissionError : Prop :=
  ∀ (s : State) (t : Tenant) (a : BitVec 16) (w : Word), (∀ c, (s.dev.ctx c).cmd = []) → s.dev.tenantPresent t = true →
    let d := s.dev.touched
    let caught := fun (write : Nat) =>
      (((d.p HOST_ERR_PERM t 1).p HOST_ERR_ADDR_ADDR t a.toNat).p HOST_ERR_ADDR_KIND t 1).p HOST_ERR_ADDR_WRITE t write
    (a.toNat < 0x4000 → s.dev.judge t a.toNat false = .perm → Settles (.rcRead t a) s ((caught 0).putRead t 0))
      ∧ (a.toNat < 0x4000 → s.dev.judge t a.toNat true = .perm → Settles (.registerWrite t a w) s (caught 1))
      ∧ (0x4000 ≤ a.toNat → s.dev.judgeWindow t (s.dev.windowWord t a.toNat) false = .perm →
          Settles (.windowRead t a 0) s ((caught 0).putRead t 0))
      ∧ (0x4000 ≤ a.toNat → s.dev.judgeWindow t (s.dev.windowWord t a.toNat) true = .perm →
          Settles (.windowWrite t a w none 0) s (caught 1))
      ∧ (s.dev.reelOn = true → s.dev.mayWrite t a.toNat = true → s.dev.judge t a.toNat true ≠ .perm)

/-- R376: the word space has 786,432 words; word 0x8000 * k + i lies in bank MEMk, whose domain decides whether a permitted access is dark; a window access to word addresses 0xC_0000 and above reads 0, discards its write and sets PERM. -/
def Obligations.AbsentSramReadsZero : Prop :=
  sramWords = 0xC0000
    ∧ (∀ (d : Dev) (t k i : Nat) (write : Bool), d.reelOn = true → k < 24 → i < 0x8000 → d.bankOn k = false →
        (if write then d.windowWrites t (0x8000 * k + i) else d.windowReads t (0x8000 * k + i)) = true →
        d.judgeWindow t (0x8000 * k + i) write = .dark (16 + k))
    ∧ ∀ (s : State) (t : Tenant) (a : BitVec 16) (w : Word), s.dev.tenantPresent t = true → 0x4000 ≤ a.toNat →
        0xC0000 ≤ s.dev.windowWord t a.toNat →
        Settles (.windowRead t a 0) s ((s.dev.touched.permErr t a.toNat false).putRead t 0)
          ∧ Settles (.windowWrite t a w none 0) s (s.dev.touched.permErr t a.toNat true)

/-- A permitted window read of a word without an ECC error, of latched statistics outside the cycle of their switch, returns the word at the window's base plus the offset and changes nothing but the tenant's read-back, the time of its access and the stall count. A permitted window write stores the whole word there and clears the word's ECC record: in a tenant's private area, the Commons, Call memory and word 7 of a census entry nothing else changes; in the Figure Table the Step becomes dirty; of word 2 of a watched entry the upper half alone is stored. -/
def Obligations.WindowAccessesReachTheirWord : Prop :=
  ∀ (s : State) (t : Tenant) (a : BitVec 16) (w : Word) (k : Nat), s.dev.tenantPresent t = true → 0x4000 ≤ a.toNat →
    let x := s.dev.windowWord t a.toNat
    let d := (s.dev.stalledBy k).touched
    (s.dev.judgeWindow t x false = .pass → s.dev.eccOf (x / 0x8000) (x % 0x8000) = 0 →
        x < statBase ∨ statBase + 0x8000 ≤ x ∨ s.dev.hub.nowCycle ≠ s.dev.cycle →
        Settles (.windowRead t a k) s (d.putRead t (s.dev.rword x)))
      ∧ (s.dev.judgeWindow t x true = .pass → 0x10000 ≤ x → (x < 0x30000 ∨ 0x40000 ≤ x ∨ x % 4 ≠ 2) →
          Settles (.windowWrite t a w none k) s ((d.eccClear (x / 0x8000) (x % 0x8000)).ww x w.toNat))
      ∧ (s.dev.judgeWindow t x true = .pass → x < 0x10000 →
          Settles (.windowWrite t a w none k) s (((d.eccClear (x / 0x8000) (x % 0x8000)).ww x w.toNat).markDirty (x / 4)))
      ∧ (s.dev.judgeWindow t x true = .pass → 0x30000 ≤ x → x < 0x40000 → x % 4 = 2 →
          Settles (.windowWrite t a w none k) s ((d.eccClear (x / 0x8000) (x % 0x8000)).wf x 16 16 (w.toNat / 65536)))

/-- A register word that the tenant may reach and whose domain is not On reads 0xD0FF_00dd with the domain's number, and a write of it is discarded; each sets HOSTn_ERR.DARK and captures the address, KIND 0 and WRITE. The same holds of a window word whose bank is Off or in Retain. -/
def Obligations.DarkAccessReadsItsDomain : Prop :=
  ∀ (s : State) (t : Tenant) (a : BitVec 16) (w : Word) (n : Nat), (∀ c, (s.dev.ctx c).cmd = []) → s.dev.tenantPresent t = true →
    let d := s.dev.touched
    let caught := fun (write : Nat) =>
      (((d.p HOST_ERR_DARK t 1).p HOST_ERR_ADDR_ADDR t a.toNat).p HOST_ERR_ADDR_KIND t 0).p HOST_ERR_ADDR_WRITE t write
    let dark := BitVec.ofNat 32 (0xD0FF0000 + n % 256)
    (a.toNat < 0x4000 → s.dev.judge t a.toNat false = .dark n → Settles (.rcRead t a) s ((caught 0).putRead t dark))
      ∧ (a.toNat < 0x4000 → s.dev.judge t a.toNat true = .dark n → Settles (.registerWrite t a w) s (caught 1))
      ∧ (0x4000 ≤ a.toNat → s.dev.judgeWindow t (s.dev.windowWord t a.toNat) false = .dark n →
          Settles (.windowRead t a 0) s ((caught 0).putRead t dark))
      ∧ (0x4000 ≤ a.toNat → s.dev.judgeWindow t (s.dev.windowWord t a.toNat) true = .dark n →
          Settles (.windowWrite t a w none 0) s (caught 1))

/-- A permitted read of REEL_REFUSALS, an RC count, returns the count and puts it at 0. A permitted write of a word without an action of its own (here the Tempo words but DAY_NEXT, the lanes' and the decoders' words) takes each field by its type: an RW field stores its bits (REEL_CARRY 256 for fewer), a W1C field loses the bits written 1, and every other field stays. A write of SYS_RESET without its key or without GO has no effect, and with both it is a power-on reset. -/
def Obligations.RegisterAccessesFollowTheirTypes : Prop :=
  (∀ (s : State) (t : Tenant), s.dev.tenantPresent t = true → s.dev.judge t 0x80A false = .pass →
      assocGet (latchKey t 0x80A) s.dev.host.latches = none →
      Settles (.rcRead t 0x80A) s ((s.dev.touched.p REEL_REFUSALS_COUNT 0 0).putRead t (BitVec.ofNat 32 (s.dev.g REEL_REFUSALS_COUNT))))
    ∧ (∀ (s : State) (t : Tenant) (a : BitVec 16) (w : Word), (∀ c, (s.dev.ctx c).cmd = []) → s.dev.admits t a.toNat →
        (0x900 ≤ a.toNat ∧ a.toNat < 0x906 ∨ 0x908 ≤ a.toNat ∧ a.toNat < 0xA00 ∨ 0xD00 ≤ a.toNat ∧ a.toNat < 0x1100) →
        Settles (.registerWrite t a w) s (s.dev.touched.writeFields a.toNat w.toNat))
    ∧ (∀ (d : Dev) (r : Row) (n w : Nat),
        (r.ty = .rw → r ≠ REEL_CARRY_LIMIT → writeField w d (r, n) = d.p r n (bitsOf w r.lo r.width))
          ∧ (r = REEL_CARRY_LIMIT → writeField w d (r, n) = d.p r n (max 256 (bitsOf w r.lo r.width)))
          ∧ (r.ty = .w1c → writeField w d (r, n) = d.p r n (d.g r n - (d.g r n &&& bitsOf w r.lo r.width)))
          ∧ (r.ty ≠ .rw → r.ty ≠ .w1c → writeField w d (r, n) = d))
    ∧ ∀ (s : State) (t : Tenant) (w : Word), s.dev.admits t 2 →
        (w.getLsbD 0 = true → w.toNat / 65536 = 0x5253 → Answers (.sysReset t w) s s.dev.touched.powerOn)
          ∧ (w.getLsbD 0 = false ∨ w.toNat / 65536 ≠ 0x5253 → Answers (.sysReset t w) s s.dev.touched)

/-- With no boot from flash under way, REEL_CTRL.START outside ARMED forces the staging banks On, empties the staged image and puts the loader in LOADING; in ARMED it sets SEQ_ERR alone. In LOADING each word appends its four bytes, [7:0] first: past the header the count alone follows, and the word that completes TOTAL_LEN starts the check; outside LOADING it sets SEQ_ERR alone. ARM in STAGED of a ring of the active Reel, or of any, arms the swap; elsewhere it sets SEQ_ERR. DISARM returns an armed loader to STAGED. -/
def Obligations.ReelLoaderObeysItsCommands : Prop :=
  ∀ (s : State) (t : Tenant), s.dev.reel.boot = none →
    let d := s.dev.touched
    let st := s.dev.reelState
    let quiet := d.inReel fun r => { r with irq := false }
    (s.dev.admits t 0x800 →
      (st ≠ reelArmed → Settles (.start t) s
          ((((quiet.inReel fun r => { r with bytes := [], total := none, staged := none }).p REEL_COUNT_BYTES 0 0).forceStaging).p
            REEL_STATUS_STATE 0 reelLoading))
        ∧ (st = reelArmed → Settles (.start t) s (quiet.p REEL_STATUS_SEQ_ERR 0 1))
        ∧ (∀ (x : Ring) (any : Bool), st = reelStaged → any = true ∨ (s.dev.ringDef x).isSome = true →
            Settles (.arm t x any) s
              ((d.inReel fun r => { r with armed := some (if any then .any else .ring x) }).p REEL_STATUS_STATE 0 reelArmed))
        ∧ (∀ (x : Ring) (any : Bool), st ≠ reelStaged → Settles (.arm t x any) s (d.p REEL_STATUS_SEQ_ERR 0 1))
        ∧ (st = reelArmed → Answers (.disarm t) s ((d.inReel fun r => { r with armed := none }).p REEL_STATUS_STATE 0 reelStaged))
        ∧ (st ≠ reelArmed → Answers (.disarm t) s d))
      ∧ (s.dev.admits t 0x810 → ∀ (w : Word) (n : Nat),
          (st ≠ reelLoading → Settles (.reelData t w) s (d.p REEL_STATUS_SEQ_ERR 0 1))
            ∧ (st = reelLoading → s.dev.reel.total = some n → n ≠ s.dev.reel.bytes.length + 4 →
                Settles (.reelData t w) s ((d.inReel fun r => { r with bytes := r.bytes ++ leBytes 4 w.toNat }).p REEL_COUNT_BYTES 0
                  (s.dev.reel.bytes.length + 4)))
            ∧ (st = reelLoading → s.dev.reel.total = some (s.dev.reel.bytes.length + 4) →
                Settles (.reelData t w) s (((d.inReel fun r => { r with bytes := r.bytes ++ leBytes 4 w.toNat }).p REEL_COUNT_BYTES 0
                  (s.dev.reel.bytes.length + 4)).p REEL_STATUS_STATE 0 reelChecking)))

/-- At the end of CHECKING an image that fails is REFUSED with its code, section and offset, counted, and raises the REEL cause; one that passes waits STAGED while a Reel is active, and becomes active at once as the first. A primary flash image that fails leaves the alternate to be read, an alternate that fails ends the boot REFUSED, and one that passes becomes active. A carried operation's slot is left alone before the carry limit, and is free, with CARRY_ABORT set, once the limit has aborted it. -/
def Obligations.ReelChecksDecide : Prop :=
  ∀ s : State,
    (∀ e, s.dev.reelState = reelChecking → checkReel s.dev.reelFuses s.dev.reel.active s.dev.reel.bytes = .error e →
        Settles .reelCheckDone s (s.dev.refuseReel e))
      ∧ (∀ r, s.dev.reelState = reelChecking → s.dev.reelOn = true → checkReel s.dev.reelFuses s.dev.reel.active s.dev.reel.bytes = .ok r →
          Settles .reelCheckDone s
            ((((s.dev.reelVerdict ⟨0, 0, 0⟩).p REEL_STAGED_SERIAL_SERIAL 0 r.serial).inReel fun x => { x with irq := true, staged := some r }).p
              REEL_STATUS_STATE 0 reelStaged))
      ∧ (∀ r, s.dev.reelState = reelChecking → s.dev.reel.active = none → checkReel s.dev.reelFuses none s.dev.reel.bytes = .ok r →
          Settles .reelCheckDone s
            (((((s.dev.reelVerdict ⟨0, 0, 0⟩).p REEL_STAGED_SERIAL_SERIAL 0 r.serial).inReel fun x => { x with irq := true }).p
              REEL_STATUS_STATE 0 reelEmpty).applyReel none r false))
      ∧ (∀ image n e, s.dev.reel.boot = some false → checkFlash s.dev.reelFuses image = (n, .error e) →
          Settles (.flashBootImageRead image) s
            ((((s.dev.p REEL_COUNT_BYTES 0 n).noteRefusal e).p REEL_BOOT_ALT_TRIED 0 1).inReel fun x => { x with boot := some true }))
      ∧ (∀ image n e, s.dev.reel.boot = some true → checkFlash s.dev.reelFuses image = (n, .error e) →
          Settles (.flashBootImageRead image) s (((s.dev.p REEL_COUNT_BYTES 0 n).inReel fun x => { x with boot := none }).refuseReel e))
      ∧ (∀ image n r alt, s.dev.reel.boot = some alt → checkFlash s.dev.reelFuses image = (n, .ok r) →
          Settles (.flashBootImageRead image) s
            (((((((s.dev.p REEL_COUNT_BYTES 0 n).reelVerdict ⟨0, 0, 0⟩).p REEL_STAGED_SERIAL_SERIAL 0 r.serial).inReel fun x =>
              { x with boot := none }).pf REEL_BOOT_ALT_USED 0 alt).p REEL_STATUS_STATE 0 reelEmpty).applyReel none r true))
      ∧ (∀ (e : ReelErr) (d : Dev), regsRising 0 d.regs = true → e.code < 256 → e.sec < 256 → e.off < 2 ^ 19 →
          (d.refuseReel e).reelState = reelRefused ∧ (d.refuseReel e).g REEL_STATUS_ERR = e.code
            ∧ (d.refuseReel e).g REEL_STATUS_ERR_SEC = e.sec ∧ (d.refuseReel e).g REEL_ERR_OFFSET_OFFSET = e.off
            ∧ (d.refuseReel e).g REEL_REFUSALS_COUNT = min (d.g REEL_REFUSALS_COUNT + 1) 0xFFFF
            ∧ (d.refuseReel e).reel.irq = true ∧ (d.refuseReel e).reel.staged = none)
      ∧ (∀ i : SlotId, s.dev.now < (s.dev.carryEnd.getD (s.dev.now + 1)) → Settles (.carryAbort i) s s.dev)
      ∧ ∀ (i : SlotId) (x : Slot) (t : Nat), s.dev.carryEnd = some t → t ≤ s.dev.now → s.dev.slot i = some x → x.carried = true →
          ∃ d, Settles (.carryAbort i) s d ∧ d.slot i = none ∧ d.flag REEL_STATUS_CARRY_ABORT = true

/-- The token book. From every state whose register store is canonical, in which FREE + CLAIMED = 600 and every claim is within the 100 tokens of R66 (ClaimsFit), a tuning claim, a grant of the head claim, the end of a ramp outside a census job, the end of a Glide, and a fall of VDRV that brakes every driver leave FREE + CLAIMED = 600 and every claim within its 100 tokens: tokens move between FREE and the segments' records, and none is lost or made. Whatever claim is made, of whichever owner, is taken so that every claim stays within them. -/
def Obligations.TokenBookBalances : Prop :=
  (∀ (s s' : State) (c : Instr), regsRising 0 s.dev.regs = true → s.dev.g FLD_BUDGET_FREE + s.dev.claimed = 600 → s.dev.ClaimsFit →
    (c = .claimGrant ∨ (∃ n : Seg, c = .rampEnd n ∧ s.dev.cen.job = none) ∨ (∃ n : Seg, c = .glideEnd n) ∨ (∃ mv, c = .vdrvLow mv)
      ∨ ∃ (t : Tenant) (n : Seg), c = .tune t n) →
    exec c s = .next s' → s'.dev.g FLD_BUDGET_FREE + s'.dev.claimed = 600 ∧ s'.dev.ClaimsFit)
    ∧ ∀ (d : Dev) (c : Claim) (ex : Bool), d.ClaimsFit → c.seg < 24 → (d.claimTokens c ex).2.ClaimsFit

/-- R64. At the end of a Glide from o to i, whichever of the two the command names, the outgoing segment applies 0, is IDLE (it was in service) and holds no tokens; FREE has risen by exactly what it held; the incoming segment is in DRIVE at the level to which it ramped, in so far as its own held tokens cover that (R56). -/
def Obligations.GlideEndReturnsTokens : Prop :=
  ∀ (s : State) (o i n : Seg), regsRising 0 s.dev.regs = true → o ≠ i → (n = o ∨ n = i) →
    (s.dev.seg o).partner = some i.val → (s.dev.seg i).partner = some o.val →
    s.dev.segState o = segGlideOut → s.dev.segState i = segGlideIn → s.dev.segIsRetired o = false →
    s.dev.g FLD_BUDGET_FREE + s.dev.held o < 1024 →
    ∃ d, Answers (.glideEnd n) s d
      ∧ (d.seg o).level = 0 ∧ (d.seg o).ramp = none ∧ d.segState o = segIdle ∧ d.held o = 0 ∧ (d.seg o).owner = none
      ∧ d.g FLD_BUDGET_FREE = s.dev.g FLD_BUDGET_FREE + s.dev.held o
      ∧ d.segState i = segDrive ∧ d.held i = s.dev.held i
      ∧ (d.seg i).level = s.dev.covered i (((s.dev.seg i).ramp.map (·.a1)).getD (s.dev.seg i).want)

/-- A grantable head claim of a slot leaves the queue; its tokens move from FREE to the segment's record, which the slot then owns, and PEAK follows; a start that waits for the grant begins once no further claim of the slot on the segment is queued, or the tokens cover it; with none waiting nothing else changes. A claim that FREE does not cover changes nothing. A rise that ends leaves the segment in DRIVE, or in TUNE in a tuning run, at its level in so far as the held tokens cover it, and a fall that ends returns the segment's tokens and leaves it at 0 (outside a census job and a loopback run). -/
def Obligations.ClaimsAreGrantedWhole : Prop :=
  ∀ s : State,
    (∀ (c : Claim) (i : Nat), s.dev.headClaim = some c → c.owner = .slot i → c.tokens ≤ s.dev.g FLD_BUDGET_FREE → s.dev.vdrvLow = false →
        ((s.dev.slot i).map (·.carried)).getD false = false →
        let d := s.dev.inFld fun f => { f with claims := f.claims.erase c }
        let d := (d.p FLD_BUDGET_FREE 0 (s.dev.g FLD_BUDGET_FREE - c.tokens)).p SEG_STATUS_HELD c.seg (s.dev.held c.seg + c.tokens)
        let d := (d.putSeg c.seg fun x => { x with owner := some (.slot i) }).p SEG_STATUS_OWNER c.seg i
        let d := d.high FLD_PEAK_PEAK 0 d.claimed
        ((s.dev.seg c.seg).heldStart = none → Answers .claimGrant s d)
          ∧ ∀ h, c.seg < 24 → (s.dev.seg c.seg).heldStart = some h →
              (d.hasQueued c.seg (.slot i) = false ∨ d.tokens c.seg (d.heldCode c.seg h) ≤ d.held c.seg → Answers .claimGrant s (d.lateStart c.seg))
                ∧ (d.hasQueued c.seg (.slot i) = true → d.held c.seg < d.tokens c.seg (d.heldCode c.seg h) → Answers .claimGrant s d))
      ∧ (s.dev.grantable = false → Answers .claimGrant s s.dev)
      ∧ ∀ (n : Seg) (r : Ramp), s.dev.cen.job = none → (s.dev.seg n).ramp = some r →
          let there := (s.dev.applyCode n r.a1).putSeg n fun x => { x with ramp := none, driveCycles := 0, steady := s.dev.now }
          (s.dev.segState n = segRampUp ∨ s.dev.segState n = segLevel →
            Answers (.rampEnd n) s (there.p SEG_STATUS_STATE n segDrive) ∧ (there.seg n).level = s.dev.covered n r.a1)
          ∧ (s.dev.segState n = segTune → Answers (.rampEnd n) s there)
          ∧ (s.dev.segState n = segRampDown → s.dev.tap.loop = none → Answers (.rampEnd n) s (s.dev.segToZero n))

/-- In DRIVE at the commanded level A, with the tag's point in a borrowed part or about to reach it (extension ext), the rise goes over N cycles to the fill amplitude min(AMAX, round(A x GAIN / 16)), GAIN1 for a half segment and GAIN2 for a whole one, or waits for a top-up that is queued and whose tokens it needs; on the way out of the borrowed part the fall goes back to A over N cycles. With no borrowed part at the point the rise changes nothing, and on a segment that applies no fill amplitude the fall changes nothing. -/
def Obligations.FillInRampsFollowTheTag : Prop :=
  ∀ (s : State) (n : Seg),
    let x := s.dev.seg n
    let a := s.dev.g SEG_AMP_TARGET n
    let ext := s.dev.fillExt n
    let want := (s.dev.fillLevel n a ext).1
    let short := (s.dev.fillLevel n a ext).2
    let tops := (x.owner.map (s.dev.hasQueued n)).getD false
    (s.dev.segState n = segDrive → x.ext = 0 → 0 < ext → s.dev.tokens n want ≤ s.dev.held n ∨ tops = false →
        Answers (.fillRampUp n) s ((short.putSeg n fun x => { x with ext := ext, heldStart := none }).startRamp n want (s.dev.rampN n) segLevel))
      ∧ (s.dev.segState n = segDrive → x.ext = 0 → 0 < ext → s.dev.held n < s.dev.tokens n want → tops = true →
          Answers (.fillRampUp n) s (s.dev.putSeg n fun x =>
            { x with heldStart := some { slot := s.dev.g SEG_STATUS_OWNER n, level := a, kind := .fill ext, due := s.dev.now / 2 + 1 } }))
      ∧ (ext = 0 → Answers (.fillRampUp n) s s.dev)
      ∧ (s.dev.segState n = segDrive ∨ s.dev.segState n = segLevel → 0 < x.ext →
          Answers (.fillRampDown n) s ((s.dev.putSeg n fun x => { x with ext := 0 }).startRamp n a (s.dev.rampN n) segLevel))
      ∧ (x.ext = 0 → Answers (.fillRampDown n) s s.dev)
      ∧ ∀ e, 0 < e → (s.dev.fillLevel n a e).1
          = min (s.dev.amax n) ((2 * a * max 16 (if e = 1 then s.dev.g SEG_FILL_GAIN1 n else s.dev.g SEG_FILL_GAIN2 n) + 16) / 32)

/-- A fill ramp that rises leaves its segment in LEVEL, on a ramp of N carrier cycles from the level applied to the fill amplitude; one that falls, to the commanded level. FIELD 0 of an own segment outside a Glide leaves it in RAMP_DOWN on a ramp to 0, its tokens still held; one that applies 0 already is without owner and tokens at once, and FREE has them. FIELD of a level leaves an own segment with no claim queued on a ramp to that level, or to the fill amplitude for it. GLIDE between cover neighbours, the second idle and granted, leaves the first in GLIDE_OUT on a ramp to 0 and the second in GLIDE_IN on a ramp to the level of rd or its fill amplitude, both over the N of the first and in its phase. The program goes on, and no tokens move otherwise. -/
def Obligations.RampsGoWhereTheyAreSent : Prop :=
  ∀ (s : State) (n : Seg),
    let goes := fun (d : Dev) (m a0 a1 len : Nat) => (d.seg m).ramp = some { begun := false, a0 := a0, a1 := a1, k := 0, n := len }
    let x := s.dev.seg n
    let len := s.dev.rampN n
    let ext := s.dev.fillExt n
    let fill := (s.dev.fillLevel n (s.dev.g SEG_AMP_TARGET n) ext).1
    (s.dev.segState n = segDrive → x.ext = 0 → 0 < ext → s.dev.tokens n fill ≤ s.dev.held n ∨ (∀ o, x.owner = some o → s.dev.hasQueued n o = false) →
        ∃ e, Answers (.fillRampUp n) s e ∧ e.segState n = segLevel ∧ goes e n x.level fill len ∧ (e.seg n).ext = ext ∧ e.held n = s.dev.held n)
      ∧ (s.dev.segState n = segDrive ∨ s.dev.segState n = segLevel → 0 < x.ext →
        ∃ e, Answers (.fillRampDown n) s e ∧ e.segState n = segLevel ∧ goes e n x.level (s.dev.g SEG_AMP_TARGET n) len ∧ (e.seg n).ext = 0
          ∧ e.held n = s.dev.held n)
      ∧ ∀ (k : CallerId) (rd ra rb : GReg) (i : Nat), s.dev.Runs k → (s.dev.caller k).cur = some i → (s.dev.reg k ra).toNat = n.val →
          let lv := (s.dev.reg k rb).toNat
          let went := fun (e : Dev) => (e.caller k).st = .run ∧ (e.caller k).pc = (s.dev.caller k).pc + 1
          let tagged := s.dev.putSeg n fun x => { x with tag := s.dev.progTag k }
          let want := (tagged.fillLevel n lv (tagged.extNow n (s.dev.progTag k))).1
          (x.owner = some (.slot i) → x.partner = none →
            (lv = 0 → 0 < x.level →
                ∃ e, Answers (.field k ra rb) s e ∧ went e ∧ e.segState n = segRampDown ∧ goes e n x.level 0 len ∧ e.held n = s.dev.held n)
            ∧ (lv = 0 → x.level = 0 → regsRising 0 s.dev.regs = true → s.dev.g FLD_BUDGET_FREE + s.dev.held n < 1024 →
                ∃ e, Answers (.field k ra rb) s e ∧ went e ∧ (e.seg n).owner = none ∧ (e.seg n).ramp = none ∧ e.held n = 0
                  ∧ e.g FLD_BUDGET_FREE = s.dev.g FLD_BUDGET_FREE + s.dev.held n)
            ∧ (lv ≠ 0 → s.dev.hasQueued n (.slot i) = false →
                ∃ e, Answers (.field k ra rb) s e ∧ went e ∧ (e.segState n = segRampUp ∨ e.segState n = segLevel) ∧ goes e n x.level want len
                  ∧ e.held n = s.dev.held n))
          ∧ (∀ m : Seg, lv = m.val → s.dev.segState n = segDrive → s.dev.segState m = segIdle → s.dev.coverPair n m = true →
                (s.dev.seg m).owner = some (.slot i) →
              let top := (s.dev.fillLevel m (s.dev.reg k rd).toNat (s.dev.glideExt n m)).1
              ∃ e, Answers (.glide k rd ra rb) s e ∧ went e ∧ e.segState n = segGlideOut ∧ e.segState m = segGlideIn
                ∧ goes e n x.level 0 len ∧ goes e m (s.dev.seg m).level top len
                ∧ (e.seg n).partner = some m.val ∧ (e.seg m).partner = some n.val
                ∧ (e.seg n).phase = some (s.dev.effPhase n) ∧ (e.seg m).phase = some (s.dev.effPhase n)
                ∧ e.held n = s.dev.held n ∧ e.held m = s.dev.held m)

/-- A permitted TUNE of an idle segment in service queues a claim of the tokens that TUNE_AMP needs (at FSP 4,095 while it has no calibration) and clears DONE and FAIL; of a segment that is not idle it sets FAIL. A run that has not driven its 256 carrier cycles does not end but by a trip, which brakes and retires the segment as a short and sets FAIL. A run that ends falls over N: one that measures under 5 mA sets FAIL, one that succeeds stores IMAG, IPH, RLOAD, VDRV_CAL and FSP as R52 computes them and sets DONE. REINSTATE is ignored at a temperature not below WARN - 10, while VDRV is low and while TEMP is at FAULT; else, on a ring whose angle is valid, the segment waits for the ring's boundary, and on one whose angle is not, or on none, it returns at once. -/
def Obligations.TuningMeasuresTheCoil : Prop :=
  ∀ (s : State) (t : Tenant) (n : Seg),
    let d := s.dev.touched
    let amp := s.dev.g SEG_TUNE_TUNE_AMP n
    let k := tokensAt (if s.dev.g SEG_CAL_FSP n = 0 ∨ s.dev.g SEG_LOAD_VDRV_CAL n = 0 then 4095 else s.dev.fspEff n) amp
    let room := (if s.dev.hasGranted n .tune then s.dev.held n else 0) + k
    let hot := (s.dev.g SEG_TEMP_WARN n : Int) - 10 ≤ s.dev.gs SEG_TEMP_TEMP n
    (s.dev.admits t (0xA00 + 32 * n.val) →
      (s.dev.segState n ≠ segIdle → Answers (.tune t n) s (d.p SEG_TUNE_FAIL n 1))
        ∧ (s.dev.segState n = segIdle → s.dev.hasQueued n .tune = false → s.dev.segIsRetired n = false → s.dev.domTakes (fldDom n) = true →
            s.dev.vdrvLow = false → room ≤ (if s.dev.tempWarn n then 50 else 100) →
            Answers (.tune t n) s
              (((d.inFld fun f =>
                { f with claims := f.claims ++ [{ seg := n, owner := .tune, tokens := k, prio := 0, cycle := s.dev.cycle, caller := 8 }] }).p
                SEG_TUNE_FAIL n 0).p SEG_TUNE_DONE n 0))
        ∧ (hot ∨ s.dev.vdrvLow = true ∨ s.dev.tempFault n = true → Settles (.reinstate t n) s d)
        ∧ (¬ hot → s.dev.vdrvLow = false → s.dev.tempFault n = false →
            (∀ x, s.dev.ringOfSeg n = some x → s.dev.flag RING_STATUS_VALID x = true →
              Settles (.reinstate t n) s (d.putSeg n fun y => { y with reinstate := true }))
            ∧ (s.dev.ringOfSeg n = none → Settles (.reinstate t n) s (d.returnSeg n))
            ∧ ∀ x, s.dev.ringOfSeg n = some x → s.dev.flag RING_STATUS_VALID x = false → Settles (.reinstate t n) s (d.returnSeg n)))
      ∧ ∀ (imag : Nat) (iph : Int), s.dev.segState n = segTune →
          Settles (.tuneDone n imag iph true) s (s.dev.shortFault n).refreshRetired
            ∧ (s.dev.tuneOver n = false → Settles (.tuneDone n imag iph false) s s.dev.refreshRetired)
            ∧ (s.dev.tuneOver n = true →
                let fell := ((s.dev.rampDown n).p SEG_MEAS_IMAG n imag).ps SEG_MEAS_IPH n iph
                let ro := Config.rout n (s.dev.gs SEG_TEMP_TEMP n)
                let r := loadMicro ro (s.dev.seg n).level (s.dev.g FLD_VDRV_VDRV) imag iph
                (imag < 5 → Settles (.tuneDone n imag iph false) s (fell.p SEG_TUNE_FAIL n 1).refreshRetired)
                  ∧ (5 ≤ imag → s.dev.fuses.field = 0 → s.dev.health.rebase.contains n.val = false →
                      Settles (.tuneDone n imag iph false) s
                        (((((fell.p SEG_LOAD_RLOAD n (loadField r)).p SEG_LOAD_VDRV_CAL n (s.dev.g FLD_VDRV_VDRV)).p SEG_CAL_FSP n
                          (fspOf ro (s.dev.g FLD_VDRV_VDRV) r)).p SEG_TUNE_DONE n 1).p SEG_TUNE_FAIL n 0).refreshRetired))

/-- A short brakes the segment at once: it applies 0, holds no tokens, is RETIRED and shows SHORT; the exchange that it broke runs again. An open and a thermal fault at FAULT retire the segment with their flags and let it fall over N; a reading below FAULT is only stored. The two thermal warnings store TEMP, and WARN shows whether it is at the limit. A fall of VDRV sets LOW and its event, and no driver applies a level or holds tokens any more; its return clears LOW and opens the brakes. A measurement of VDRV is stored alone: the levels follow at the next carrier cycle. -/
def Obligations.DriverFaultsAndSupply : Prop :=
  ∀ (s : State) (n : Seg) (temp : Int) (mv : Nat), regsRising 0 s.dev.regs = true →
    let d := s.dev.repeatSeg n
    (∃ e, Settles (.segShort n) s e ∧ (e.seg n).level = 0 ∧ (e.seg n).ramp = none ∧ e.held n = 0 ∧ e.segIsRetired n = true
        ∧ e.flag SEG_FAULT_SHORT n = true ∧ e.segState n = segRetired
        ∧ (∀ i x k, (s.dev.seg n).owner = some (.slot i) → s.dev.slot i = some x → x.step = some k → k ∈ e.fig.again))
      ∧ (∃ e, Settles (.segOpen n) s e ∧ e = ((d.p SEG_FAULT_OPEN n 1).slowFault n 1).refreshRetired
          ∧ e.segIsRetired n = true ∧ e.flag SEG_FAULT_OPEN n = true
          ∧ (0 < (s.dev.seg n).level → e.segState n = segRampDown ∧ (e.seg n).level = (s.dev.seg n).level))
      ∧ (let hot := s.dev.p SEG_TEMP_TEMP n (fieldOf SEG_TEMP_TEMP.width temp)
         (hot.tempFault n = true → ∃ e, Settles (.thermalFault n temp) s e ∧ e.segIsRetired n = true ∧ e.flag SEG_FAULT_THERM n = true)
          ∧ (hot.tempFault n = false → Answers (.thermalFault n temp) s hot)
          ∧ Answers (.thermalWarning n temp) s hot ∧ Answers (.thermalWarningEnd n temp) s hot
          ∧ (-256 ≤ temp → temp < 256 → (hot.fieldValue SEG_STATUS_WARN n).1 = if (s.dev.g SEG_TEMP_WARN n : Int) ≤ temp then 1 else 0))
      ∧ (∃ e, Answers (.vdrvLow mv) s e ∧ e.flag FLD_VDRV_LOW = true ∧ e.flag FLD_EVENTS_VDRV_LOW = true ∧ e.g FLD_VDRV_VDRV = mv % 2 ^ FLD_VDRV_VDRV.width
          ∧ ∀ m < 24, (e.seg m).level = 0 ∧ (e.seg m).ramp = none ∧ e.held m = 0 ∧ (s.dev.segIsRetired m = false → e.segState m = segBraked))
      ∧ Answers (.vdrvRemeasure mv) s (s.dev.p FLD_VDRV_VDRV 0 mv)
      ∧ (∃ e, Answers (.vdrvRestored mv) s e ∧ e.flag FLD_VDRV_LOW = false
          ∧ ∀ m < 24, e.segState m = (if s.dev.segState m = segBraked then segIdle else s.dev.segState m) ∧ e.seg m = s.dev.seg m)

/-- A boundary of an armed ring of the active Reel whose fraction has crossed 0, with no swap armed and no segment waiting to be reinstated: the revolution count rises by 1 (in 40 bits), the fraction stays, the crossing is used up, the firings of the revolution are forgotten, the detune signature has one more revolution, and after the latches of the ring's group the ring is not armed. Without an armed ring or a crossing nothing changes. -/
def Obligations.RevolutionBoundaryCountsOnce : Prop :=
  ∀ (s : State) (x : Ring),
    (∀ e, s.dev.ringDef x = some e → s.dev.flag RING_STATUS_ARMED x = true → (s.dev.ring x).wrapped = true → s.dev.reel.armed = none →
        (∀ n ∈ e.segs, (s.dev.seg n).reinstate = false) →
        let d := (s.dev.p RING_STATUS_ARMED x 0).putRing x fun r =>
          { r.setCount (r.count + 1) with wrapped := false, lastFire := none, skipBack := false, boundaryAt := some s.dev.now }
        let d := d.learnedRevolution x
        let d := d.inFig fun f => { f with fired := vupdN f.fired x fun _ => [] }
        Settles (.revolutionBoundary x) s (d.latchGroup x (d.stamp x))
          ∧ (d.ring x).count = ((s.dev.ring x).count + 1) % 2 ^ 40 ∧ (d.ring x).frac = (s.dev.ring x).frac)
      ∧ (s.dev.flag RING_STATUS_ARMED x = false ∨ (s.dev.ring x).wrapped = false ∨ s.dev.ringDef x = none →
          Settles (.revolutionBoundary x) s s.dev)

/-- A Period boundary that is due latches group 4, takes a new PERIOD_MS if the Reel left one, sets the next boundary a Period later, and runs both audits; a Day boundary that is due latches group 5, moves DAY_NEXT by one day and latches the longevity monitor. Before their ticks both do nothing. The records of a group's latches are pushed for the slots that ask for them; the longevity records are pushed once for each Day. -/
def Obligations.PeriodAndDayBoundaries : Prop :=
  ∀ s : State,
    (∀ t, s.dev.tempo.periodNext = some t → t ≤ s.dev.now → s.dev.reelOn = true → s.dev.tempo.periodNew = none →
        let d := s.dev.latchGroup 4 0
        Settles .periodBoundary s
          ((d.inTempo fun p => { p with periodNext := some (t + max 1 (d.g TEMPO_PERIOD_PERIOD_MS) * msTicks) }).auditBooks).auditPool)
      ∧ (∀ t, s.dev.tempo.periodNext = some t → s.dev.now < t → Settles .periodBoundary s s.dev)
      ∧ (s.dev.dayNext ≤ s.dev.now → s.dev.domOn domCore = true → s.dev.pwr.resync = false →
          Settles .dayBoundary s (((s.dev.latchGroup 5 0).putDayNext (s.dev.dayNext + 2343168000000)).latchLong))
      ∧ (s.dev.now < s.dev.dayNext → Settles .dayBoundary s s.dev)
      ∧ (∀ g : Fin 6, Settles (.latchRecords g) s
          (((s.dev.groupSlots g).filter SlotDef.recLatch).foldl (fun d e => d.pushRecord e.queue 0 (d.latchRecord e g)) s.dev))
      ∧ (s.dev.health.longDue = false → Settles .longevityRecords s s.dev)
      ∧ (s.dev.health.longDue = true → ∃ d, Settles .longevityRecords s d ∧ d.health.longDue = false)

/-- A permitted DAY_NEXT not later than the present, or more than two days ahead, sets DAY_REJECT alone; another is taken whole. The ratio measured while XREF is locked is stored, and otherwise is not. After a sleep of CORE the stamp is T0 plus the ACLK cycles slept at the stored ratio, at least one tick later; without the stored item only the records that AON held are raised. -/
def Obligations.TimeAcrossASleep : Prop :=
  ∀ (s : State) (t : Tenant) (v : BitVec 64) (ticks : Nat),
    (s.dev.admits t 0x906 →
      (v.toNat ≤ s.dev.now ∨ s.dev.now + 2 * 2343168000000 < v.toNat →
          Answers (.tempoDayNext t v) s (s.dev.touched.p TEMPO_EVENTS_DAY_REJECT 0 1))
        ∧ (s.dev.now < v.toNat → v.toNat ≤ s.dev.now + 2 * 2343168000000 →
            Answers (.tempoDayNext t v) s
              ((s.dev.touched.p TEMPO_DAY_NEXT_LO_TICKS 0 v.toNat).p TEMPO_DAY_NEXT_HI_TICKS 0 (v.toNat / 2 ^ 32))))
      ∧ (s.dev.domOn domCore = true → s.dev.flag CLK_STATUS_PLL_LOCK = true →
          Answers (.aclkRatioMeasure ticks) s (s.dev.p TEMPO_ACLK_RATIO_RATIO 0 ticks))
      ∧ (s.dev.flag CLK_STATUS_PLL_LOCK = false → Answers (.aclkRatioMeasure ticks) s s.dev)
      ∧ (s.dev.pwr.resync = true → s.dev.encItem 3 = none →
          Settles .timeResync s (s.dev.inPwr fun p => { p with resync := false }).raiseHeld)
      ∧ (∀ b, s.dev.pwr.resync = true → s.dev.encItem 3 = some b →
          let slept := (s.dev.clock.aclk.toNat + 2 ^ 48 - leAt b 8 6) % 2 ^ 48
          2 * (slept * leAt b 14 4 % 65536) ≠ 65536 →
          let dt := max 1 ((slept * leAt b 14 4 + 32768) / 65536)
          ∃ d, Settles .timeResync s d ∧ d.clock = { s.dev.clock with time := BitVec.ofNat 64 (leAt b 0 8 + dt) } ∧ d.pwr.resync = false)

/-- An edge while SIO is dark, on an input of no ring, or of the sense that EDGE does not name has no effect, and one that comes under a quarter of the last interval after two accepted ones is counted in KPREJ alone. An edge is stamped FILTER ticks before it is accepted. On a one-tooth wheel a second edge is a mark at angle 0 at its stamp, whose speed is one revolution over the interval between the stamps, and the track has moved on from the mark at that speed. A detune block of a ring whose angle is valid, with under 16 recorded revolutions, goes to the signature alone, and there for the segments that drive. A track held at its limit for STILL_MS reports speed 0; a ring that stands shows STILL with INC 0 and no OVERSPEED. A vote without an agreeing pair makes the ring's angle invalid, and on a ring that no Reel names changes nothing. -/
def Obligations.MarksMoveTheirTracks : Prop :=
  ∀ (s : State) (x : Ring) (kp : Fin 8) (falling : Bool),
    let heard := fun (meas : List (Seg × Nat × Int)) (sig : List (Nat × Nat × Int)) =>
      ((meas.map fun p => (p.1.val, p.2)).filter fun p => (s.dev.drivingSegs x).contains p.1).foldl
        (fun l p => assocPut (24 * ((s.dev.ring x).frac / 65536) + p.1) p.2 l) sig
    (s.dev.domOn domSio = false → Answers (.kpEdge kp falling) s s.dev)
      ∧ (∀ r e, s.dev.domOn domSio = true → s.dev.reel.active = some r → r.pinFunction (0x40 + kp.val) = 0 →
          r.ring.find? (fun e => e.kp == kp.val) = some e → e.ring < 4 →
          let tooth := (s.dev.ring e.ring).tooth
          let m := s.dev.edgeTick e.ring
          let shown := s.dev.putPin kp.val (!falling)
          (s.dev.flag RING_KPCFG_EDGE e.ring ≠ falling → Answers (.kpEdge kp falling) s shown)
            ∧ m = s.dev.now - s.dev.g RING_KPCFG_FILTER e.ring
            ∧ (s.dev.flag RING_KPCFG_EDGE e.ring = falling →
                (2 ≤ tooth.accepted → 4 * (m - tooth.lastTick.getD 0) < tooth.expect →
                  Settles (.kpEdge kp falling) s (shown.bump RING_SEQ_KPREJ e.ring))
                ∧ ∀ (t0 : Nat) (l : List (Nat × Nat)), ¬ (2 ≤ tooth.accepted ∧ 4 * (m - tooth.lastTick.getD 0) < tooth.expect) →
                    s.dev.g RING_KPCFG_TEETH e.ring ≤ 1 → (s.dev.track e.ring 0).marks = (0, t0) :: l → (s.dev.track e.ring 0).st ≠ .off →
                    t0 < m → s.dev.ringValid e.ring = false → s.dev.ringReverse e.ring = false → s.dev.flag RING_STATUS_UNVOTED e.ring = false →
                    ∃ d, Settles (.kpEdge kp falling) s d
                      ∧ (d.track e.ring 0).speed = roundDiv (2 ^ 40 : Nat) (m - t0)
                      ∧ (d.track e.ring 0).angle = min (2 ^ 40) ((d.track e.ring 0).speed.natAbs * (s.dev.now - m)) % 2 ^ 40
                      ∧ (d.track e.ring 0).marks = [(0, m), (0, t0)]
                      ∧ (d.track e.ring 0).st = if (s.dev.track e.ring 0).st = .wait then .inVote else (s.dev.track e.ring 0).st))
      ∧ (∀ mark back meas, (s.dev.track x 2).st ≠ .off → (s.dev.ring x).sigRevs < 16 → s.dev.ringValid x = true →
          Settles (.detuneBlock x mark back meas) s (s.dev.putRing x fun r => { r with sig := heard meas r.sig }))
      ∧ (∀ e : Fin 3,
          ((s.dev.track x e).st ≠ .off → Answers (.trackStall x e) s (s.dev.putTrack x e fun t => { t with speed := 0, stalled := true }))
            ∧ ((s.dev.track x e).st = .off → Answers (.trackStall x e) s s.dev))
      ∧ ((s.dev.ringDef x).isSome = true →
          Answers (.still x) s (((s.dev.p RING_STATUS_STILL x 1).p RING_STATUS_OVERSPEED x 0).putRing x fun r => RingState.anew s.dev.now { r with inc := 0, slew := 0 }))
      ∧ ((∀ y, s.dev.ringDef y = none) → Settles .tempoVote s s.dev)
      ∧ Settles .tempoVote s ((((s.dev.voteRing 0).voteRing 1).voteRing 2).voteRing 3)
      ∧ (regsRising 0 s.dev.regs = true → (s.dev.ringDef x).isSome = true → s.dev.flag RING_STATUS_UNVOTED x = false →
          s.dev.agreeing x = [] → (s.dev.voteRing x).ringValid x = false)

/-- R106. A logic 1 is coded as X, whose pause is carrier cycles 8 to 11; a logic 0 that follows a logic 1 as Y, without a pause; a logic 0 that follows a logic 0 as Z, whose pause is carrier cycles 0 to 3. -/
def Obligations.DownlinkSequencesCodeBits : Prop :=
  (∀ prev, seqOf prev true = .x) ∧ seqOf true false = .y ∧ seqOf false false = .z
    ∧ pauseOf .x = some (8, 11) ∧ pauseOf .y = none ∧ pauseOf .z = some (0, 3)
    ∧ ∀ (p b : Bool) (l : List Bool), codeBits p (b :: l) = seqOf p b :: codeBits b l

/-- R117. After preamble and sync word, whose 1,280 carrier cycles are 40 symbols of 32, a J1 frame has the 32 bits of the header, 16 bits a payload word, and the CRC-16 of R115 over both; it lasts (88 + 16 x LEN) x 32 carrier cycles, which is preamble and sync word plus 32 cycles for each of those bits. -/
def Obligations.FrameLengthOfJ1 : Prop :=
  (∀ (rate : Nat) (z : Bool) (len : Nat), frameCycles 1 rate z len = (88 + 16 * len) * 32)
    ∧ ∀ r : Reply,
        let body := msbBits 32 (headerWord r.sa r.ty r.payload.length) ++ halfBits r.payload
        r.j1Bits = body ++ msbBits 16 (crc16 body)
          ∧ syncCycles 1 + 32 * r.j1Bits.length = frameCycles 1 r.rate r.z64 r.payload.length

/-- One tag in the field, reached by the frame. TREE: a READY tag whose UID begins with the prefix answers its UID in J1 in the slot of its next UID bit; another tag stays silent. ASSIGN to its UID: it is ASSIGNED with the address and offset, in J1, and answers CAPS On-beat. SETGEN of a generation, rate and Z that it offers: it goes over to them, its block numbers start again, and it acknowledges in them; of one that it does not offer: NAK UNSUPPORTED in J1, and nothing of it changes. QUIET, WAKE: a READY tag is QUIET and a QUIET one READY, silently. RELEASE: an assigned tag acknowledges and is READY, and its authentication is discarded. PING: an assigned tag acknowledges as ONBEAT asks. A frame whose CRC fails changes no tag. -/
def Obligations.InventoryCommandsMoveTheTag : Prop :=
  ∀ (s : State) (t : Tag) (f : Down), s.dev.OneTag t →
    (∀ (l : BitVec 6) (pre : BitVec 64), Reaches f t true →
        (t.mode = .ready → t.uid >>> (64 - l.toNat) = pre.toNat >>> (64 - l.toNat) →
          TagReplies (.tree f l pre) s t ⟨tyUid, uidWords t.uid, 1, 0, false⟩ (.slot (bitOf t.uid (63 - l.toNat))) s.dev.air.auths)
        ∧ (t.mode ≠ .ready ∨ t.uid >>> (64 - l.toNat) ≠ pre.toNat >>> (64 - l.toNat) → TagSilent (.tree f l pre) s t))
      ∧ (∀ (newsa : BitVec 12) (o : BitVec 6), Reaches f t true →
          TagReplies (.assign f t.kind.uid newsa o) s
            { t with mode := .assigned, sa := newsa.toNat, offset := o.toNat, gen := 1, rate := 0, z64 := false, self := false }
            ⟨tyCaps, t.kind.capsWords, 1, 0, false⟩ (.onbeat o.toNat) s.dev.air.auths)
      ∧ (∀ (g rate : BitVec 2) (z self : Bool), Reaches f t false → t.assigned = true → 2 ≤ g.toNat → (self = true → g = 3 ∧ t.kind.selfClk = true) →
          (rate ≠ 3 → t.kind.offers g.toNat rate.toNat z = true →
            TagReplies (.setgen f g rate z self) s
              { t with gen := g.toNat, rate := rate.toNat, z64 := z, self := self, blocks := [], nextSeq := 0, sentFF := false, overflow := false }
              ⟨tyAck, ackWord 0x03 0, g.toNat, rate.toNat, z⟩ (.onbeat t.offset) s.dev.air.auths)
          ∧ (rate = 3 ∨ t.kind.offers g.toNat rate.toNat z = false →
            TagReplies (.setgen f g rate z self) s t ⟨tyNak, ackWord 0x03 nakUnsupported, 1, 0, false⟩ (.onbeat t.offset) s.dev.air.auths))
      ∧ (∀ bc, Reaches f t bc → t.mode = .ready → TagSilent (.quiet f) s { t with mode := .quiet })
      ∧ (Reaches f t true → t.mode = .quiet → TagSilent (.wake f) s { t with mode := .ready })
      ∧ (Reaches f t false → t.assigned = true →
          TagReplies (.release f) s { t with mode := .ready } ⟨tyAck, ackWord 0x05 0, t.gen, t.rate, t.z64⟩ (.onbeat t.offset)
            (s.dev.air.auths.filter fun x => x.sa != f.sa.toNat)
          ∧ TagReplies (.ping f) s t ⟨tyAck, ackWord 0x07 0, t.gen, t.rate, t.z64⟩ (if f.onbeat then .onbeat t.offset else .bounded 0)
              s.dev.air.auths)
      ∧ ∀ c, f.ok = false → (c = .quiet f ∨ c = .wake f ∨ c = .release f ∨ c = .ping f ∨ (∃ l pre, c = .tree f l pre)
            ∨ (∃ u a o, c = .assign f u a o) ∨ ∃ g r z b, c = .setgen f g r z b) → ∃ d, Answers c s d ∧ d.air.tags = [t]

/-- One assigned tag in the field, reached by the frame. READ with a plan of its model answers as Tag.read builds its oldest unacknowledged block, or is silent with none; with another plan it answers NAK BAD_ARG. READ_MEM of a readable range answers its words; outside, NAK RANGE. PREPARE of writable words by a tag with two banks, none protected, writes them into the inactive bank and answers its token, the active bank untouched; one without a second bank answers NAK UNSUPPORTED. COMMIT with the pending bank's token makes that bank active and counts; with another token NAK TOKEN and nothing changes. CONFIRM tells whether the active bank has the token, and the count of commits, and frees the inactive bank. AUTH of a tag that has AUTH answers what its algorithm gives, and NAK AUTH where that gives nothing. -/
def Obligations.MemoryCommandsReadAndWriteTheTag : Prop :=
  ∀ (s : State) (t : Tag) (f : Down) (hold : BitVec 4), s.dev.OneTag t → Reaches f t false → t.assigned = true →
    let auths := s.dev.air.auths
    let tm : ReplyTiming := if f.onbeat then .onbeat t.offset else .bounded hold.toNat
    let nak := fun (cmd r : Nat) => (⟨tyNak, ackWord cmd r, t.gen, t.rate, t.z64⟩ : Answer)
    (∀ (ack : Byte) (plan upl : BitVec 4) (maxw : Byte) (samples : List (List Half)) (age spacing : Half) (stat : BitVec 2),
        let got := t.read f s.dev.replyPick s.dev.now ack.toNat plan.toNat upl.toNat hold.toNat maxw.toNat samples age.toNat spacing.toNat stat.toNat
        (∀ (t' : Tag) (a : Answer) (tm : ReplyTiming), got = (t', some (a, tm)) → a.ty ≠ tyUid →
            TagReplies (.readTag f ack plan upl hold maxw samples age spacing stat) s t' a tm auths)
          ∧ (∀ t', got = (t', none) → TagSilent (.readTag f ack plan upl hold maxw samples age spacing stat) s t')
          ∧ (t.kind.planMask plan.toNat = 0 →
              TagReplies (.readTag f ack plan upl hold maxw samples age spacing stat) s t (nak 0x10 nakBadArg) tm auths))
      ∧ (∀ (addr : Half) (nw : Byte) (upl : BitVec 4) (rate : Nat) (z : Bool),
          let n := if nw = 0 then 128 else nw.toNat
          n ≤ 128 → t.uplOf upl.toNat = some (rate, z) →
          (t.readable addr.toNat n = true →
            TagReplies (.readMem f addr nw upl hold) s t ⟨tyMem, (List.range n).map fun i => t.word (addr.toNat + i), t.gen, rate, z⟩ tm auths)
          ∧ (t.readable addr.toNat n = false → TagReplies (.readMem f addr nw upl hold) s t (nak 0x11 nakRange) tm auths))
      ∧ (∀ (addr : Half) (nw : BitVec 4) (data : List Half),
          let n := if nw = 0 then 16 else nw.toNat
          data.length = n →
          (t.kind.dualBank = true → t.kind.writable addr.toNat n = true → (t.kind.protects addr.toNat n = true → t.mode = .secure) →
            let b := data.zipIdx.foldl (fun b p => assocPut (addr.toNat + p.2) p.1 b) (t.pendingBank.getD t.bank)
            TagReplies (.prepare f addr nw hold data true) s { t with pendingBank := some b }
              ⟨tyPrepared, [BitVec.ofNat 16 (bankToken t.kind b)], t.gen, t.rate, t.z64⟩ (.bounded hold.toNat) auths)
          ∧ (t.kind.dualBank = false →
              TagReplies (.prepare f addr nw hold data true) s t (nak 0x12 nakUnsupported) (.bounded hold.toNat) auths))
      ∧ (∀ (token : Half) (b : List (Nat × Half)), t.pendingBank = some b →
          (bankToken t.kind b = token.toNat →
            TagReplies (.commit f token hold true) s
              { t with bank := b, bankNo := 1 - t.bankNo, pendingBank := none, commits := t.commits + 1 }
              ⟨tyCommitted, [token, BitVec.ofNat 16 (1 - t.bankNo)], t.gen, t.rate, t.z64⟩ (.bounded hold.toNat) auths)
          ∧ (bankToken t.kind b ≠ token.toNat →
              TagReplies (.commit f token hold true) s t (nak 0x13 nakToken) (.bounded hold.toNat) auths))
      ∧ (∀ token : Half, TagReplies (.confirm f token hold) s { t with pendingBank := none }
            ⟨tyConfirmed, [BitVec.ofNat 16 (if bankToken t.kind t.bank = token.toNat then 1 else 0), BitVec.ofNat 16 (t.commits >>> 16),
              BitVec.ofNat 16 t.commits], t.gen, t.rate, t.z64⟩ tm auths)
      ∧ ∀ (msg : BitVec 4) (message : List Byte), 1 ≤ message.length → message.length ≤ 64 →
          (t.kind.canAuth = false → TagReplies (.auth f msg hold message) s t (nak 0x20 nakUnsupported) (.bounded hold.toNat) auths)
          ∧ (t.kind.canAuth = true → TagReplies (.auth f msg hold message) s t
              (match Config.authReply t.uid msg.toNat message with
                | some resp => ⟨tyAuth, authWords msg.toNat resp, t.gen, t.rate, t.z64⟩
                | none => nak 0x20 nakAuth) (.bounded hold.toNat) auths)

/-- The first power-up of a tag adds it, READY and without an address; a later one stops its reply, discards a pending bank and ends SECURE and QUIET, and keeps what its memory holds. A collapse stops the reply, ends SECURE and QUIET, and settles a write in progress as the step sent last and its reply say; the active bank stays. After 16 passes without a CONFIRMED the kept slot is released and the tag's entry and the event show WRITE_UNRESOLVED; before, nothing changes. -/
def Obligations.TagsComeAndGoWithTheField : Prop :=
  ∀ s : State,
    (∀ k : TagKind, (∀ t ∈ s.dev.air.tags, t.kind.uid ≠ k.uid) →
        ∃ t, t.kind = k ∧ t.mode = .ready ∧ t.powered = true ∧ t.bank = [] ∧ t.blocks = [] ∧ t.pendingBank = none
          ∧ Answers (.tagPowerUp k) s { s.dev with air := { s.dev.air with tags := s.dev.air.tags ++ [t] } })
      ∧ (∀ k t, s.dev.air.tags = [t] → t.kind = k →
          ∃ t' d, Answers (.tagPowerUp k) s d ∧ d.air.tags = [t'] ∧ t'.powered = true ∧ t'.pendingBank = none ∧ t'.bank = t.bank
            ∧ t'.sa = t.sa ∧ t'.mode ≠ .secure ∧ t'.mode ≠ .quiet ∧ (∀ r ∈ d.air.replies, r.uid ≠ t.uid))
      ∧ (∀ t, s.dev.air.tags = [t] →
          ∃ t' d, Answers (.fieldCollapse t.kind.uid) s d ∧ d.air.tags = [t'] ∧ t'.powered = false ∧ t'.bank = t.bank
            ∧ t'.mode ≠ .secure ∧ t'.mode ≠ .quiet ∧ (∀ r ∈ d.air.replies, r.uid ≠ t.uid)
            ∧ (t.assigned = true → d.air.writes = s.dev.air.writes.map fun w => if w.sa = t.sa then w.collapse else w))
      ∧ (∀ w : WriteRec, w.outcome = none →
          (w.step = .prepare → w.collapse.outcome = some (if w.last = some tyPrepared then .unknown else .none))
            ∧ (w.step = .commit → w.collapse.outcome = some (if w.last = some tyCommitted then .done else .unknown))
            ∧ (w.step = .confirm → w.collapse.outcome = some (if w.retry then .unknown else .done)))
      ∧ ∀ (sa : BitVec 12) (i : Nat), s.dev.keptFor sa.toNat = some i →
          let passes := max ((((s.dev.slot i).bind (·.kept)).map (·.passes)).getD 0) (s.dev.unknownPasses sa.toNat)
          (16 ≤ passes → Answers (.writeUnresolved sa) s (((s.dev.dropKept i).markUnresolved sa.toNat).settleHeld))
            ∧ (passes < 16 → Answers (.writeUnresolved sa) s s.dev)
            ∧ ((s.dev.dropKept i).markUnresolved sa.toNat).flag CENSUS_EVENTS_WRITE_UNRESOLVED = true

/-- A lane with an open window. Eight symbols whose strength E / W is above the threshold, while no packet and no candidate is held and the window still admits a first symbol that began eight symbols ago, become a candidate with that tick and strength, and the lane shows STATE 2; otherwise the lane holds what it held. A candidate that qualifies alone becomes the lane's packet, whose first preamble symbol lies 24 symbols before its sync word; beside a packet it marks that COLLIDED; one that does not qualify changes neither packet nor candidates. An arrival not above the threshold, or on the held path within a quarter symbol of its timing, changes neither; one stronger than the held candidate by the capture margin, before the header has passed, displaces it and the packet; a weaker one beside a packet marks that INTERFERER. A candidate dropped unqualified counts FALSE_DET, and with none left the lane searches again. -/
def Obligations.SearchersFindPackets : Prop :=
  ∀ (s : State) (l : Lane) (i : Fin 2) (w : RxWindow), (s.dev.lane l).win = some w → (∀ k ∈ (s.dev.lane l).chans, k < 24) →
    let x := s.dev.lane l
    let o := 1 - i.val
    let keeps := fun (d : Dev) => (d.lane l).pkt = x.pkt ∧ (d.lane l).cands = x.cands ∧ (d.lane l).win = some w
    (∀ (fc16 : Bool) (rx : Pickup) (noise : List Nat),
        let xss := s.dev.samples x.chans rx
        let c := runChain x.chans (s.dev.windowNoise l w noise) xss
        let run := symbolsOf fc16 rx.offsetHz 0 (c.branches.map (·.resid)) (xss.map (·.drop 64))
        let e := c.strength run
        (x.pkt = none → (∀ k < 2, vget x.cands k none = none) → s.dev.runTick fc16 ≤ w.limit → run.length = 8 →
          aboveDb e.1 e.2 (s.dev.g LN_DET_THRESH l) = true →
          ∃ d k, Answers (.candidate l i fc16 rx noise) s d ∧ vget (d.lane l).cands i none = some k ∧ k.tick = s.dev.runTick fc16 ∧ k.fc16 = fc16
            ∧ k.strength = quarterDb e.1 e.2 ∧ k.run = run ∧ k.behind = false ∧ k.captor = false ∧ d.g LN_STATE_STATE l = 2
            ∧ (d.lane l).win = some w ∧ (d.lane l).pkt = none)
        ∧ (x.pkt ≠ none ∨ (∃ k < 2, vget x.cands k none ≠ none) ∨ w.limit < s.dev.runTick fc16
            ∨ aboveDb e.1 e.2 (s.dev.g LN_DET_THRESH l) = false →
          ∃ d, Answers (.candidate l i fc16 rx noise) s d ∧ keeps d))
      ∧ (∀ (c : Cand) (rx : Pickup), vget x.cands i none = some c →
          let run := c.run ++ symbolsOf c.fc16 rx.offsetHz c.run.length (x.chain.branches.map (·.resid)) (s.dev.samples x.chans rx)
          (∀ (gen holds : Nat) (chain : Chain), s.dev.qualifies l c rx.offsetHz run = some (gen, holds, chain) →
            (x.pkt = none → vget x.cands o none = none →
              ∃ d p, Answers (.syncQualify l i rx) s d ∧ (d.lane l).pkt = some p ∧ p.searcher = i.val ∧ p.gen = gen ∧ p.holds = holds
                ∧ p.strength = c.strength ∧ p.flags = (if c.captor then 2 ^ stCaptured else 0)
                ∧ p.first = c.tick + (run.length - (syncSyms gen).length) * symTicks gen - 24 * symTicks gen
                ∧ d.g LN_STATE_STATE l = 4 ∧ d.g LN_STATE_GEN l = gen)
            ∧ ∀ p, x.pkt = some p → p.searcher ≠ i.val →
                ∃ d, Answers (.syncQualify l i rx) s d ∧ (d.lane l).pkt = some { p with flags := p.flags ||| 2 ^ stCollided }
                  ∧ vget (d.lane l).cands i none = none)
          ∧ (s.dev.qualifies l c rx.offsetHz run = none → ∃ d, Answers (.syncQualify l i rx) s d ∧ keeps d))
      ∧ (∀ (c : Cand) (fc16 : Bool) (eighths : Nat) (rx : Pickup), vget x.cands i none = some c → vget x.cands o none = none →
          let run := symbolsOf fc16 rx.offsetHz 0 (x.chain.branches.map (·.resid)) (s.dev.samples x.chans rx)
          let e := x.chain.strength run
          let apart := fc16 ≠ c.fc16 ∨ (2 ≤ eighths % 8 ∧ eighths % 8 ≤ 6)
          (aboveDb e.1 e.2 (s.dev.g LN_DET_THRESH l) = false ∨ ¬ apart → ∃ d, Answers (.arrival l fc16 eighths rx) s d ∧ keeps d)
          ∧ (aboveDb e.1 e.2 (s.dev.g LN_DET_THRESH l) = true → apart → run.length = 8 →
              (∀ p, x.pkt = some p → s.dev.runTick fc16 ≤ p.headerEnd) →
              (c.strength + s.dev.g LN_DET_CAPTURE l ≤ quarterDb e.1 e.2 →
                ∃ d k, Answers (.arrival l fc16 eighths rx) s d ∧ (d.lane l).pkt = none ∧ vget (d.lane l).cands i none = none
                  ∧ vget (d.lane l).cands o none = some k ∧ k.tick = s.dev.runTick fc16 ∧ k.strength = quarterDb e.1 e.2 ∧ k.captor = true
                  ∧ d.g LN_STATE_STATE l = 2)
              ∧ ∀ p, quarterDb e.1 e.2 < c.strength + s.dev.g LN_DET_CAPTURE l → x.pkt = some p →
                ∃ d, Answers (.arrival l fc16 eighths rx) s d ∧ (d.lane l).pkt = some { p with flags := p.flags ||| 2 ^ stInterferer }
                  ∧ (d.lane l).cands = x.cands))
      ∧ ∀ c : Cand, vget x.cands i none = some c → x.pkt = none → vget x.cands o none = none → regsRising 0 s.dev.regs = true →
          ∃ d, Answers (.falseDet l i) s d ∧ d.g LN_CNT_A_FALSE_DET l = min (2 ^ LN_CNT_A_FALSE_DET.width - 1) (s.dev.g LN_CNT_A_FALSE_DET l + 1)
            ∧ vget (d.lane l).cands i none = none ∧ (d.lane l).pkt = none ∧ d.g LN_STATE_STATE l = 1 ∧ (d.lane l).displaced = (x.displaced || c.captor)

/-- A lane with an open window. It takes its next symbols into its chain; where the shares of two neighbouring branches have then become equal between the last two symbol ends, a crossing is kept with its tick, interpolated between them, its seam, its direction and whether a retired run lies between, and with none the crossings stay. Where the trailing share has stayed low for eight symbols and the leading one is half, the window of a moving ring drops its last channel and takes the next of the cover order; otherwise it stays. When a reply can no longer come, with no packet and no candidate, the window closes with NO_REPLY, a missed pass and a field collapse for the tag that it was for, unless a census job holds it; before, nothing changes. A driven channel's carrier vector is refined only where cancelling is enabled, its 64 carrier cycles are over, the mean is not zero and no packet is on it. -/
def Obligations.WindowsFollowTheirTag : Prop :=
  ∀ (s : State) (l : Lane) (w : RxWindow), (s.dev.lane l).win = some w →
    (∀ (i : Fin 2) (rx : Pickup),
        let d := s.dev.feedLane l rx
        let x := d.lane l
        let v := x.chain.crossing i
        let st := symTicks (if x.path then 1 else 2)
        ((v.1 ≤ 0 ∨ 0 < v.2) → (0 ≤ v.1 ∨ v.2 < 0) → Answers (.seamCrossing l i rx) s d)
          ∧ ∀ a b, x.chans[i.val]? = some a → x.chans[i.val + 1]? = some b → x.win = some w → (0 < v.1 ∧ v.2 ≤ 0) ∨ (v.1 < 0 ∧ 0 ≤ v.2) →
              Answers (.seamCrossing l i rx) s
                (d.putLane l fun x =>
                  { x with crossings := x.crossings ++ [{ tick := ((d.now : Int) - st + roundDiv (st * v.1.natAbs : Nat) (v.1.natAbs + v.2.natAbs)).toNat,
                                                          seam := a, backward := decide (v.1 < 0), fill := d.filled w a b }] }))
      ∧ (∀ (rx : Pickup) (e : RingDef) (new : Nat),
          let d := s.dev.feedLane l rx
          let x := d.lane l
          let rev := d.ringReverse e.ring
          regsRising 0 s.dev.regs = true → x.win = some w → x.chans = (s.dev.lane l).chans → d.ringFor w.slot (x.chans.headD w.first) = some e → d.slideTo e rev x.chans = some new →
          (x.chain.low < 8 ∨ x.chain.leadHalf rev = false ∨ x.chans.length < 2 ∨ e.segCount ≤ 2 → Answers (.windowSlide l rx) s d)
          ∧ (8 ≤ x.chain.low → x.chain.leadHalf rev = true → 2 ≤ x.chans.length → 2 < e.segCount →
              ∃ f, Answers (.windowSlide l rx) s f
                ∧ (f.lane l).chans = (if rev then new :: x.chans.dropLast else x.chans.drop 1 ++ [new])
                ∧ f.g LN_CFG_FIRST l = ((f.lane l).chans.headD w.first) % 2 ^ LN_CFG_FIRST.width
                ∧ (f.lane l).pkt = x.pkt ∧ (f.lane l).crossings = x.crossings))
      ∧ (let x := s.dev.lane l
         (s.dev.now < w.close → Settles (.replyWindowExpiry l) s s.dev)
          ∧ (w.close ≤ s.dev.now → x.pkt = none → (∀ k < 2, vget x.cands k none = none) →
              let extra := if x.displaced then 2 ^ stCaptured else 0
              (w.sa = none ∨ (s.dev.cen.job.bind (·.slot)) = some w.slot →
                Settles (.replyWindowExpiry l) s (s.dev.deliverEmpty l stNoReply extra))
              ∧ ∀ sa, w.sa = some sa → (s.dev.cen.job.bind (·.slot)) ≠ some w.slot →
                let ring := ((s.dev.ringFor w.slot w.first).map RingDef.ring).getD 4
                Settles (.replyWindowExpiry l) s (((s.dev.missPass sa).tagCollapse ring sa).deliverEmpty l stNoReply extra)))
      ∧ ∀ (k : Seg) (i q : Int),
          let x := s.dev.lane l
          (s.dev.segState k ≠ segDrive ∨ (i = 0 ∧ q = 0) ∨ (x.pkt.isSome = true ∧ k.val ∈ x.chans) ∨ s.dev.flag SNS_CFG_CANCEL_EN k = false
              ∨ (s.dev.seg k).driveCycles % 64 ≠ 0 → Answers (.cancelRefine k i q) s s.dev)
          ∧ (s.dev.segState k = segDrive → i ≠ 0 ∨ q ≠ 0 → s.dev.flag SNS_CFG_CANCEL_EN k = true → (s.dev.seg k).driveCycles % 64 = 0 →
              (∀ m < 20, k.val ∈ (s.dev.lane m).chans → (s.dev.lane m).win.isSome = true → (s.dev.lane m).pkt = none) →
              ∃ v u, Answers (.cancelRefine k i q) s (({ s.dev with freeCtr := s.dev.freeCtr + 2 }.p SNS_CANCEL_CI k v).p SNS_CANCEL_CQ k u))

/-- The soft bits of a lane's next symbols that complete a codeword of a J2 or J3 packet, within the lane buffer, are stored and go to the lane's core, or wait and count DEC_WAIT while its queue is full; one that would overfill the buffer sets BUF_FULL; in J1, or short of a codeword, none is stored. The codeword at the head of a core's queue is decoded and counted with its iterations, a failure too, may be selected for the checker, and lets waiting ones in; where the checker agrees, its run is counted and nothing more. With no codeword nothing changes. A J1 frame outside its reply's timing closes its window with that status and no payload; one whose checks fail, with the failing status and its header; one that passes is resolved in the census, counted and delivered with status OK. A closed window's record stands at its lane, where the next LISTEN's program finds it. -/
def Obligations.CodewordsAreDecodedInTurn : Prop :=
  ∀ s : State,
    (∀ (l : Lane) (w : RxWindow) (p : Packet) (rx : Pickup), ((s.dev.feedLane l rx).lane l).win = some w → ((s.dev.feedLane l rx).lane l).pkt = some p →
        let f := s.dev.feedLane l rx
        let x := f.lane l
        let n := if w.z64 then 1024 else 512
        let llr := x.chain.soft.take n
        let word : LaneWord := { llr := llr, sent := false, info := none, iters := 0, failed := false, dispute := false, checking := false }
        let taken := f.putLane l fun x => { x with chain := { x.chain with soft := x.chain.soft.drop n } }
        let d := (taken.putLane l fun x => { x with words := x.words ++ [word] }).putLaneState l 5
        (p.gen = 1 ∨ llr.length ≠ n → Answers (.codewordQueued l rx) s f)
        ∧ (p.gen ≠ 1 → llr.length = n → x.words = [] ∨ headerLen (msbNat ((x.hard p.gen).take 32)) ≤ 128 →
            (5461 < n * (x.words.length + 1) → Answers (.codewordQueued l rx) s (taken.putLane l fun x => { x with bufFull := true }))
            ∧ (n * (x.words.length + 1) ≤ 5461 → f.decLost = false →
                ((d.core (d.routeOf l)).queue.length < 4 → Answers (.codewordQueued l rx) s (d.fillCore (d.routeOf l) 4))
                ∧ (4 ≤ (d.core (d.routeOf l)).queue.length → Answers (.codewordQueued l rx) s (d.bump LN_CNT_B_DEC_WAIT l)))))
      ∧ (∀ (c : Core) (bad : List Core), (s.dev.core c).queue = [] → Answers (.codewordDecoded c bad) s s.dev)
      ∧ (∀ (c : Core) (j : CoreJob) (js : List CoreJob) (x : LaneWord), (s.dev.core c).queue = j :: js →
          let d := s.dev.putCore c fun x => { x with queue := js }
          s.dev.laneWord j.lane j.word = some x →
          let win := (s.dev.lane j.lane).win
          let r := decodeWord ((win.map (·.rate)).getD 0) (if (win.map (·.z64)).getD false then 64 else 32) s.dev.maxIter x.llr
          let run : DecodeRun := { bits := r.1, iters := r.2.1, ok := r.2.2 }
          let counted := fun (d : Dev) => ((d.inc DECC_CW_COUNT c).inc DECC_ITER_COUNT c r.2.1).when (!r.2.2) fun d => d.bump DECC_FAIL_COUNT c
          (j.first = none →
            Answers (.codewordDecoded c []) s
              ((((counted d).putWord j.lane j.word fun x => { x with info := some r.1, iters := r.2.1, failed := !r.2.2 }).selectCheck j.lane j.word c run).fillCore c 4))
          ∧ ∀ c0 r1, j.first = some (c0, r1) → r1.bits = r.1 → r1.iters = r.2.1 →
              Answers (.codewordDecoded c []) s ((counted (d.putWord j.lane j.word fun x => { x with checking := false })).fillCore c 4))
      ∧ (∀ (l : Lane) (rx : Pickup) (w : RxWindow) (p : Packet),
          let f := s.dev.feedLane l rx
          let x := f.lane l
          x.win = some w → x.pkt = some p → p.gen = 1 → p.searcher < 2 → vget x.cands (1 - p.searcher) none = none →
          let hard := hardOf x.chain.soft
          let base := statusBase w p x.crossings
          let iters := (x.words.map (·.iters)).foldl max 0
          let c := checkJ1 hard
          (∀ b, timingFlag w p = some b →
            Settles (.frameDelivery l rx) s (f.deliver l (recordOf w (base ||| 2 ^ b) (msbNat (hard.take 32)) (some p) x.chain iters x.crossings) []))
          ∧ (timingFlag w p = none → p.flags.testBit stCollided = false → x.bufFull = false →
              (∀ b, c.fail = some b →
                Settles (.frameDelivery l rx) s
                  (f.deliver l (recordOf w (base ||| 2 ^ b) c.header (some p) x.chain iters x.crossings) (if b = stLenOver then [] else c.payload)))
              ∧ (c.fail = none →
                  let h : Heard := { ring := ((f.ringFor w.slot w.first).map (·.ring)).getD 0, sa := bitsOf c.header 20 12,
                                     ty := bitsOf c.header 16 4, payload := c.payload, first := p.first, crossings := x.crossings,
                                     genMis := base.testBit stGenMismatch }
                  let r := f.resolveFrame h
                  Settles (.frameDelivery l rx) s
                    ((r.2.bump LN_CNT_A_FRAMES l).deliver l
                      (recordOf w (base ||| 1 ||| (if r.1 then 2 ^ stDupBlock else 0)) c.header (some p) x.chain iters x.crossings) c.payload))))
      ∧ ∀ (d : Dev) (l : Lane) (w : RxWindow) (rec : List Word) (pay : List Half), (d.lane l).win = some w → (d.lane l).next = [] →
          (d.cen.job.bind (·.slot)) ≠ some w.slot → (d.slot w.slot).bind (·.caller) = none →
          let e := d.deliver l rec pay
          (e.lane l).win = none ∧ (e.lane l).record = some (w.slot, rec, pay) ∧ (e.lane l).pkt = none ∧ e.cen = d.cen ∧ e.sram = d.sram

/-- A lane that fails is marked failed and leaves service, and its window closes with LANE_FAIL and its exchange runs again; a failed spare costs one of the spares. A failed lane's role goes to the first spare, with its decoder route, and is recorded as LANE_SPARED, the spares' severity rising to 2 with the last hot spare; once that is done nothing changes. A failed checker ends cross-checking; the first failed active core is replaced by the checker, and cross-checking ends. A lane or core that has failed fails no further. -/
def Obligations.FailedLanesAndCoresArePassedOn : Prop :=
  ∀ (s : State) (l : Lane),
    let d0 := ((s.dev.setBit LANE_FAILED_LANE 0 l).set1 LANE_EVENTS_LANE_FAIL).p LN_CFG_MODE l 3
    ((s.dev.g LANE_FAILED_LANE).testBit l = true → Settles (.laneFail l) s s.dev)
      ∧ ((s.dev.g LANE_FAILED_LANE).testBit l = false →
          (s.dev.laneMode l ≠ 2 →
            let d := d0.putLane l fun x => { x with failing := true }
            ((s.dev.lane l).win = none → Settles (.laneFail l) s d)
            ∧ ∀ w, (s.dev.lane l).win = some w → s.dev.g LN_STATE_STATE l ≠ 7 →
                Settles (.laneFail l) s ((d.repeatSlot w.slot).deliverEmpty l stLaneFail))
          ∧ (s.dev.laneMode l = 2 → (s.dev.lane l).win = none →
              Settles (.laneFail l) s (((d0.p HEALTH_SPARES_LANES 0 (s.dev.g HEALTH_SPARES_LANES - 1)).raise codeLaneSpareFail l).putLane l
                fun x => { x with failing := false })))
      ∧ ((s.dev.lane l).failing = false → Settles (.laneSpared l) s s.dev)
      ∧ (∀ k, (s.dev.lane l).failing = true → ((List.range 20).find? fun k => s.dev.laneMode k == 2) = some k →
          let d := (((s.dev.putLane l fun x => { x with failing := false }).passRole l k).set1 LANE_EVENTS_SPARE_USED)
          let e := if s.dev.g LANE_SPARE_SPARE0 = k then d.set1 LANE_SPARE_USED0 else d.set1 LANE_SPARE_USED1
          Settles (.laneSpared l) s (((e.p HEALTH_SPARES_LANES 0 (s.dev.g HEALTH_SPARES_LANES - 1)).raise codeLaneSpared l k).when
            (((List.range 20).filter fun k => s.dev.laneMode k == 2).length == 1) fun d => d.high HEALTH_SPARES_SEV 0 2))
      ∧ ∀ c : Core,
          let chk := s.dev.g DEC_STATUS_CHECKER
          let d := (s.dev.setBit DEC_STATUS_FAILED 0 c).p DECC_STATUS_ROLE c 2
          (s.dev.coreFailed c = true → Settles (.decCoreFail c) s s.dev)
          ∧ (s.dev.coreFailed c = false → s.dev.flag DEC_STATUS_SPARED = false →
              (c.val = chk → Settles (.decCoreFail c) s (((d.stopChecks).set1 DEC_EVENTS_CHECKER_FAIL).raise codeDecCheckerFail c))
              ∧ (c.val ≠ chk → s.dev.coreFailed chk = false →
                  Settles (.decCoreFail c) s
                    ((((((((d.stopChecks).requeue c).p DEC_STATUS_TAKEN_FOR 0 c).set1 DEC_STATUS_SPARED).p DECC_STATUS_ROLE chk 0).reroute c chk).set1
                      DEC_EVENTS_SPARED).raise codeDecSpared c chk)))

/-- Permitted commands of T0. RETIRE of an SA whose entry is CANDIDATE, ACTIVE or LOST, which no slot is bound to and no walk is assigning, makes the entry RETIRING and lists it for its RELEASE; where a slot is bound to it and none stands kept, the command waits; of an SA without an entry it is refused. FREE of a RETIRED or DUPLICATE entry that no walk is assigning clears its eight words and forgets what was kept for it, and of an entry that is FREE, CANDIDATE, ACTIVE or LOST, or RETIRING without FORCE, is refused. SETPLAN puts the entry, with its plan and what it waited for before, on the list that the ENTRY job serves. A range that overlaps no other ring's is stored, one that ends before it begins sets RANGE_ERR. After LOOKUP the register shows the entry that holds the SA, or no hit, and goes on showing it as entries change. -/
def Obligations.CensusEntriesFollowCommands : Prop :=
  ∀ (s : State) (t : Tenant), s.dev.tenantPresent t = true →
    let d := s.dev.touched
    let refused := d.p CENSUS_EVENTS_CMD_REFUSED 0 1
    (s.dev.admits t 0x1100 →
      (∀ (sa : BitVec 12) (force : Bool) (i : Nat),
          entries.find? (fun i => (s.dev.entState i == stCandidate || s.dev.entState i == stActive || s.dev.entState i == stLost)
            && s.dev.entSa i == sa.toNat) = some i →
          (s.dev.keptFor (s.dev.entSa i) = none → s.dev.boundFor (s.dev.entSa i) = none → s.dev.assigning i = false →
              Answers (.retire t sa force) s
                ((d.wf (cenBase + 8 * i + 2) 12 3 stRetiring).joinEntry { idx := i, plan := none, regen := false }))
            ∧ ((s.dev.boundFor (s.dev.entSa i)).isSome = true → s.dev.keptFor (s.dev.entSa i) = none →
              Answers (.retire t sa force) s
                { d with cen := { d.cen with held := d.cen.held.filter (fun h => h.1 != i) ++ [(i, false, force)] } })
            ∧ ∀ plan : BitVec 4, Answers (.setplan t sa plan) s
                { d with cen := { d.cen with
                    waits := d.cen.waits.filter (fun x => x.idx != i) ++
                      [{ idx := i, plan := some plan.toNat, regen := ((d.cen.waits.find? fun x => x.idx == i).map (·.regen)).getD false }],
                    serve := true } })
        ∧ (∀ (sa : BitVec 12) (force : Bool) (plan : BitVec 4),
            (∀ i < 8192, s.dev.entSa i = sa.toNat → s.dev.entState i ≠ stCandidate ∧ s.dev.entState i ≠ stActive ∧ s.dev.entState i ≠ stLost) →
            Answers (.retire t sa force) s refused ∧ Answers (.setplan t sa plan) s refused)
        ∧ ∀ (idx : BitVec 13) (force : Bool),
            (s.dev.entState idx.toNat = stRetired ∨ s.dev.entState idx.toNat = stDuplicate → s.dev.assigning idx.toNat = false →
              Answers (.free t idx force) s (d.freeEntry idx.toNat))
            ∧ (s.dev.entState idx.toNat ≤ stLost → Answers (.free t idx force) s refused)
            ∧ (s.dev.entState idx.toNat = stRetiring → force = false → Answers (.free t idx force) s refused))
      ∧ (∀ (x : Ring) (first last : BitVec 12), s.dev.admits t (0x1109 + x.val) →
          (last.toNat < first.toNat → Answers (.censusRingSa t x first last) s (d.p CENSUS_EVENTS_RANGE_ERR 0 1))
          ∧ (first.toNat ≤ last.toNat →
              (∀ y < 4, y ≠ x.val → last.toNat < s.dev.g CENSUS_RING_SA_FIRST y ∨ s.dev.g CENSUS_RING_SA_LAST y < first.toNat) →
              Answers (.censusRingSa t x first last) s
                ((d.p CENSUS_RING_SA_FIRST x first.toNat).p CENSUS_RING_SA_LAST x last.toNat)))
      ∧ ∀ sa : BitVec 12, s.dev.admits t 0x1110 → regsRising 0 s.dev.regs = true →
          ∃ e, Answers (.censusLookup t sa) s e ∧ e.onlyRegs d [CENSUS_LOOKUP_SA.key 0]
            ∧ ∀ f : Dev, f.g CENSUS_LOOKUP_SA 0 = e.g CENSUS_LOOKUP_SA 0 →
              (f.holder sa.toNat = none → (f.fieldValue CENSUS_LOOKUP_HIT 0).1 = 0)
              ∧ ∀ i, f.holder sa.toNat = some i → (f.fieldValue CENSUS_LOOKUP_HIT 0).1 = 1 ∧ (f.fieldValue CENSUS_LOOKUP_INDEX 0).1 = i

/-- Permitted commands of T0. With no job: WALK starts at the root of the UID tree of a ring below DISC_RPM that stands still or has a valid angle, and REBUILD resets its counts and starts with the stored seeds of a ring of the active Reel at any speed; SERVICE_A and SERVICE_V need a service ring below 60 rpm, a queue with SOURCE 2 that T0 owns, and one with SOURCE 1, and start with their first frame. On a ring that the Reel does not define, or at the limit of its speed, they are refused, and so while a job runs. STOP marks the running job. The ENTRY job starts once it may serve and entries wait, in the order of their SAs. A walk's exchange is TREE with the prefix on top of its stack, placed in the fire queue of the job's Caller and counted; a walk whose ring has reached DISC_RPM ends there with WALK_ABORT. -/
def Obligations.CensusJobsStartAndAdvance : Prop :=
  ∀ (s : State) (t : Tenant) (x : Ring) (seg : Seg) (blocks : BitVec 13),
    let d := s.dev.touched
    let refused := d.p CENSUS_EVENTS_CMD_REFUSED 0 1
    (s.dev.admits t 0x1100 →
      (s.dev.cen.job = none → (s.dev.ringDef x).isSome = true →
          (s.dev.atSpeed x s.dev.discRpm = false → s.dev.ringStill x = true ∨ s.dev.ringValid x = true →
            Answers (.walk t x) s ((((d.putJob (newJob .walk x 0 0)).inCen fun c =>
              { c with job := c.job.map fun j => { j with stack := [(0, 0)] } }).p CENSUS_STATUS_STACK 0 1).p CENSUS_STATUS_PASS 0 1))
          ∧ (s.dev.atSpeed x s.dev.discRpm = true → Answers (.walk t x) s refused)
          ∧ Answers (.rebuild t x) s (d.startRebuild [x.val])
          ∧ (∃ e j, Answers (.rebuild t x) s e ∧ e.cen.job = some j ∧ j.kind = .rebuild ∧ j.ring = x.val ∧ j.list = s.dev.scanList x
              ∧ j.todo.length = (s.dev.cen.seeds.filter fun q => q.1 == x.val).length ∧ e.g CENSUS_STATUS_JOB = 2)
          ∧ ∀ e, s.dev.ringDef x = some e → e.service = true →
              (s.dev.atSpeed x 60 = false →
                s.dev.queueUsed (s.dev.g CENSUS_JOB_QUEUE) = true → s.dev.queueOwner (s.dev.g CENSUS_JOB_QUEUE) = 0 →
                s.dev.queueSource (s.dev.g CENSUS_JOB_QUEUE) = 2 → s.dev.serviceOut.isSome = true →
                Answers (.serviceA t x seg) s (d.putJob (newJob .serviceA x seg 0))
                ∧ Answers (.serviceV t x seg blocks) s (d.putJob (newJob .serviceV x seg blocks.toNat)))
              ∧ (s.dev.atSpeed x 60 = true → Answers (.serviceA t x seg) s refused ∧ Answers (.serviceV t x seg blocks) s refused))
      ∧ (s.dev.cen.job.isSome = true ∨ s.dev.ringDef x = none →
          Answers (.walk t x) s refused ∧ Answers (.rebuild t x) s refused ∧ Answers (.serviceA t x seg) s refused
            ∧ Answers (.serviceV t x seg blocks) s refused)
      ∧ ∀ j, s.dev.cen.job = some j → Answers (.stop t) s { d with cen := { d.cen with job := some { j with stop := true } } })
      ∧ (s.dev.cen.job = none → s.dev.cen.serve = true → s.dev.cen.waits ≠ [] →
          ∃ e, Answers .entryJob s e ∧ e.cen.serve = false ∧ e.g CENSUS_STATUS_JOB = 5
            ∧ ∃ j, e.cen.job = some j ∧ j.kind = .entry ∧ j.phase = .place ∧ j.list.length = s.dev.cen.waits.length)
      ∧ (s.dev.cen.serve = false → Answers .entryJob s s.dev)
      ∧ ∀ j, s.dev.cen.job = some j → j.kind = .walk → j.phase = .place → (s.dev.caller s.dev.jobCaller).queue.length < 4 →
          (∀ l pre rest, j.todo = [] → j.stack = (l, pre) :: rest → j.stop = false →
            (s.dev.ringDef j.ring).isSome = true → s.dev.atSpeed j.ring s.dev.discRpm = false → s.dev.jobCaller < 8 →
            ∃ e, Settles .jobExchangePlace s e ∧ (∃ j', e.cen.job = some j' ∧ j'.phase = .queued ∧ j'.step = some (.tree l pre) ∧ j'.stack = rest
                ∧ j'.queries = j.queries + 1)
              ∧ ∃ f, (e.caller s.dev.jobCaller).queue = (s.dev.caller s.dev.jobCaller).queue ++ [f] ∧ f.job = true ∧ f.tick = s.dev.now)
          ∧ (s.dev.atSpeed j.ring s.dev.discRpm = true →
            Settles .jobExchangePlace s (s.dev.p CENSUS_EVENTS_WALK_ABORT 0 1).endJob)

/-- For each operation of R213, the word with OP in bits 31 to 26 and the operands at the places of its format, every unused field 0, spells that instruction with those operands: rd, ra and rb in bits 25, 21 and 17 downwards, imm14 in bits 13 to 0, imm18 in bits 17 to 0; a branch has its two registers in the first two places. The all-zero word is NOP. A word whose OP is none of them spells the undefined opcode. -/
def Obligations.CallerWordsSpellTheirInstructions : Prop :=
  ∀ (k : CallerId) (rd ra rb : GReg) (m : BitVec 14) (i : BitVec 18),
    let r : Nat → Nat → Nat → Nat → Nat → Word := fun op d a b m => BitVec.ofNat 32 (op * 2 ^ 26 + d * 2 ^ 22 + a * 2 ^ 18 + b * 2 ^ 14 + m)
    let w : Nat → Nat → Nat → Nat → Word := fun op d a i => BitVec.ofNat 32 (op * 2 ^ 26 + d * 2 ^ 22 + a * 2 ^ 18 + i)
    instrOf k 0 = .nop k
      ∧ instrOf k (r 0x00 0 0 0 0) = .nop k
      ∧ instrOf k (r 0x01 rd ra rb 0) = .add k rd ra rb
      ∧ instrOf k (r 0x02 rd ra rb 0) = .sub k rd ra rb
      ∧ instrOf k (r 0x03 rd ra rb 0) = .and k rd ra rb
      ∧ instrOf k (r 0x04 rd ra rb 0) = .or k rd ra rb
      ∧ instrOf k (r 0x05 rd ra rb 0) = .xor k rd ra rb
      ∧ instrOf k (r 0x06 rd ra rb 0) = .shl k rd ra rb
      ∧ instrOf k (r 0x07 rd ra rb 0) = .shr k rd ra rb
      ∧ instrOf k (r 0x08 rd ra rb 0) = .sar k rd ra rb
      ∧ instrOf k (r 0x09 rd ra rb 0) = .mul k rd ra rb
      ∧ instrOf k (w 0x0A rd ra i.toNat) = .addi k rd ra i
      ∧ instrOf k (w 0x0B rd ra i.toNat) = .andi k rd ra i
      ∧ instrOf k (w 0x0C rd ra i.toNat) = .ori k rd ra i
      ∧ instrOf k (w 0x0D rd 0 i.toNat) = .lui k rd i
      ∧ instrOf k (w 0x0E rd ra i.toNat) = .shli k rd ra i
      ∧ instrOf k (w 0x0F rd ra i.toNat) = .shri k rd ra i
      ∧ instrOf k (w 0x18 rd ra i.toNat) = .beq k rd ra i
      ∧ instrOf k (w 0x19 rd ra i.toNat) = .bne k rd ra i
      ∧ instrOf k (w 0x1A rd ra i.toNat) = .blt k rd ra i
      ∧ instrOf k (w 0x1B rd ra i.toNat) = .bltu k rd ra i
      ∧ instrOf k (r 0x10 rd ra 0 m.toNat) = .ld k rd ra m
      ∧ instrOf k (r 0x11 rd ra 0 m.toNat) = .st k rd ra m
      ∧ instrOf k (r 0x12 rd ra 0 m.toNat) = .ldc k rd ra m
      ∧ instrOf k (r 0x13 rd 0 0 m.toNat) = .rds k rd m
      ∧ instrOf k (r 0x14 0 ra 0 m.toNat) = .wrs k ra m
      ∧ instrOf k (r 0x1C 0 0 0 m.toNat) = .jmp k m
      ∧ instrOf k (r 0x1D 0 0 0 m.toNat) = .call k m
      ∧ instrOf k (r 0x1E 0 0 0 0) = .ret k
      ∧ instrOf k (r 0x1F 0 0 0 0) = .endProgram k
      ∧ instrOf k (r 0x20 rd 0 0 m.toNat) = .slot k rd m
      ∧ instrOf k (r 0x21 0 ra 0 0) = .rel k ra
      ∧ instrOf k (r 0x22 0 ra rb 0) = .keep k ra rb
      ∧ instrOf k (r 0x23 rd ra 0 0) = .adopt k rd ra
      ∧ instrOf k (r 0x24 0 ra 0 0) = .useSlot k ra
      ∧ instrOf k (r 0x28 rd ra rb 0) = .claim k rd ra rb
      ∧ instrOf k (r 0x29 0 ra rb 0) = .field k ra rb
      ∧ instrOf k (r 0x2A rd ra rb 0) = .glide k rd ra rb
      ∧ instrOf k (r 0x2B rd ra 0 0) = .segl k rd ra
      ∧ instrOf k (r 0x2C rd ra 0 0) = .seam k rd ra
      ∧ instrOf k (r 0x2D rd ra 0 0) = .spos k rd ra
      ∧ instrOf k (r 0x30 rd ra 0 m.toNat) = .send k rd ra m
      ∧ instrOf k (r 0x31 0 ra rb 0) = .listen k ra rb
      ∧ instrOf k (r 0x32 rd ra 0 m.toNat) = .recv k rd ra m
      ∧ instrOf k (r 0x34 rd ra rb 0) = .push k rd ra rb
      ∧ instrOf k (r 0x35 rd ra 0 0) = .pop k rd ra
      ∧ instrOf k (r 0x38 0 ra 0 m.toNat) = .waitc k ra m
      ∧ instrOf k (r 0x39 0 ra 0 0) = .waita k ra
      ∧ instrOf k (r 0x3A 0 ra rb m.toNat) = .waitp k ra rb m
      ∧ instrOf k (r 0x3C rd ra 0 m.toNat) = .cen k rd ra m
      ∧ instrOf k (r 0x3D rd ra rb 0) = .bus k rd ra rb
      ∧ instrOf k (r 0x3F 0 0 0 m.toNat) = .entry k m
      ∧ ∀ (op : BitVec 6) (rest : BitVec 26), definedOp op.toNat = false → instrOf k (op ++ rest) = .undefinedOpcode k op

/-- While the program of Caller k runs with its next instruction in Call memory, each register instruction leaves its result in rd, as R213 gives it over the 32-bit values of its sources, and goes on at the next instruction; nothing else changes. Immediates of ADDI are signed, those of ANDI, ORI and LUI are not; shift counts are the low five bits. Writing g0 changes nothing, and it reads 0; a written register reads what was written and the others as before. NOP only goes on. At word 16,383 the next fetch faults: the program is aborted with the FETCH cause. A Caller that runs no program does nothing. -/
def Obligations.CallersCompute : Prop :=
  ∀ (s : State) (k : CallerId) (rd ra rb : GReg) (imm : BitVec 18),
    let a := s.dev.reg k ra
    let b := s.dev.reg k rb
    let n := b.toNat % 32
    let m := imm.toNat % 32
    let put := fun v => s.dev.putReg k rd v
    (s.dev.Runs k →
        Carries (.nop k) s k s.dev
        ∧ Carries (.add k rd ra rb) s k (put (BitVec.ofNat 32 (a.toNat + b.toNat)))
        ∧ Carries (.sub k rd ra rb) s k (put (BitVec.ofInt 32 ((a.toNat : Int) - b.toNat)))
        ∧ Carries (.and k rd ra rb) s k (put (BitVec.ofNat 32 (a.toNat &&& b.toNat)))
        ∧ Carries (.or k rd ra rb) s k (put (BitVec.ofNat 32 (a.toNat ||| b.toNat)))
        ∧ Carries (.xor k rd ra rb) s k (put (BitVec.ofNat 32 (a.toNat ^^^ b.toNat)))
        ∧ Carries (.shl k rd ra rb) s k (put (BitVec.ofNat 32 (a.toNat * 2 ^ n)))
        ∧ Carries (.shr k rd ra rb) s k (put (BitVec.ofNat 32 (a.toNat / 2 ^ n)))
        ∧ Carries (.sar k rd ra rb) s k (put (BitVec.ofInt 32 (a.toInt / 2 ^ n)))
        ∧ Carries (.mul k rd ra rb) s k (put (BitVec.ofNat 32 (a.toNat * b.toNat)))
        ∧ Carries (.addi k rd ra imm) s k (put (BitVec.ofInt 32 (a.toInt + imm.toInt)))
        ∧ Carries (.andi k rd ra imm) s k (put (BitVec.ofNat 32 (a.toNat &&& imm.toNat)))
        ∧ Carries (.ori k rd ra imm) s k (put (BitVec.ofNat 32 (a.toNat ||| imm.toNat)))
        ∧ Carries (.lui k rd imm) s k (put (BitVec.ofNat 32 (imm.toNat * 2 ^ 14)))
        ∧ Carries (.shli k rd ra imm) s k (put (BitVec.ofNat 32 (a.toNat * 2 ^ m)))
        ∧ Carries (.shri k rd ra imm) s k (put (BitVec.ofNat 32 (a.toNat / 2 ^ m))))
      ∧ (∀ (v : Word) (r : GReg), (put v).reg k r = if r.val = 0 then 0 else if r = rd then v else s.dev.reg k r)
      ∧ (rd.val = 0 → ∀ v, put v = s.dev)
      ∧ ((s.dev.caller k).st = .run → (s.dev.caller k).pc = 16383 →
          Answers (.nop k) s (s.dev.abortProgram k causeFetch)
          ∧ Answers (.add k rd ra rb) s ((put (BitVec.ofNat 32 (a.toNat + b.toNat))).abortProgram k causeFetch))
      ∧ ((s.dev.caller k).st ≠ .run → ∀ c, c = .nop k ∨ c = .add k rd ra rb ∨ c = .sub k rd ra rb ∨ c = .and k rd ra rb ∨ c = .or k rd ra rb
          ∨ c = .xor k rd ra rb ∨ c = .shl k rd ra rb ∨ c = .shr k rd ra rb ∨ c = .sar k rd ra rb ∨ c = .mul k rd ra rb ∨ c = .addi k rd ra imm
          ∨ c = .andi k rd ra imm ∨ c = .ori k rd ra imm ∨ c = .lui k rd imm ∨ c = .shli k rd ra imm ∨ c = .shri k rd ra imm → Answers c s s.dev)

/-- A running Caller. LD and ST read and write one word of its own data area, at ra + imm14 up to 1,791; beyond, the program is aborted with the DATA cause; the areas of two Callers share no word. LDC reads Call memory; beyond it the value is open. RDS reads what R220 names, an open value at another index. WRS of FLAGS clears those of bits 4 to 6 that are written 1; of another index it changes nothing. A branch goes to pc + 1 + offset where its condition holds, signed for BLT and unsigned for BLTU, else on; JMP and CALL go to the target, CALL with the return address in g15, RET to g15; a target beyond Call memory aborts with the FETCH cause. END leaves the Caller idle, counts the program and, where no RETIRE or FREE waits, changes nothing more than the clean-up of R217. -/
def Obligations.CallersLoadStoreAndBranch : Prop :=
  ∀ (s : State) (k : CallerId) (rd ra rb : GReg) (i14 : BitVec 14) (off : BitVec 18) (f : Fire),
    let a := s.dev.reg k ra
    let b := s.dev.reg k rb
    let at14 := (a.toNat + i14.toNat) % 2 ^ 32
    let pc := (s.dev.caller k).pc
    (s.dev.Runs k →
      (at14 ≤ 1791 → Carries (.ld k rd ra i14) s k (s.dev.putReg k rd (s.dev.rword (dataWord k at14)))
          ∧ Carries (.st k rd ra i14) s k (s.dev.ww (dataWord k at14) (s.dev.reg k rd).toNat))
      ∧ (1791 < at14 → Answers (.ld k rd ra i14) s (s.dev.abortProgram k causeData) ∧ Answers (.st k rd ra i14) s (s.dev.abortProgram k causeData))
      ∧ (at14 ≤ 16383 → Carries (.ldc k rd ra i14) s k (s.dev.putReg k rd (s.dev.rword (callBase + at14))))
      ∧ (16383 < at14 → ∃ v, Carries (.ldc k rd ra i14) s k (s.dev.drawn.putReg k rd v))
      ∧ ((s.dev.caller k).fire = some f → f.job = false →
          let rds := fun (i : BitVec 14) (v : Nat) => Carries (.rds k rd i) s k (s.dev.putReg k rd (BitVec.ofNat 32 v))
          rds 0 f.step ∧ rds 1 f.tenant ∧ rds 2 (lo32 f.tick) ∧ rds 3 (hi32 f.tick) ∧ rds 4 ((s.dev.now - f.tick) / 2)
            ∧ rds 5 (s.dev.ring f.ring).frac ∧ rds 6 (lo32 f.rev) ∧ rds 7 k ∧ rds 8 (s.dev.caller k).flags
            ∧ rds 9 ((s.dev.caller k).cur.getD 0xFFFFFFFF) ∧ rds 10 ((s.dev.slotsOf k).headD 0xFFFFFFFF))
      ∧ (10 < i14.toNat → ∃ v, Carries (.rds k rd i14) s k (s.dev.drawn.putReg k rd v))
      ∧ (∃ fl, Carries (.wrs k ra 8) s k (s.dev.putCaller k fun c => { c with flags := fl })
          ∧ ∀ i, fl.testBit i = ((s.dev.caller k).flags.testBit i && !(decide (4 ≤ i ∧ i ≤ 6) && a.toNat.testBit i)))
      ∧ (i14 ≠ 8 → Carries (.wrs k ra i14) s k s.dev))
      ∧ ((s.dev.caller k).st = .run →
          -- where a branch goes that is taken, or not; the block once it has gone there
          (let goal := fun taken : Bool => (pc + 1 + if taken then off.toInt else 0 : Int)
            let gone := fun taken : Bool => if 0 ≤ goal taken ∧ goal taken ≤ 16383 then s.dev.runAt k (goal taken).toNat else s.dev.abortProgram k causeFetch
            Answers (.beq k ra rb off) s (gone (decide (a = b))) ∧ Answers (.bne k ra rb off) s (gone (decide (a ≠ b)))
              ∧ Answers (.blt k ra rb off) s (gone (decide (a.toInt < b.toInt))) ∧ Answers (.bltu k ra rb off) s (gone (decide (a.toNat < b.toNat))))
          ∧ Answers (.jmp k i14) s (s.dev.runAt k i14.toNat)
          ∧ Answers (.call k i14) s ((s.dev.putReg k 15 (BitVec.ofNat 32 (pc + 1))).runAt k i14.toNat)
          ∧ Answers (.ret k) s (s.dev.runAt k ((s.dev.reg k 15).toNat % 16384))
          ∧ (s.dev.cen.held = [] → Answers (.endProgram k) s (s.dev.endProgram k)))
      ∧ ((s.dev.endProgram k).caller k).st = .idle ∧ ((s.dev.endProgram k).caller k).cur = none
      ∧ ∀ k' : CallerId, k ≠ k' → ∀ x y, x ≤ 1791 → y ≤ 1791 → dataWord k x ≠ dataWord k' y

/-- While no Caller waits for a slot and one is free for the kind, SLOT takes a free slot for its Caller, makes it current and goes on with its number in rd, and SB_PEAK keeps the highest count; where none is free, the Caller waits, or with NOWAIT goes on with all ones and SLOT_NONE. A grant serves the claim that R67 puts first, and with none to serve nothing changes. REL of an own slot releases it once nothing holds it; of another's it does nothing. A release asked for takes effect when the slot's last hold is gone, and not before. KEEP binds an own slot to the SA with no pass counted; ADOPT makes the kept slot of the SA the program's own, with its Step, priority and windows, and current, or answers all ones. A kept slot is released after 16 passes, and not before. USE makes an own slot current. Reserve: only BUS and JOB claims, and the hub's polling, use the last free slots. -/
def Obligations.SlotsAreClaimedAndReleased : Prop :=
  ∀ (s : State) (k : CallerId) (rd ra rb : GReg) (i14 : BitVec 14) (i : SlotId) (x : Slot),
    let me := s.dev.caller k
    let i32 := (s.dev.reg k ra).toNat
    let sb := (s.dev.reg k rb).toNat % 4096
    let adopted := fun (x : Slot) =>
      { x with caller := some k.val, home := some k.val, kept := none, rel := false, mask := s.dev.progMask k, prio := s.dev.progPrio k,
               step := me.fire.bind fun f => if f.job then none else some f.step, sa := (me.fire.map Fire.sa).getD 0 }
    (s.dev.Runs k →
      (∀ kind, (i14.toNat % 8, kind) ∈ [(0, SlotKind.air), (1, .decode), (2, .write), (3, .bus), (4, .job)] → s.dev.slotWaits = [] →
        (s.dev.slotFor kind = true → ∃ j p d, s.dev.slot j = none ∧ j < 256 ∧ Answers (.slot k rd i14) s (d.runAt k (me.pc + 1))
            ∧ d = (((s.dev.drawn.putSlot j (some (newSlot kind (some k) (me.fire.bind fun f => if f.job then none else some f.step)
                ((me.fire.map Fire.sa).getD 0) ((me.fire.map (·.prio)).getD 0)
                ((me.fire.map (·.mask)).getD (s.dev.g FLD_RETIRED_SEG))))).p SB_PEAK_PEAK 0 p).putCaller k
                  fun c => { c with cur := some j }).putReg k rd (BitVec.ofNat 32 j))
        ∧ (s.dev.slotFor kind = false →
            (i14.toNat.testBit 13 = false →
              Answers (.slot k rd i14) s (s.dev.putCaller k fun c => { c with st := .slot rd (i14.toNat % 8) s.dev.cycle }))
            ∧ (i14.toNat.testBit 13 = true → Carries (.slot k rd i14) s k ((s.dev.callerFlag k flagSlotNone true).putReg k rd allOnes))))
      ∧ (s.dev.owns k i32 = true → s.dev.slotHeld i32 = true → Carries (.rel k ra) s k (s.dev.updSlot i32 fun x => { x with rel := true }))
      ∧ (s.dev.owns k i32 = true → s.dev.slotHeld i32 = false →
          Carries (.rel k ra) s k ((s.dev.updSlot i32 fun x => { x with rel := true }).freeSlot i32)
          ∧ ((s.dev.updSlot i32 fun x => { x with rel := true }).freeSlot i32).slot i32 = none)
      ∧ (s.dev.owns k i32 = true →
          Carries (.keep k ra rb) s k
            (s.dev.updSlot i32 fun x => { x with kind := .write, kept := some { sa := sb, passes := 0 }, bound := some sb })
          ∧ Carries (.useSlot k ra) s k (s.dev.putCaller k fun c => { c with cur := some i32 }))
      ∧ (s.dev.owns k i32 = false → Carries (.rel k ra) s k s.dev ∧ Carries (.keep k ra rb) s k s.dev ∧ Carries (.useSlot k ra) s k s.dev)
      ∧ ((s.dev.slotsWhere fun x => x.caller == none && (x.kept.map (·.sa)) == some (i32 % 4096)) = [] →
          Carries (.adopt k rd ra) s k (s.dev.putReg k rd allOnes))
      ∧ ∀ j js, (s.dev.slotsWhere fun x => x.caller == none && (x.kept.map (·.sa)) == some (i32 % 4096)) = j :: js →
          Carries (.adopt k rd ra) s k
            (((s.dev.updSlot j adopted).putCaller k
              fun c => { c with cur := some j }).putReg k rd (BitVec.ofNat 32 j)))
      ∧ (s.dev.slotWinner = none → Answers .slotGrant s s.dev)
      ∧ (∀ prio t kind rd', s.dev.slotWinner = some (prio, t, k.val, kind) → (∃ code, me.st = .slot rd' code t) → me.pc < 16383 →
          ∃ j d, s.dev.slot j = none ∧ Answers .slotGrant s d ∧ (d.caller k).st = .run ∧ (d.caller k).pc = me.pc + 1
            ∧ (d.caller k).cur = some j ∧ d.reg k rd' = (if rd' = 0 then 0 else if rd' < 16 then BitVec.ofNat 32 j else 0)
            ∧ (d.slot j).bind (·.caller) = some k.val)
      ∧ (s.dev.slot i = some x →
          (x.rel = true → s.dev.slotHeld i = false → Answers (.slotRelease i) s (s.dev.freeSlot i))
          ∧ (x.rel = false ∨ s.dev.slotHeld i = true → Answers (.slotRelease i) s s.dev)
          ∧ ∀ q, x.kept = some q →
              (q.passes < 16 → Answers (.keptSlotRelease i) s s.dev)
              ∧ (16 ≤ q.passes → s.dev.cen.held = [] → Answers (.keptSlotRelease i) s (s.dev.dropKept i)))
      ∧ ∀ kind, s.dev.freeSlots ≤ s.dev.sbReserve → (s.dev.slotFor kind = true ↔ (kind = .bus ∨ kind = .job) ∧ 0 < s.dev.freeSlots)

/-- A running Caller with a current slot. CLAIM that the book takes enters a queued claim of the level's tokens and answers them; one that is refused answers all ones with REFUSED, and CLAIM_REFUSED is set. FIELD with level 0 gives up a start of the slot that waits there and ramps an own segment down; a level ramps an own segment with no claim queued, waits for the grant of a queued claim, and with neither is refused. GLIDE from a segment that is not in DRIVE, to one that is neither IDLE nor still to go to the slot, between segments that are no cover neighbours, or with no claim, is refused, with GLIDE_ABORT on both; with a granted claim it starts, with a queued one it waits. SEGL answers the segment whose effective window, as at the firing, holds the angle, all ones where none does; SEAM the end of a segment's window in the direction of rotation; SPOS the tag's stator point, with bit 31 while the ring is not valid, and only bit 31 is sure with no entry. -/
def Obligations.ProgramsDriveTheField : Prop :=
  ∀ (s : State) (k : CallerId) (rd ra rb : GReg) (i : Nat), s.dev.Runs k → (s.dev.caller k).cur = some i →
    let n := (s.dev.reg k ra).toNat
    let lv := (s.dev.reg k rb).toNat
    let own := ClaimOwner.slot i
    let c : Claim := { seg := n, owner := own, tokens := s.dev.tokens n lv, prio := s.dev.progPrio k, cycle := s.dev.cycle, caller := k }
    let most := if s.dev.tempWarn n then 50 else 100
    let mine := (if s.dev.hasGranted n own then s.dev.held n else 0) + s.dev.queuedTokens n own + c.tokens
    let refuse := fun (d : Dev) => d.callerFlag k flagRefused true
    let waiting := fun (x : SegState) => { x with heldStart := some { slot := i, level := lv, kind := .level, due := s.dev.now / 2 + 1 } }
    let gliding := fun (x : SegState) =>
      { x with heldStart := some { slot := i, level := (s.dev.reg k rd).toNat, kind := .glide n, due := s.dev.now / 2 + 1 } }
    let cannot := s.dev.segIsRetired n = true ∨ s.dev.domTakes (fldDom n) = false ∨ s.dev.g SEG_CAL_FSP n = 0 ∨ s.dev.fspEff n = 0
      ∨ s.dev.vdrvLow = true ∨ most < mine
    (n < 24 →
      (¬ cannot → Carries (.claim k rd ra rb) s k ((s.dev.inFld fun f => { f with claims := f.claims ++ [c] }).putReg k rd (BitVec.ofNat 32 c.tokens)))
      ∧ (cannot → Carries (.claim k rd ra rb) s k ((refuse (s.dev.set1 FLD_EVENTS_CLAIM_REFUSED)).putReg k rd allOnes))
      ∧ (lv = 0 → s.dev.hasGranted n own = true →
          Carries (.field k ra rb) s k ((s.dev.dropHeld n i).rampDown n))
      ∧ (lv = 0 → s.dev.hasGranted n own = false → Carries (.field k ra rb) s k (s.dev.dropHeld n i))
      ∧ (lv ≠ 0 → s.dev.hasGranted n own = true → s.dev.hasQueued n own = false →
          Carries (.field k ra rb) s k ((s.dev.putSeg n fun x => { x with tag := s.dev.progTag k }).rampLevel n lv))
      ∧ (lv ≠ 0 → s.dev.hasGranted n own = false → s.dev.hasQueued n own = false → Carries (.field k ra rb) s k (refuse s.dev))
      ∧ (lv ≠ 0 → s.dev.hasGranted n own = false → s.dev.hasQueued n own = true →
          Carries (.field k ra rb) s k
            ((s.dev.putSeg n fun x => { x with tag := s.dev.progTag k }).putSeg n waiting)))
      ∧ (24 ≤ n → Carries (.claim k rd ra rb) s k ((refuse s.dev).putReg k rd allOnes) ∧ Carries (.field k ra rb) s k (refuse s.dev))
      ∧ (s.dev.segState n ≠ segDrive ∨ s.dev.glideReady lv own = false ∨ s.dev.coverPair n lv = false ∨
            (s.dev.hasGranted lv own = false ∧ s.dev.hasQueued lv own = false) →
          Carries (.glide k rd ra rb) s k (refuse ((s.dev.set1 SEG_FAULT_GLIDE_ABORT n).set1 SEG_FAULT_GLIDE_ABORT lv)))
      ∧ (s.dev.segState n = segDrive → s.dev.segState lv = segIdle → s.dev.coverPair n lv = true → s.dev.hasGranted lv own = true →
          Carries (.glide k rd ra rb) s k (s.dev.startGlide n lv (s.dev.reg k rd).toNat))
      ∧ (s.dev.segState n = segDrive → s.dev.glideReady lv own = true → s.dev.coverPair n lv = true → s.dev.hasGranted lv own = false →
          s.dev.hasQueued lv own = true →
          Carries (.glide k rd ra rb) s k (s.dev.putSeg lv gliding))
      ∧ (∀ e, s.dev.progEntry k = some e →
          (∀ seg, e.segAt (s.dev.progMask k) (n % 2 ^ 24) = some seg → Carries (.segl k rd ra) s k (s.dev.putReg k rd (BitVec.ofNat 32 seg)))
          ∧ (e.segAt (s.dev.progMask k) (n % 2 ^ 24) = none → Carries (.segl k rd ra) s k (s.dev.putReg k rd 0xFFFFFFFF))
          ∧ (e.segs.contains n = true →
              let w := e.windowAt (s.dev.progMask k) (e.place n)
              Carries (.seam k rd ra) s k
                (s.dev.putReg k rd (BitVec.ofNat 32 (if s.dev.ringReverse (s.dev.progRing k) then w.1 else w.2.1))))
          ∧ (e.segs.contains n = false → ∃ v, Carries (.seam k rd ra) s k (s.dev.drawn.putReg k rd v)))
      ∧ (∀ p, s.dev.tagPoint (s.dev.progRing k) (n % 4096) = some p →
          Carries (.spos k rd ra) s k
            (s.dev.putReg k rd (BitVec.ofNat 32 (p + if s.dev.ringValid (s.dev.progRing k) then 0 else 2 ^ 31))))
      ∧ (s.dev.tagPoint (s.dev.progRing k) (n % 4096) = none →
          ∃ v : Word, v.getLsbD 31 = true ∧ Carries (.spos k rd ra) s k (s.dev.drawn.putReg k rd v))

/-- A running Caller. SEND of 1 to 1,024 bits that lie in its data, of a frame other than AUTH, for the current slot sends it and answers its end in carrier cycles since the firing; a buffer beyond the data aborts with the DATA cause. LISTEN opens the window that rb describes on the lane of the role, timed from the slot's last SEND; a role that no lane serves aborts with the LISTEN cause. RECV waits for a record, or takes one that stands: the record and payload go to data, the status to rd. PUSH to a queue that is not the program's is refused with 0 and REFUSED; to one that is, it pushes the word and answers 1. POP of an own SOURCE 2 queue answers its word and sets MARKER, and UNDER on an empty one. CEN answers a word of the entry, or 0 with NOENT. BUS hands its transaction to the bus and waits, or with no current slot answers NO_SLOT. ENTRY only goes on. -/
def Obligations.ProgramsSendAndListen : Prop :=
  ∀ (s : State) (k : CallerId) (rd ra rb : GReg) (i14 : BitVec 14), s.dev.Runs k →
    let a := (s.dev.reg k ra).toNat
    let n := s.dev.rf (dataWord k a) 0 11
    let bits := s.dev.sendBits k a n
    (∀ i, (s.dev.caller k).cur = some i → a + ceilDiv n 32 ≤ 1791 → 1 ≤ n → n ≤ 1024 → msbNat (slice bits 0 8) ≠ 0x20 →
        let r := s.dev.sendFrame i (s.dev.fireTick k) (i14.toNat % 128) bits
        Carries (.send k rd ra i14) s k (r.2.putReg k rd (BitVec.ofNat 32 ((r.1 - s.dev.fireTick k) / 2)))
          ∧ r.1 = s.dev.fireTick k + 2 * s.dev.sendStart (s.dev.fireTick k) (s.dev.sendSegs i) + 2 * (16 * (bits.length + 20)))
      ∧ (1791 < a ∨ 1791 < a + ceilDiv n 32 → Answers (.send k rd ra i14) s (s.dev.abortProgram k causeData))
      ∧ (s.dev.laneForSlot (s.dev.caller k).cur a = none → Answers (.listen k ra rb) s (s.dev.abortProgram k causeListen))
      ∧ (∀ l i x, s.dev.laneForSlot (s.dev.caller k).cur a = some l → (s.dev.caller k).cur = some i → s.dev.slot i = some x →
          let p := (s.dev.reg k rb).toNat
          Carries (.listen k ra rb) s k
            (s.dev.openWindow l
              { slot := i, first := p % 32, gen := p / 32 % 4, anyGen := false, onbeat := p.testBit 7, offset := p / 256 % 64,
                hold := p / 16384 % 16, rate := p / 262144 % 4, z64 := p.testBit 20, cmdEnd := x.sent.getD s.dev.now, tree := none,
                sa := x.target }))
      ∧ (∀ l, s.dev.laneForSlot (s.dev.caller k).cur a = some l →
          ((s.dev.lane l).record = none → Answers (.recv k rd ra i14) s (s.dev.putCaller k fun c => { c with st := .frame l rd i14.toNat }))
          ∧ ∀ i rec pay d, (s.dev.lane l).record = some (i, rec, pay) →
              (s.dev.putLane l fun x => { x with record := none }).storeData k i14.toNat (rec ++ packHalves pay) = (true, d) →
              Carries (.recv k rd ra i14) s k (d.putReg k rd (rec.getD 0 0)))
      ∧ (s.dev.mayPush k a = false → Carries (.push k rd ra rb) s k ((s.dev.callerFlag k flagRefused true).putReg k rd 0))
      ∧ (s.dev.mayPush k a = true → (s.dev.caller k).cut.contains a = true → Carries (.push k rd ra rb) s k (s.dev.putReg k rd 1))
      ∧ (s.dev.mayPush k a = true → (s.dev.caller k).cut.contains a = false →
          let r := s.dev.pushWord a (s.dev.reg k rb) (some k)
          let d := r.2.putCaller k fun c => { c with cut := if r.1 then c.cut else c.cut ++ [a] }
          Settles (.push k rd ra rb) s ((d.putReg k rd 1).runAt k ((s.dev.caller k).pc + 1)))
      ∧ (a < 64 → s.dev.queueUsed a = true → s.dev.queueSource a = 2 → s.dev.queueOwner a = s.dev.progTenant k →
          let r := s.dev.popWord a
          let d := r.dev.callerFlag k flagMarker r.word.marker
          Settles (.pop k rd ra) s
            (((d.when r.under fun d => d.callerFlag k flagUnder true).putReg k rd r.word.w).runAt k ((s.dev.caller k).pc + 1)))
      ∧ (64 ≤ a ∨ s.dev.queueUsed a = false ∨ s.dev.queueSource a ≠ 2 ∨ s.dev.queueOwner a ≠ s.dev.progTenant k →
          ∃ v, Carries (.pop k rd ra) s k ((s.dev.callerFlag k flagMarker false).drawn.putReg k rd v))
      ∧ (s.dev.holder (a % 4096) = none → Carries (.cen k rd ra i14) s k ((s.dev.callerFlag k flagNoent true).putReg k rd 0))
      ∧ (∀ i, s.dev.holder (a % 4096) = some i → i14 ≠ 8 →
          Carries (.cen k rd ra i14) s k (s.dev.putReg k rd (s.dev.rword (cenBase + 8 * i + i14.toNat % 8))))
      ∧ ((s.dev.caller k).cur = none → ∃ v, Carries (.bus k rd ra rb) s k (s.dev.drawn.putReg k rd (BitVec.ofNat 32 (busWord busNoSlot 0 0 0 v))))
      ∧ (∀ i, (s.dev.caller k).cur = some i →
          let b := (s.dev.reg k rb).toNat
          let t : Txn := { caller := some (k, rd, a), poll := none, slot := i, desc := [], base := 0, tBus := 0, tries := 0, retry := false, multi := false }
          (b ≤ 3 → s.dev.domTakes domSio = true →
            Answers (.bus k rd ra rb) s
              (((s.dev.drawn.updSlot i fun x => { x with bus := true }).putBusWait b fun l => l ++ [t]).putCaller k
                fun c => { c with st := .bus b rd a }))
          ∧ (3 < b ∨ s.dev.domTakes domSio = false → ∃ v, Carries (.bus k rd ra rb) s k (s.dev.drawn.putReg k rd v)))
      ∧ Carries (.entry k i14) s k s.dev

/-- A running Caller whose wait is not yet over stops with that wait; one whose wait is already over goes on. Each of the three ends of a wait lets the Caller go on once its target is reached, and changes nothing before, or where the Caller does not wait. An undefined opcode aborts with the OPCODE cause, and the limit aborts a program that is past it, and no other. A mismatch marks the pair failed, sets MISMATCH and stops each Caller that it serves. The take-over by the spare pair moves the Caller to it, records it, and restarts a program at its ENTRY with RESTART set; with nothing to take over it changes nothing. HOLD is stored. -/
def Obligations.WaitsAndLimitsOfPrograms : Prop :=
  ∀ (s : State) (k : CallerId) (ra rb : GReg) (i14 : BitVec 14) (t : Tenant) (v : Bool),
    let pc := (s.dev.caller k).pc
    let waits := fun (w : CallerWait) => s.dev.putCaller k fun c => { c with st := w }
    let go := s.dev.runAt k (pc + 1)
    let cyc := (s.dev.reg k ra + i14.setWidth 32).toNat
    let ang := (s.dev.reg k ra).toNat % 2 ^ 24
    let sa := (s.dev.reg k rb).toNat % 4096
    (s.dev.Runs k →
        (s.dev.timeReached k cyc = false → Answers (.waitc k ra i14) s (waits (.time cyc)))
        ∧ (s.dev.timeReached k cyc = true → Answers (.waitc k ra i14) s go)
        ∧ (s.dev.angleReached k ang = false → Answers (.waita k ra) s (waits (.angle ang)))
        ∧ (s.dev.angleReached k ang = true → Answers (.waita k ra) s go)
        ∧ (s.dev.pointReached k sa ang i14.toNat = false → Answers (.waitp k ra rb i14) s (waits (.point sa ang i14.toNat)))
        ∧ (s.dev.pointReached k sa ang i14.toNat = true → Answers (.waitp k ra rb i14) s go)
        ∧ ∀ op : BitVec 6, definedOp op.toNat = false → s.dev.cen.held = [] →
            Answers (.undefinedOpcode k op) s (s.dev.abortProgram k causeOpcode))
      ∧ (pc < 16383 →
          (∀ n, (s.dev.caller k).st = .time n → (s.dev.timeReached k n = true → Answers (.waitcReached k) s go)
              ∧ (s.dev.timeReached k n = false → Answers (.waitcReached k) s s.dev))
          ∧ (∀ f, (s.dev.caller k).st = .angle f → (s.dev.angleReached k f = true → Answers (.waitaReached k) s go)
              ∧ (s.dev.angleReached k f = false → Answers (.waitaReached k) s s.dev))
          ∧ ∀ x f c, (s.dev.caller k).st = .point x f c → (s.dev.pointReached k x f c = true → Answers (.waitpReached k) s go)
              ∧ (s.dev.pointReached k x f c = false → Answers (.waitpReached k) s s.dev))
      ∧ ((s.dev.caller k).st = .run → Answers (.waitcReached k) s s.dev ∧ Answers (.waitaReached k) s s.dev ∧ Answers (.waitpReached k) s s.dev)
      ∧ (s.dev.programLives k = true → s.dev.programLimit ≤ s.dev.progNow k → s.dev.cen.held = [] →
          Answers (.programTimeout k) s (s.dev.abortProgram k causeLimit))
      ∧ (s.dev.programLives k = false ∨ s.dev.progNow k < s.dev.programLimit → Answers (.programTimeout k) s s.dev)
      ∧ (let p := s.dev.g CL_STATUS_PAIR k
         p ≤ 8 → ∃ d, Answers (.lockstepMismatch k) s d ∧ (d.g CALL_PAIR_FAILED).testBit p = true ∧ d.flag CALL_EVENTS_MISMATCH = true
          ∧ (∀ j : CallerId, s.dev.g CL_STATUS_PAIR j = p → (d.caller j).st = .takeOver (s.dev.programLives j))
          ∧ (∀ j : CallerId, s.dev.g CL_STATUS_PAIR j ≠ p → d.caller j = s.dev.caller j)
          ∧ d.fig.slots = s.dev.fig.slots ∧ d.sram = s.dev.sram ∧ d.fld = s.dev.fld ∧ d.rx = s.dev.rx)
      ∧ ((∀ b, (s.dev.caller k).st ≠ .takeOver b) → Settles (.spareTakeover k) s s.dev)
      ∧ (∀ f, (s.dev.caller k).st = .takeOver true → (s.dev.caller k).fire = some f → f.job = false → s.dev.g CALL_PAIR_SPARE_FOR = 15 →
          (s.dev.g CALL_PAIR_FAILED).testBit 8 = false →
          Settles (.spareTakeover k) s
            ((((((s.dev.p CL_STATUS_PAIR k 8).p CALL_PAIR_SPARE_FOR 0 k).set1 CALL_EVENTS_SPARED).p HEALTH_SPARES_PAIR 0 0).raise codeCallerSpared k
              (s.dev.g CL_STATUS_PAIR k)).loadFire k f true))
      ∧ (∀ (d : Dev) (f : Fire), let e := d.loadFire k f true
          (e.caller k).st = .run ∧ (e.caller k).pc = f.entry ∧ (e.caller k).cur = none ∧ (e.caller k).flags.testBit flagRestart = true
            ∧ e.reg k 1 = BitVec.ofNat 32 f.sa ∧ e.reg k 4 = f.g4 ∧ e.sram = d.sram)
      ∧ (s.dev.admits t 0x1220 → Answers (.hold t v) s (s.dev.touched.pf CALL_CTRL_HOLD 0 v))

/-- A commit takes the dirty Steps of the tenant's slice that pass, leaves those that fail and reports them, and holds itself during a rebuild, but goes before that of a higher-numbered tenant which began in the same cycle; at the end of the rebuild its Steps are in the index. A Step that may fire and whose angle its ring has passed in this tick falls due in the order of R207 and may not fire again in this revolution; one that may not, or has not been passed, does nothing. The first due Step goes to its Caller's queue, or is dropped as R209 says and counted. An idle Caller whose pair is free, and whose last program's segments have begun to fall, takes its next entry, and its program starts at ENTRY; a Caller that is not idle takes none. An audit that finds every book right only counts itself; a wrong token book is charged and recorded. -/
def Obligations.StepsFireOnceAndInOrder : Prop :=
  ∀ (s : State) (t : Tenant) (i : StepId) (k : CallerId),
    let d := s.dev.touched
    (s.dev.admits t 0x1201 →
        (∀ u, s.dev.fig.rebuild = some u → u.cycle ≠ s.dev.cycle ∨ u.tenant ≤ t.val → Answers (.figCommit t) s (d.setBit FIG_STATUS_PENDING 0 t))
        ∧ (∀ u, s.dev.fig.rebuild = some u → u.cycle = s.dev.cycle → t.val < u.tenant → (s.dev.tenantDef t).isSome = true →
            ∃ e v, Answers (.figCommit t) s e ∧ e.fig.rebuild = some v ∧ v.tenant = t.val
              ∧ e.g FIG_STATUS_PENDING = (s.dev.setBit FIG_STATUS_PENDING 0 u.tenant).g FIG_STATUS_PENDING)
        ∧ ∀ e, s.dev.fig.rebuild = none → s.dev.tenantDef t = some e →
            let ok := (s.dev.dirtyOf e).filter (s.dev.stepPasses e)
            let start := fun (d : Dev) => (d.inFig fun f => { f with dirty := f.dirty.filter fun i => !ok.contains i
                                                                     index := f.index.filter fun i => !ok.contains i
                                                                     rebuild := some ⟨t.val, ok, s.dev.cycle, s.dev.fig.index⟩ }).set1 FIG_STATUS_BUSY
            ((∀ n ∈ s.dev.dirtyOf e, s.dev.stepPasses e n = true) → Answers (.figCommit t) s (start d))
            ∧ ((∃ n ∈ s.dev.dirtyOf e, s.dev.stepPasses e n = false) → Answers (.figCommit t) s (start (d.set1 FIG_EVENTS_COMMIT_REJECT))))
      ∧ (s.dev.fig.rebuild = none → Answers .figRebuildDone s s.dev)
      ∧ (∀ u, s.dev.fig.rebuild = some u → s.dev.g FIG_STATUS_PENDING = 0 →
          Answers .figRebuildDone s
            ((s.dev.inFig fun f => { f with index := f.index.filter (fun i => !u.adds.contains i) ++ u.adds, rebuild := none }).p FIG_STATUS_BUSY 0 0))
      ∧ (s.dev.mayFire i = false → Answers (.stepFire i) s s.dev)
      ∧ (let r := s.dev.ring (s.dev.stepRing i)
         s.dev.mayFire i = true → r.reseatFrom = none →
          let way := passedAt (s.dev.ringReverse (s.dev.stepRing i)) r.prevFrac r.frac (s.dev.stepAngle i)
          (way = none → Answers (.stepFire i) s s.dev)
          ∧ ∀ w, way = some w →
              let fire := s.dev.fireOf i w false
              Answers (.stepFire i) s ((fire.2.noteFired i).inFig fun g => { g with due := insertBy fireBefore fire.1 g.due })
                ∧ fire.1.step = i.val ∧ fire.1.tick = s.dev.now ∧ fire.1.rev = r.count)
      ∧ (s.dev.noteFired i).mayFire i = false
      ∧ (s.dev.fig.due = [] → Answers .stepDispatch s s.dev)
      ∧ (∀ f fs, s.dev.fig.due = f :: fs →
          let e := s.dev.inFig fun g => { g with due := fs }
          let lost := e.bump FIG_CNT_B_DROPPED
          let dark := s.dev.domTakes domCall = false ∨ ∀ k < 8, s.dev.pairWorks k = false
          (dark → Answers .stepDispatch s (lost.set1 FIG_EVENTS_DARK))
          ∧ (¬ dark → s.dev.flag CALL_CTRL_HOLD = true → Answers .stepDispatch s lost)
          ∧ (¬ dark → s.dev.flag CALL_CTRL_HOLD = false →
              (s.dev.entryOk f = false → Answers .stepDispatch s (lost.set1 FIG_EVENTS_ENTRY_FAULT))
              ∧ (s.dev.entryOk f = true → 4 ≤ (s.dev.caller f.caller).queue.length →
                  Answers .stepDispatch s ((e.bump FIG_CNT_B_OVERRUN).set1 FIG_EVENTS_OVERRUN))
              ∧ (s.dev.entryOk f = true → (s.dev.caller f.caller).queue.length < 4 →
                  Answers .stepDispatch s ((e.inc FIG_CNT_A_FIRED).putCaller f.caller fun c => { c with queue := c.queue ++ [f] }))))
      ∧ ((s.dev.caller k).st ≠ .idle ∨ (s.dev.caller k).queue = [] → Answers (.programStart k) s s.dev)
      ∧ (∀ f, (s.dev.caller k).st = .idle → s.dev.nextEntry k = some f → f.job = false → s.dev.pairWorks k = true → s.dev.pairTaken k f = false → s.dev.fallsBegun k = true →
          Answers (.programStart k) s ((s.dev.putCaller k fun c => { c with queue := c.queue.erase f }).loadFire k f false))
      ∧ (s.dev.admits t 0x1218 → s.dev.slotsOk = true → (∀ n ∈ s.dev.creditBooks, s.dev.creditsOk n = true) →
          let e := fun b => (((d.inc BOOK_AUDIT_SEQ).pf BOOK_AUDIT_TOKENS_OK 0 b).pf BOOK_AUDIT_SLOTS_OK 0 true).pf BOOK_AUDIT_CREDITS_OK 0 true
          (s.dev.tokensOk = true → Settles (.bookAudit t) s (e true))
          ∧ (s.dev.tokensOk = false → Settles (.bookAudit t) s (((e false).bump BOOK_ERR_TOKENS).raise codeBookFault 0)))

/-- The oldest sample in the intake buffer goes to the entry that watches its channel while its inbox has room, waits there otherwise, and is counted UNWATCHED where none is fed or intake is off. An engine that waits for no full inbox applies the message at the head of its inbox: one for no slot, or of a type that the slot's kind does not take, counts TYPE_ERR; one for a slot that is off is dropped. A THRESH slot's level rises at HI and above, falls at LO and below, and stays as it was between. A RATE slot whose bucket is used up suppresses the message and counts it. A stall drop discards and counts the message that waits. A RATE bucket gains its token REFILL ticks after the last, and not before. -/
def Obligations.HubAppliesMessagesInOrder : Prop :=
  ∀ (s : State) (e : Engine) (n : Fin 1024),
    let x := s.dev.engine e
    (s.dev.hub.intake = [] → Settles .sampleIntake s s.dev)
      ∧ (∀ m rest, s.dev.hub.intake = m :: rest →
          let popped := (s.dev.inHub fun h => { h with intake := rest }).endPoll m.last
          (s.dev.flag HUB_CTRL_INTAKE_EN = false ∨ s.dev.fedEntries m.chan = [] → Settles .sampleIntake s (popped.bump HUB_INTAKE_UNWATCHED))
          ∧ ∀ w i, s.dev.flag HUB_CTRL_INTAKE_EN = true → s.dev.fedEntries m.chan = [(w, i)] →
              let box := (s.dev.engine (s.dev.engineOf (s.dev.sampleMsg m w i))).inbox.length
              (box < 256 → Settles .sampleIntake s (((popped.inc HUB_SAMPLES_COUNT).countStamps m [(w, i)]).feed m w i))
              ∧ (256 ≤ box → Settles .sampleIntake s s.dev))
      ∧ (x.out = [] → x.inbox = [] → Settles (.messageApply e) s s.dev)
      ∧ (∀ m ms, x.out = [] → x.inbox = m :: ms →
          let d := s.dev.putEngine e fun x => { x with inbox := ms }
          (s.dev.hubSlot m.slot = none → Settles (.messageApply e) s (d.bump HUB_ERR_TYPE_ERR))
          ∧ ∀ k, s.dev.hubSlot m.slot = some k →
              (kindAccepts k.kind m.level = false → Settles (.messageApply e) s (d.bump HUB_ERR_TYPE_ERR))
              ∧ (kindAccepts k.kind m.level = true → s.dev.hub.slotsOff.contains k.index = true → Settles (.messageApply e) s d)
              ∧ (s.dev.hub.slotsOff.contains k.index = false → k.dropInvalid = false ∨ m.inv = false →
                  (k.kind = kindThresh → m.level = false → k.u8 20 = 0 → k.s16 18 ≤ k.s16 16 →
                    ∃ e', Settles (.messageApply e) s e' ∧
                      ((k.s16 16 ≤ m.v → k.s16 18 < m.v ∨ (s.dev.runOf k.index).out = false → (e'.runOf k.index).out = true)
                        ∧ (m.v ≤ k.s16 18 → m.v < k.s16 16 ∨ (s.dev.runOf k.index).out = true → (e'.runOf k.index).out = false)
                        ∧ (k.s16 18 < m.v → m.v < k.s16 16 → (e'.runOf k.index).out = (s.dev.runOf k.index).out)))
                  ∧ (k.kind = kindRate → k.u16 16 ≤ (s.dev.runOf k.index).taken →
                    ∃ e', Settles (.messageApply e) s e' ∧ (e'.runOf k.index).supp = (s.dev.runOf k.index).supp + 1
                      ∧ (e'.runOf k.index).taken = (s.dev.runOf k.index).taken)))
      ∧ (x.out = [] → Answers (.stallDrop e) s s.dev)
      ∧ (∀ m ms, x.out = m :: ms → Answers (.stallDrop e) s ((s.dev.bump HUB_ENG_STALL_DROP e).putEngine e fun x => { x with out := ms, stall := 0 }))
      ∧ ∀ k, s.dev.hubSlot n = some k →
          let r := s.dev.runOf n
          let due := r.refill + max 1 (k.u32 20)
          (k.kind = kindRate → 0 < r.taken → due ≤ s.dev.now →
            Answers (.rateRefill n) s (s.dev.putRun n fun r => { r with taken := r.taken - 1, refill := due }))
          ∧ (k.kind ≠ kindRate ∨ r.taken = 0 ∨ s.dev.now < due → Answers (.rateRefill n) s s.dev)

/-- A pop by the owner returns the head word with its kind and removes it; at depth 0 it returns the last word again, or 0, sets UNDER, counts UNDERRUNS and leaves the queue; another reader gets 0 and pops nothing; a pop of a SOURCE 2 queue sets DIR_ERR. A word that the owner pushes to a SOURCE 2 queue is dropped, counted and marked where the queue is full, and else enters at the tail, behind a pending marker; a push to another queue sets DIR_ERR. A pending marker enters where there is room, and nothing happens without one. A reset of a queue with words leaves its RESET marker alone in it. An audit that finds the pool right only counts itself; one that does not starts a mark pass, whose end gives the orphans back. -/
def Obligations.QueuesKeepTheirWords : Prop :=
  ∀ (s : State) (t : Tenant) (q : QueueId) (w : Word),
    let d := s.dev.touched
    let x := s.dev.queue q
    let one : List QWord := [{ w := w, marker := false }]
    (s.dev.tenantPresent t = true → s.dev.judge t (0x1800 + 8 * q) false = .pass →
        (s.dev.queueOwner q ≠ t → Settles (.queuePop t q) s (d.putRead t 0))
        ∧ (s.dev.queueOwner q = t → s.dev.queueSource q = 2 → Settles (.queuePop t q) s ((d.set1 Q_EVT_DIR_ERR q).putRead t 0))
        ∧ (s.dev.queueOwner q = t → s.dev.queueSource q ≠ 2 →
            (∀ y ys, x.words = y :: ys →
              Settles (.queuePop t q) s ((d.registerPop q).2.putRead t y.w) ∧ ((d.registerPop q).2.queue q).words = ys)
            ∧ (x.words = [] →
                let last := x.last.getD { w := 0, marker := false }
                let e := (d.bump Q_DROPS_UNDERRUNS q).set1 Q_STAT_UNDER q
                Settles (.queuePop t q) s
                  (((e.p Q_STAT_KIND q (flagOf last.marker)).p Q_STAT_KHIST q (s.dev.g Q_STAT_KHIST q * 2 + flagOf last.marker)).putRead t last.w))))
      ∧ (s.dev.admits t (0x1800 + 8 * q) →
          (s.dev.queueSource q ≠ 2 → Settles (.queuePush t q w) s (d.set1 Q_EVT_DIR_ERR q))
          ∧ (s.dev.queueSource q = 2 → x.seated = true →
              (s.dev.queueFull q = true →
                Settles (.queuePush t q w) s (d.dropPush q false)
                ∧ ((d.dropPush q false).queue q).words = x.words
                ∧ (x.mark = none → ((d.dropPush q false).queue q).mark = some (markerWord markGap q 1)))
              ∧ (s.dev.queueFull q = false → s.dev.hasRoom q (markWords x ++ one).length = true →
                ∃ e, Settles (.queuePush t q w) s e ∧ (e.queue q).mark = none
                  ∧ (e.queue q).words = x.words ++ markWords x ++ one)))
      ∧ (x.mark = none → Settles (.markerEntry q) s s.dev)
      ∧ (∀ m, x.mark = some m → s.dev.queueUsed q = true → x.seated = true → s.dev.queueFull q = false → s.dev.hasRoom q 1 = true →
          ∃ e, Settles (.markerEntry q) s e ∧ (e.queue q).mark = none ∧ (e.queue q).words = x.words ++ [{ w := m, marker := true }])
      ∧ (s.dev.admits t (0x1805 + 8 * q) → s.dev.queueUsed q = true → x.seated = true → x.words ≠ [] →
          ∃ e, Settles (.queueReset t q) s e ∧ (e.queue q).words = [{ w := markerWord markReset q 0xFFFF, marker := true }]
            ∧ (e.queue q).mark = none ∧ ∀ n : QueueId, n ≠ q → (e.queue n).words = (s.dev.queue n).words)
      ∧ (s.dev.admits t 0x182F →
          (s.dev.poolOk = true → Settles (.poolAudit t) s ((d.inc POOL_AUDIT_SEQ).pf POOL_AUDIT_OK 0 true))
          ∧ (s.dev.poolOk = false → Settles (.poolAudit t) s
              (((((((d.inc POOL_AUDIT_SEQ).pf POOL_AUDIT_OK 0 false).bump POOL_ERR_FAILS).set1 POOL_EVENTS_AUDIT_FAIL).set1 POOL_AUDIT_BUSY).raise
                codeBookFault 3))))
      ∧ (s.dev.flag POOL_AUDIT_BUSY = false → Settles .markPassDone s s.dev)
      ∧ (s.dev.flag POOL_AUDIT_BUSY = true → s.dev.que.orphans = 0 →
          Settles .markPassDone s ((((s.dev.p POOL_AUDIT_BUSY 0 0).inQue fun u => { u with orphans := 0 }).bump POOL_ERR_RECLAIMED 0 0)))

/-- FREE and the cells of all queues together stay what they are through a push, a pop, the entry of a marker and a reset of any queue, and every queue's head offset stays below 4; the premise that the offsets are below 4 holds at reset. -/
def Obligations.PoolBookBalances : Prop :=
  let heads := fun (d : Dev) => ∀ n < 64, (d.queue n).head < 4
  let book := fun (d : Dev) => d.que.free + d.queuedCells
  heads State.reset.dev ∧ book State.reset.dev = 65536
    ∧ ∀ (d : Dev) (q : QueueId) (w : Word), heads d →
        (book (d.pushWord q w).2 = book d ∧ heads (d.pushWord q w).2)
        ∧ (book (d.popWord q).dev = book d ∧ heads (d.popWord q).dev)
        ∧ (book (d.enterMarker q) = book d ∧ heads (d.enterMarker q))
        ∧ book (d.resetQueue q) = book d ∧ heads (d.resetQueue q)

/-- The first waiting transaction of a free, enabled bus whose lines are free starts where its descriptor is accepted, and ends DISABLED or BAD_DESC otherwise; a busy bus starts none. A running transaction ends OK, NACK_DATA, or, after its retries, NACK_ADDR; before, it waits to try again, and the retry runs it anew with its t_bus. At 25 ms with SCL low it ends TIMEOUT and the bus shows it. A due poll that runs still, or finds no slot, counts its skip; else it takes a slot and waits for its bus; a disabled one does nothing. An edge at an enabled input is stored and offered with its stamp; a disabled one is only shown. A reset of an idle bus changes nothing; of a busy one it ends the transaction ABORTED. -/
def Obligations.BusTransactionsRunInTurn : Prop :=
  ∀ (s : State) (b : BusId) (held freed : Bool),
    (∀ t rest, s.dev.busRun b = none → s.dev.busWait b = t :: rest →
        let d := s.dev.putBusWait b fun _ => rest
        let fails := fun r => ∃ v, Settles (.busTransactionStart b held freed) s (d.drawn.finishTxn b t r 0 v false)
        (s.dev.busEnabled b = false → fails busDisabled)
        ∧ (s.dev.busEnabled b = true → s.dev.readDesc t = none → fails busBadDesc)
        ∧ ∀ ws, s.dev.busEnabled b = true → s.dev.readDesc t = some ws →
            let base := (t.poll.map fun p => s.dev.g SBUS_POLL_CFG_DESC p).getD 0
            let ok := descOk (2 ≤ b.val) (bitsOf (s.dev.busOptions b) 8 8) ws
            (ok = false → fails busBadDesc)
            ∧ (ok = true → held = false →
                Settles (.busTransactionStart b held freed) s
                  (d.putBusRun b (some { t with desc := ws, base := base, tBus := s.dev.now, multi := s.dev.busMulti b }))))
      ∧ (∀ t, s.dev.busRun b = some t →
          Settles (.busTransactionStart b held freed) s s.dev
          ∧ (t.retry = false →
              let d := s.dev.putBusRun b none
              (∀ rx, Settles (.busTransactionEnd b (.ok rx)) s (d.okTxn b t (rx.map BitVec.toNat)))
              ∧ (b.val < 2 →
                  ∀ written, (t.tries < descRetry t.desc → Settles (.busTransactionEnd b (.nackAddr written)) s
                    ((s.dev.bump SBUS_TWI_NACKS b).putBusRun b (some { t with tries := t.tries + 1, retry := true })))
                  ∧ (descRetry t.desc ≤ t.tries → Settles (.busTransactionEnd b (.nackAddr written)) s
                    (((s.dev.bump SBUS_TWI_NACKS b).putBusRun b none).finishTxn b t busNackAddr (nackDone t.desc written) t.tBus false))
                  ∧ (∀ k, Settles (.busTransactionEnd b (.nackData k)) s ((d.bump SBUS_TWI_NACKS b).finishTxn b t busNackData k t.tBus false))
                  ∧ (∃ done, Answers (.twoWireTimeout b .sclLow) s
                    ((((s.dev.set1 SBUS_TWI_SCL_LOW b).putBusRun b none).drawn).finishTxn b t busTimeout done t.tBus false)))
              ∧ Answers (.addressRetry b) s s.dev)
          ∧ (t.retry = true → Answers (.addressRetry b) s (s.dev.putBusRun b (some { t with retry := false })))
          ∧ ∀ n : Tenant, s.dev.admits n 0x1A00 →
              ∃ done, Answers (.busReset n b) s (((s.dev.touched.putBusRun b none).drawn).finishTxn b t busAborted done t.tBus false))
      ∧ (s.dev.busRun b = none → ∀ n : Tenant, s.dev.admits n 0x1A00 → Answers (.busReset n b) s s.dev.touched)
      ∧ (∀ p : Fin 16,
          let on := s.dev.domTakes domSio && s.dev.flag SBUS_CTRL_POLL_EN && s.dev.flag SBUS_POLL_CFG_EN p
          let poll : Nat → Txn := fun i =>
            { caller := none, poll := some p.val, slot := i, desc := [], base := 0, tBus := 0, tries := 0, retry := false, multi := false }
          let runs := (vget s.dev.sbus.pollSlot p none).isSome
          (on = false → Answers (.pollDue p) s s.dev)
          ∧ (on = true → runs = true → Answers (.pollDue p) s ((s.dev.bump SBUS_POLL_STAT_SKIPS p).set1 SBUS_EVENTS_POLL_SKIP))
          ∧ (on = true → runs = false →
              (s.dev.slotFor .bus = false → Answers (.pollDue p) s ((s.dev.bump SBUS_POLL_STAT_SKIPS p).set1 SBUS_EVENTS_SLOT_SKIP))
              ∧ (s.dev.slotFor .bus = true → ∃ i d, s.dev.slot i = none ∧ i < 256 ∧ Answers (.pollDue p) s d
                  ∧ vget d.sbus.pollSlot p none = some i ∧ (∃ x, d.slot i = some x ∧ x.kind = .bus ∧ x.hub = true)
                  ∧ d.busWait (s.dev.g SBUS_POLL_CFG_BUS p) = (if s.dev.g SBUS_POLL_CFG_BUS p < 4 then
                      s.dev.busWait (s.dev.g SBUS_POLL_CFG_BUS p) ++ [poll i] else []))))
      ∧ ∀ (k : Seg) (level : Bool),
          let shown := s.dev.putPin k level
          (s.dev.domOn domSio = false → Answers (.edgeSource k level) s s.dev)
          ∧ (s.dev.domOn domSio = true →
              (s.dev.edgePin k = false ∨ s.dev.flag SBUS_IN_EN k = false → Answers (.edgeSource k level) s shown)
              ∧ (s.dev.edgePin k = true → s.dev.flag SBUS_IN_EN k = true → s.dev.flag SBUS_IN_PERIOD k = false → s.dev.domTakes domHub = true →
                  Answers (.edgeSource k level) s
                    (shown.offerWired { chan := 0x40000 + s.dev.g SBUS_IN_CH k, raw := if level then 1 else 0,
                                        tick := ((s.dev.now - s.dev.g SBUS_IN_FILTER k : Nat) : Int), entry := none })))

/-- A context that is ready. Each command takes a credit, is counted, and leaves one answer that holds the credit. NOP and BYE answer OK without words; HELLO answers the version chosen, the features granted, SYS_ID and the context's tenant, port and credits, and opens the session on those terms; RD answers its words, WR the number of words written, RMW the word as it was, each with the lowest-numbered status that is not OK. The version is the lower of the tenant's limit and what 1.0, 1.1 or 2.0 the proposal reaches; features are those asked that the version allows. With no session, every command but HELLO and NOP is answered NO_SESSION and does nothing; a HELLO that proposes less than 1.0 is answered VERSION. An answer that does not fit in the 2,048 words of the answer buffer keeps its command waiting. A WR that performs the power-on reset of SYS_RESET leaves no answer. A command on a context that does not live does nothing. -/
def Obligations.DumarCommandsAreAnswered : Prop :=
  ∀ (s : State) (c : Ctx) (tag : Byte) (ws : List Word) (crc : Word),
    let t := ctxTenant c
    let run := fun op => s.dev.admitted c (hostCmd op tag ws crc)
    let w := fun i => (ws.getD i 0).toNat
    let room := (s.dev.ctx c).buf.length + 2 ≤ 2048
    (s.dev.HostReady c →
        (ws = [] → DumarGives (.dumarNop c tag ws crc) s c (hostCmd opNop tag ws crc) ⟨dmOk, [], run opNop⟩)
        ∧ (ws.length = 2 → 0x10 ≤ w 0 % 256 →
            let terms : Session := ⟨min (s.dev.versionLimit c) (if w 0 % 256 < 0x11 then 0x10 else if w 0 % 256 < 0x20 then 0x11 else 0x20),
                                    grantedFeatures (w 1) (chosenVersion (w 0 % 256) (s.dev.versionLimit c))⟩
            (s.dev.ctx c).buf.length + 5 ≤ 2048 →
            DumarGives (.hello c tag ws crc) s c (hostCmd opHello tag ws crc)
              ⟨dmOk, [BitVec.ofNat 32 terms.version, BitVec.ofNat 32 terms.features, BitVec.ofNat 32 (s.dev.g SYS_ID_ID),
                      BitVec.ofNat 32 (t + inField 2 2 (s.dev.ctxPort c) + inField 8 8 (s.dev.creditTotal c))],
                (run opHello).putCtx c fun k => { k with session := some terms, ending := false }⟩)
        ∧ (ws.length = 2 → w 0 % 256 < 0x10 →
            DumarGives (.hello c tag ws crc) s c (hostCmd opHello tag ws crc)
              ⟨dmVersion, [], (s.dev.putCtx c fun k => { k with free := k.free - 1, wait := [hostCmd opHello tag ws crc] }).bump HOST_CNT_REFUSED t⟩)
        ∧ ((s.dev.ctx c).session.isSome = true →
            (ws = [] → DumarGives (.bye c tag ws crc) s c (hostCmd opBye tag ws crc) ⟨dmOk, [], run opBye⟩)
            ∧ (ws.length = 1 → 1 ≤ bitsOf (w 0) 16 11 → bitsOf (w 0) 16 11 ≤ 1024 →
                ((s.dev.ctx c).buf.length + 1 + bitsOf (w 0) 16 11 ≤ 2048 →
                  DumarGives (.rd c tag ws crc) s c (hostCmd opRd tag ws crc) ((run opRd).readMany t (w 0 % 65536) (bitsOf (w 0) 16 11)))
                ∧ (2048 < (s.dev.ctx c).buf.length + 1 + bitsOf (w 0) 16 11 → Answers (.rd c tag ws crc) s (run opRd).settleHost))
            ∧ (2 ≤ ws.length → ws.length ≤ 1024 → room → w 0 % 65536 ≥ 0x4000 ∨ (∀ i, i + 1 < ws.length → (w 0 + i) % 0x4000 ≠ 2) →
                let r := (run opWr).writeMany t (w 0 % 65536) (ws.drop 1)
                DumarGives (.wr c tag ws crc) s c (hostCmd opWr tag ws crc) ⟨r.1, [BitVec.ofNat 32 r.2.1], r.2.2⟩)
            ∧ (ws = [2, 0x52530001] → s.dev.admits t 2 → Answers (.wr c tag ws crc) s (run opWr).touched.powerOn.settleHost)
            ∧ (ws.length = 3 → ((s.dev.ctx c).session.map Session.rmw) = some true → room → w 0 % 65536 ≠ 2 →
                let old := (run opRmw).hostRead t (w 0 % 65536)
                let new := old.dev.hostStore t (w 0 % 65536) ((old.word &&& ~~~(ws.getD 1 0)) ||| (ws.getD 2 0 &&& ws.getD 1 0))
                (old.status = 0 → DumarGives (.rmw c tag ws crc) s c (hostCmd opRmw tag ws crc) ⟨new.status, [old.word], new.dev⟩)
                ∧ (old.status ≠ 0 → DumarGives (.rmw c tag ws crc) s c (hostCmd opRmw tag ws crc) ⟨old.status, [old.word], old.dev⟩)))
        ∧ ((s.dev.ctx c).session = none →
            (ws = [] → DumarGives (.bye c tag ws crc) s c (hostCmd opBye tag ws crc) ⟨dmNoSession, [], run opBye⟩)
            ∧ (2 ≤ ws.length → ws.length ≤ 1024 →
                DumarGives (.wr c tag ws crc) s c (hostCmd opWr tag ws crc) ⟨dmNoSession, [], run opWr⟩)))
      ∧ (s.dev.ctxLives c = false → ∀ i, i = .dumarNop c tag ws crc ∨ i = .hello c tag ws crc ∨ i = .bye c tag ws crc ∨ i = .rd c tag ws crc
          ∨ i = .wr c tag ws crc ∨ i = .rmw c tag ws crc → Answers i s s.dev.settleHost)
      ∧ ∀ asked, grantedFeatures asked 0x10 = 0 ∧ (grantedFeatures asked 0x11).testBit 0 = false ∧ (grantedFeatures asked 0x11).testBit 1 = false
          ∧ (∀ v i, i < 4 → (grantedFeatures asked v).testBit i = true → asked.testBit i = true) ∧ ∀ v, grantedFeatures asked v < 16

/-- A context that is ready, with a session. QREAD of an own queue that is no SOURCE 2 answers, behind kind masks, the words it pops, up to what it asks and the depth; QWRITE to an own SOURCE 2 queue pushes its words and answers how many were accepted; another queue is answered QUEUE and is not touched. Each REEL command acts as its write of REEL_CTRL or REEL_DATA and answers REEL_STATUS, with REEL_SEQ where it was out of sequence; of another tenant than may write there it is answered PERM. The push of the oldest answer moves its words to the answer buffer, and its credit comes back; with none waiting nothing changes. -/
def Obligations.DumarQueueAndReelCommands : Prop :=
  ∀ (s : State) (c : Ctx) (tag : Byte) (ws : List Word) (crc : Word),
    let t := ctxTenant c
    let run := fun op => s.dev.admitted c (hostCmd op tag ws crc)
    let w := fun i => (ws.getD i 0).toNat
    let q := w 0 % 64
    (s.dev.HostReady c → (s.dev.ctx c).session.isSome = true →
        (((s.dev.ctx c).session.map Session.qrw) = some true →
          (ws.length = 1 → 1 ≤ bitsOf (w 0) 16 10 → bitsOf (w 0) 16 10 ≤ 992 →
            (s.dev.queueFor t q false = true →
              let n := bitsOf (w 0) 16 10
              let r := (run opQread).popMany q (min n (s.dev.queue q).depth)
              (s.dev.ctx c).buf.length + 1 + n + (n + 31) / 32 ≤ 2048 →
              DumarGives (.qread c tag ws crc) s c (hostCmd opQread tag ws crc) ⟨dmOk, kindGroups r.1, r.2⟩
                ∧ r.1 = (s.dev.queue q).words.take n)
            ∧ (s.dev.queueFor t q false = false →
              DumarGives (.qread c tag ws crc) s c (hostCmd opQread tag ws crc) ⟨dmQueue, [], run opQread⟩))
          ∧ (2 ≤ ws.length → ws.length ≤ 1024 →
            (s.dev.queueFor t q true = true →
              let r := (run opQwrite).pushMany q (ws.drop 1)
              (s.dev.ctx c).buf.length + 2 ≤ 2048 →
              DumarGives (.qwrite c tag ws crc) s c (hostCmd opQwrite tag ws crc) ⟨dmOk, [BitVec.ofNat 32 r.1], r.2⟩)
            ∧ (s.dev.queueFor t q true = false →
              DumarGives (.qwrite c tag ws crc) s c (hostCmd opQwrite tag ws crc) ⟨dmQueue, [], run opQwrite⟩)))
        ∧ ((s.dev.ctx c).buf.length + 2 ≤ 2048 →
            -- the effect `f` of a REEL command that writes register word `a`, its answer's status and words, and the block after it
            let refused := fun op a : Nat => (⟨dmPerm, [0], ((run op).touched).permErr t a true⟩ : Done)
            let done := fun (op : Nat) (f : Dev → Dev) =>
              let e := f ((run op).touched.p REEL_STATUS_SEQ_ERR 0 0)
              let d := e.pf REEL_STATUS_SEQ_ERR 0 (s.dev.flag REEL_STATUS_SEQ_ERR || e.flag REEL_STATUS_SEQ_ERR)
              (⟨if e.flag REEL_STATUS_SEQ_ERR then dmReelSeq else dmOk, [d.reelStatus], d⟩ : Done)
            (ws = [] →
              (s.dev.forbids t 0x800 → DumarGives (.reelStart c tag ws crc) s c (hostCmd opReelStart tag ws crc) (refused opReelStart 0x800))
              ∧ (s.dev.admits t 0x800 →
                  DumarGives (.reelStart c tag ws crc) s c (hostCmd opReelStart tag ws crc) (done opReelStart Dev.reelStart)))
            ∧ (1 ≤ ws.length → ws.length ≤ 1024 →
              (s.dev.forbids t 0x810 → DumarGives (.dumarReelData c tag ws crc) s c (hostCmd opReelData tag ws crc) (refused opReelData 0x810))
              ∧ (s.dev.admits t 0x810 →
                  DumarGives (.dumarReelData c tag ws crc) s c (hostCmd opReelData tag ws crc) (done opReelData fun d => d.each ws Dev.reelWord)))
            ∧ (ws.length = 1 →
              (s.dev.forbids t 0x800 → DumarGives (.reelArm c tag ws crc) s c (hostCmd opReelArm tag ws crc) (refused opReelArm 0x800))
              ∧ (s.dev.admits t 0x800 →
                  DumarGives (.reelArm c tag ws crc) s c (hostCmd opReelArm tag ws crc)
                    (done opReelArm fun d => if (w 0).testBit 3 then d.reelDisarm else d.reelArm (w 0 % 4) ((w 0).testBit 2))))))
      ∧ ((s.dev.ctx c).out = [] → (s.dev.ctx c).wait = [] → Answers (.answerPush c) s s.dev.settleHost)
      ∧ ∀ a rest, (s.dev.ctx c).out = a :: rest → (s.dev.ctx c).wait = [] → a.credit = true → a.closes = false → (s.dev.ctx c).ending = false →
          (s.dev.ctx c).debt = 0 →
          Answers (.answerPush c) s
            (s.dev.putCtx c fun k => { k with buf := k.buf ++ a.words, out := rest, free := k.free + 1 }).settleHost

/-- With HIO On, a falling select starts a frame with the status word of the tenant's context; while HIO is Off, or selected already, nothing happens. The status word's fields stand where R276 puts them. The first lane word of a frame chooses commands, a stream, or, if it is neither, nothing, with FRAME set; a queue that may not be streamed sets STREAM. A stream of a queue that may not be read carries zeros and pops nothing; else its first word says how many words it carries and from which queue, and words behind it are popped with a kind mask before each 32. At the release of a command frame that stopped at a word, MISO has carried the answer buffer's words and filler, they have left the buffer, and the command that MOSI spelled is taken. Of a port that is not selected nothing changes. -/
def Obligations.SpiFramesCarryTheirLane : Prop :=
  ∀ (s : State) (p : SpiPort) (w : Word) (c : Nat),
    let x := s.dev.spi p
    let put := fun (d : Dev) (f : SpiState → SpiState) => d.putSpi p f
    (s.dev.domOn domHio = false ∨ x.selected = true → Answers (.selectAssert p) s s.dev)
      ∧ (s.dev.domOn domHio = true → x.selected = false → s.dev.spiCtx p = some c →
          Answers (.selectAssert p) s (put s.dev fun x =>
            { x with selected := true, ctx := some c, lane := .none, status := s.dev.spiStatus p c, miso := [], under := false, part := false }))
      ∧ (let v := (s.dev.spiStatus p c).toNat
         bitsOf v 31 1 = flagOf x.under ∧ bitsOf v 30 1 = flagOf x.part ∧ bitsOf v 29 1 = flagOf (s.dev.request (ctxTenant c))
          ∧ bitsOf v 28 1 = flagOf (s.dev.ctx c).session.isSome ∧ bitsOf v 21 7 = (s.dev.ctx c).free % 128
          ∧ bitsOf v 12 9 = (if x.under then min x.first 0x1FF else 0) ∧ bitsOf v 0 12 = min (s.dev.ctx c).buf.length 4095)
      ∧ (x.selected = true → x.ctx = some c → x.lane = .none →
          let t := ctxTenant c
          let q := bitsOf w.toNat 16 6
          let kind := bitsOf w.toNat 24 8
          (kind = 0xC1 → Answers (.laneWord p w) s (put s.dev fun x => { x with lane := .command }))
          ∧ (kind = 0x5A → s.dev.streamable t q = true →
              Answers (.laneWord p w) s (put s.dev fun x => { x with lane := .stream q (w.toNat % 65536) }))
          ∧ (kind = 0x5A → s.dev.streamable t q = false →
              Answers (.laneWord p w) s ((put s.dev fun x => { x with lane := .stream q (w.toNat % 65536) }).set1 HOST_ERR_STREAM t))
          ∧ (kind ≠ 0xC1 → kind ≠ 0x5A → Answers (.laneWord p w) s ((put s.dev fun x => { x with lane := .ignored }).set1 HOST_ERR_FRAME t)))
      ∧ (∀ q most sent, x.ctx = some c → x.lane = .stream q most →
          (s.dev.streamable (ctxTenant c) q = false →
            Settles (.streamFrame p sent none) s (put s.dev fun x => { x with miso := List.replicate sent 0 }))
          ∧ (s.dev.streamable (ctxTenant c) q = true →
              let n := if most = 0 then (s.dev.queue q).depth else min (s.dev.queue q).depth most
              let r := s.dev.streamWords q n (sent - 1) 2 0
              Settles (.streamFrame p sent none) s
                (put r.2 fun x => { x with miso := (BitVec.ofNat 32 (n + inField 19 6 q) :: r.1).take sent })))
      ∧ (∀ mosi part miso late, x.selected = false → Answers (.selectRelease p mosi part miso late) s s.dev.settleHost)
      ∧ (∀ mosi miso, x.selected = true → x.ctx = some c → x.under = false →
          let off := fun (d : Dev) => put d fun x => { x with selected := false, ctx := none, lane := .none }
          (x.lane = .ignored → Answers (.selectRelease p mosi none miso none) s (off s.dev).settleHost)
          ∧ (x.lane = .command →
              let buf := (s.dev.ctx c).buf
              let out := buf.take miso ++ List.replicate (miso - buf.length) 0xFFFFFFFF
              let d := put s.dev fun x => { x with miso := out }
              (mosi = [] → s.dev.quad p = true → Answers (.selectRelease p mosi none miso none) s (off (d.dropAnswers c miso)).settleHost)
              ∧ ∀ h ws, mosi = h :: ws → s.dev.quad p = true →
                  Answers (.selectRelease p mosi none miso none) s
                    (off (((d.meetHeader c).dropAnswers c miso).takeCmd c (d.spell c h ws))).settleHost))

/-- With HIO On, an address byte that names a tenant on H2 is acknowledged and starts a transaction, another is not; while HIO is Off nothing changes. The first two bytes written are the pointer; a data byte of the same page is kept, a fourth completes a word that is stored at the pointer, which moves on; a byte that would cross the page is refused with PAGE_NACK. A read takes the word at the pointer, which moves on. A STOP ends the transaction; a START in an acknowledge slot discards bytes, leaves the pointer and counts ACK_START. An in-band pulse on an idle bus lasts 4 us for the lower and 8 us for the higher address that requests; a clash counts for each and shows no pulse. A word written to HOSTn_CMD joins the tenant's command; HOSTn_ANS answers the oldest answer word, or all ones. REEL_ACK of T0 ends the REEL cause. -/
def Obligations.TwoWireAndWindowPorts : Prop :=
  ∀ (s : State) (addr : BitVec 7) (isRead repeated : Bool) (b : Byte) (t : Tenant) (w : Word),
    let h := s.dev.host.h2
    (s.dev.domOn domHio = false → Answers (.h2Address addr isRead) s s.dev)
      ∧ (s.dev.domOn domHio = true →
          (s.dev.h2Tenant addr.toNat = none → Answers (.h2Address addr isRead) s (s.dev.putH2 fun h => { h with tenant := none, read := false, ack := false }))
          ∧ ∀ n, s.dev.h2Tenant addr.toNat = some n →
              Answers (.h2Address addr isRead) s
                ((s.dev.when isRead fun d => d.inHub fun u => { u with old := [] }).putH2 fun h =>
                  { h with tenant := some n, read := isRead, ack := true, ptrBytes := 0, page := none, refused := false, bytes := [], burst := 0 }))
      ∧ (∀ n, h.tenant = some n → h.read = false → h.refused = false →
          (h.ptrBytes = 0 → Answers (.h2WriteByte b) s
            (s.dev.putH2 fun h => { h with ptr := 256 * b.toNat + h.ptr % 256, ptrBytes := 1, ack := true }).settleHost)
          ∧ (h.ptrBytes = 1 → Answers (.h2WriteByte b) s
            (s.dev.putH2 fun h => { h with ptr := h.ptr / 256 * 256 + b.toNat, ptrBytes := 2, ack := true }).settleHost)
          ∧ (h.ptrBytes = 2 → h.page.getD (h.ptr / 64) = h.ptr / 64 → h.bytes.length < 3 → Answers (.h2WriteByte b) s
            (s.dev.putH2 fun h => { h with bytes := h.bytes ++ [b], page := some (h.ptr / 64), ack := true }).settleHost)
          ∧ (h.ptrBytes = 2 → h.page.getD (h.ptr / 64) = h.ptr / 64 → h.bytes.length = 3 →
              let g := (s.dev.putH2 fun h => { h with bytes := [], page := some (h.ptr / 64), ack := true }).hostStore n h.ptr
                (BitVec.ofNat 32 (beNat (h.bytes ++ [b])))
              let r := g.dev.advanceAddr n h.ptr
              Answers (.h2WriteByte b) s (r.2.putH2 fun h => { h with ptr := r.1 }).settleHost)
          ∧ (h.ptrBytes = 2 → h.page.getD (h.ptr / 64) ≠ h.ptr / 64 → Answers (.h2WriteByte b) s
            ((s.dev.set1 HOST_ERR_PAGE_NACK n).putH2 fun h => { h with refused := true, ack := false }).settleHost))
      ∧ (∀ n, h.tenant = some n → h.read = true →
          let g := s.dev.hostRead n h.ptr (some h.burst)
          let r := g.dev.advanceAddr n h.ptr
          Settles .h2ReadWord s ((r.2.putRead n g.word).putH2 fun h => { h with ptr := r.1, data := g.word, burst := h.burst + 1 }))
      ∧ (h.tenant = none → Answers (.h2Stop repeated) s
          (if repeated then s.dev else s.dev.putH2 fun h => { h with tenant := none, read := false, ack := false }).settleHost)
      ∧ (∀ n, h.tenant = some n → h.bytes = [] →
          Answers (.h2Stop true) s (s.dev.putH2 fun h => { h with page := none }).settleHost
          ∧ ∃ d, Answers .ackStart s d ∧ d = ((s.dev.bump HOST_ACKERR_ACK_START n).putH2 fun h => { h with page := none }) ∧ d.host.h2.ptr = h.ptr)
      ∧ (s.dev.inbandTime = 0 ∨ h.tenant.isSome = true ∨ s.dev.domOn domHio = false → ∀ clash, Answers (.inbandPulse clash) s s.dev)
      ∧ (0 < s.dev.inbandTime → h.tenant = none → s.dev.domOn domHio = true →
          Answers (.inbandPulse false) s (s.dev.putH2 fun h => { h with pulse := s.dev.inbandTime })
          ∧ ∀ e, (s.dev.h2Tenants.filter fun e => s.dev.request e.tenant) = [e] →
              Answers (.inbandPulse true) s ((s.dev.bump HOST_REQ_CLASH e.tenant).putH2 fun h => { h with pulse := 0 }))
      ∧ (∀ x y, s.dev.h2Tenants = [x, y] →
          s.dev.inbandTime = (if s.dev.request x.tenant then 4 else 0) + (if s.dev.request y.tenant then 8 else 0))
      ∧ (s.dev.admits t (0x440 + 0x100 * t) → Answers (.hostnCmd t w) s (s.dev.touched.appendCmd t w).settleHost)
      ∧ (s.dev.tenantPresent t = true → s.dev.judge t (0x480 + 0x100 * t) false = .pass →
          ((s.dev.ctx t).buf = [] → Settles (.hostnAns t) s (s.dev.touched.putRead t 0xFFFFFFFF))
          ∧ ∀ v vs, (s.dev.ctx t).buf = v :: vs →
              Settles (.hostnAns t) s ((s.dev.touched.putCtx t fun k => { k with buf := vs }).putRead t v))
      ∧ (s.dev.admits t (0x404 + 0x100 * t) →
          Settles (.reelAck t) s (if t.val = 0 then s.dev.touched.inReel fun r => { r with irq := false } else s.dev.touched))

/-- ENTER by T0 while an entry runs sets SEQ_ERR, during a wake it is held, and else, with no enabled level source asserted, begins an entry with the set of the masks: where policies and dependences allow it, Bow is asked of every domain. A domain that accepts is accepted, the last acceptance leads to SAVING, and one that refuses ends the entry with its reason; an answer not asked for changes nothing. The switch takes each domain of the set Off, in order, each bank to Retain, and the entry is DONE. A WAKE pin fires its source when it turns to its active level; a source that is not enabled does nothing, one that meets an entry waits for its end, another starts its wake; a timer wake needs a completed entry. When the ramping group is ready its domains come On; an attempt that fails of a domain that does not ramp changes nothing, and one of the first four only counts. Re-entry needs EN and a completed entry. -/
def Obligations.DomainsEnterAndWake : Prop :=
  ∀ (s : State) (t : Tenant) (n : Dom),
    let d := s.dev.touched
    let p := s.dev.pwr
    let running := 1 ≤ s.dev.entry ∧ s.dev.entry ≤ 3
    (s.dev.admits t 0x100 →
        Answers (.clearLog t) s ((d.p PWR_STATUS_REFUSER 0 0).p PWR_STATUS_REASON 0 0)
        ∧ (s.dev.tap.stopped = true ∨ running → Answers (.enter t) s (d.set1 PWR_STATUS_SEQ_ERR))
        ∧ (s.dev.tap.stopped = false → ¬ running →
            (s.dev.flag PWR_STATUS_WAKING = true → Answers (.enter t) s (d.inPwr fun u => { u with enterHeld := true }))
            ∧ (s.dev.flag PWR_STATUS_WAKING = false →
                let asserted := ∃ x < 8, (s.dev.g PWR_WAKE_SRC_EN).testBit x = true ∧ (s.dev.g PWR_WAKE_POL_EDGE).testBit x = false
                  ∧ vget p.wakePins x true = (s.dev.g PWR_WAKE_POL_POL).testBit x
                (¬ asserted → Answers (.enter t) s (d.beginEntry s.dev.entrySet.1 s.dev.entrySet.2))
                ∧ (asserted → Answers (.enter t) s ((d.countRefusal 0).refuseEntry 0 bowWakePending)))))
      ∧ (∀ off ret, off ++ ret ≠ [] → (∀ m ∈ off ++ ret, (s.dev.powerPolicy m).1 = 1) →
          (∀ m ∈ allDoms, s.dev.domOn m = true → m ∉ off ++ ret → ∀ r ∈ requires m, r ∉ off ++ ret) →
          s.dev.beginEntry off ret = (s.dev.inPwr fun u =>
            { u with off := off, ret := ret, accepted := [], asked := off ++ ret, delaying := [], delays := Vector.ofFn fun _ => 0, met := 0 }).p
              PWR_STATUS_ENTRY 0 1)
      ∧ (p.asked.contains n.val = false → ∀ w, Answers (.bowAnswer n w) s s.dev)
      ∧ (s.dev.entry = 1 → p.asked.contains n.val = true →
          let done := s.dev.inPwr fun u => { u with asked := u.asked.filter (· != n.val), delaying := u.delaying.filter (· != n.val) }
          (s.dev.bowReason p.off n = none →
            let e := done.inPwr fun u => { u with accepted := u.accepted ++ [n.val] }
            ((∃ m ∈ p.asked, m ≠ n.val) → Answers (.bowAnswer n none) s e)
            ∧ ((∀ m ∈ p.asked, m = n.val) → Answers (.bowAnswer n none) s e.entrySave))
          ∧ (∀ r, s.dev.bowReason p.off n = some r → s.dev.tap.stopped = false → p.met = 0 →
              Answers (.bowAnswer n none) s ((done.countRefusal n).refuseEntry n r))
          ∧ ∀ k, let sum := vget p.delays n 0 + k
              (sum ≤ (s.dev.powerPolicy n).2 → sum ≤ 250 → Answers (.bowAnswer n (some k)) s
                (s.dev.inPwr fun u => { u with delays := vupdN u.delays n fun _ => sum, delaying := n.val :: u.delaying.filter (· != n.val) })))
      ∧ Answers (.bowDelayExpiry n) s (s.dev.inPwr fun u => { u with delaying := u.delaying.filter (· != n.val) })
      ∧ (s.dev.entry ≠ 2 → ∀ l, Answers (.entrySwitch l) s s.dev)
      ∧ (s.dev.entry = 2 → s.dev.tap.stopped = false → p.met = 0 →
          let gone := s.dev.each (switchOrder.filter p.off.contains) fun d n => d.leaveOn p.off .off n
          let d := gone.each p.ret fun d n => d.putDom n .retain
          gone.pwr.met = 0 → gone.tap.stopped = false →
          ∃ e, Answers (.entrySwitch []) s e ∧ e.entry = 4 ∧ e.pwr.dom = d.pwr.dom ∧ e.sram = d.sram ∧ e.pwr.accepted = []
            ∧ e.pwr.lastSet = some (p.off, p.ret))
      ∧ (∀ (d : Dev) (goes : List Nat) (st : DomState), (d.leaveOn goes st n).domState n = st)
      ∧ (∀ x : Fin 8,
          ∀ high : Bool,
          let pin := s.dev.inPwr fun u => { u with wakePins := vupdN u.wakePins x fun _ => high }
          let turns := vget p.wakePins x true = !high ∧ high = (s.dev.g PWR_WAKE_POL_POL).testBit x
          (¬ turns ∨ (s.dev.g PWR_WAKE_SRC_EN).testBit x = false → Answers (.wakePin x high) s pin)
          ∧ (turns → (s.dev.g PWR_WAKE_SRC_EN).testBit x = true →
              (running → Answers (.wakePin x high) s (pin.inPwr fun u => { u with met := u.met ||| 2 ^ x.val }))
              ∧ (¬ running → Answers (.wakePin x high) s (pin.startWake (2 ^ x.val)))))
      ∧ (p.done = none ∨ s.dev.g PWR_TIMER_TICKS = 0 → Answers .timerWake s s.dev)
      ∧ (p.done ≠ none → s.dev.g PWR_TIMER_TICKS ≠ 0 → (s.dev.g PWR_WAKE_SRC_EN).testBit 8 = true → ¬ running →
          Answers .timerWake s ((s.dev.inPwr fun u => { u with done := none }).startWake (2 ^ 8)))
      ∧ (∀ x : Fin 13, (x.val < 10 ∨ s.dev.domOn domHio = true → Answers (.portWake x) s s.dev)
          ∧ (10 ≤ x.val → s.dev.domOn domHio = false → (s.dev.g PWR_WAKE_SRC_EN).testBit x = true → vget p.vioLow 0 false = false → ¬ running →
              Answers (.portWake x) s (s.dev.startWake (2 ^ x.val))))
      ∧ (p.groups = [] → Settles .switchReady s s.dev)
      ∧ (∀ g rest, p.groups = g :: rest → p.tries = [] →
          Settles .switchReady s ((((s.dev.inPwr fun u => { u with groups := rest, tries := [] }).each g Dev.comeOn).endWake)))
      ∧ ((p.groups.headD []).contains n.val = false → Settles (.switchAttemptFail n) s s.dev)
      ∧ ((p.groups.headD []).contains n.val = true → (assocGet n.val p.tries).getD 0 < 4 →
          Settles (.switchAttemptFail n) s (((s.dev.bump PWR_FAULT_COUNT).p PWR_FAULT_DOMAIN 0 n).inPwr fun u =>
            { u with tries := assocPut n.val ((assocGet n.val p.tries).getD 0 + 1) u.tries }))
      ∧ (p.lastSet = none ∨ s.dev.flag PWR_REENTER_EN = false → Answers .reentry s s.dev)
      ∧ (∀ off ret, p.lastSet = some (off, ret) → s.dev.flag PWR_REENTER_EN = true → p.wokenBy = 0x100 → ¬ running → s.dev.tap.stopped = false →
          s.dev.flag PWR_STATUS_WAKING = false → s.dev.g PWR_REENTER_IDLE_MS * 32768 ≤ 1000 * ((s.dev.clock.aclk.toNat + 2 ^ 48 - p.busyAt) % 2 ^ 48) →
          (∀ k < 4, s.dev.flag HOST_STATUS_REQ k = false) → (∀ m ∈ off ++ ret, s.dev.domOn m = true → s.dev.bowReason off m = none) →
          Answers .reentry s (s.dev.beginEntry (off.filter fun m => s.dev.domState m != .off) (ret.filter fun m => s.dev.domState m == .on)))

/-- On the RC, a count of XREF edges within 5 % of 26,484 qualifies XREF, another does not; on XREF the count changes nothing. The lock of the PLL with XREF qualified, or a successful retry, brings CCLK back: XREF_OK and PLL_LOCK are set, ON_RC is clear and no domain waits; without, nothing changes. At the end of the clock budget the fault that stands is named and WAKE_FAULT is set; with nothing waiting nothing changes. The loss of XREF, or of the lock, moves CCLK to the RC, is reported, and the domains that need XREF wait. A start of the crystal that is in progress ends with ACLK on the crystal, or at its timeout on the RC with the fault; without one nothing changes. SRC_SEL is stored and takes the RC, or tries the crystal. The RC trim changes nothing. The bias follows the controller within its range where BB_AUTO is set. -/
def Obligations.ClocksFollowTheirSources : Prop :=
  ∀ (s : State) (t : Tenant),
    (∀ edges, (s.dev.domOn domCore = false ∨ s.dev.onRc = false → Answers (.xrefQualified edges) s s.dev)
        ∧ (s.dev.domOn domCore = true → s.dev.onRc = true →
            let ok := decide (25160 ≤ edges ∧ edges ≤ 27808)
            Answers (.xrefQualified edges) s
              (((s.dev.p CLK_MEAS_XREF_COUNT 0 edges).pf CLK_STATUS_XREF_OK 0 ok).inPwr fun u => { u with xref := ok })))
      ∧ (s.dev.onRc = false → Answers .pllLock s s.dev ∧ Answers (.clockRetry true) s s.dev ∧ Answers .clockBudgetExpiry s s.dev)
      ∧ Answers (.clockRetry false) s s.dev
      ∧ (s.dev.domOn domCore = true → s.dev.onRc = true →
          (s.dev.flag CLK_STATUS_XREF_OK = true → Settles .pllLock s s.dev.clockUp)
          ∧ (s.dev.g CLK_RETRY_RETRY_MS ≠ 0 → Settles (.clockRetry true) s s.dev.clockUp)
          ∧ (s.dev.pwr.clkWait = [] → s.dev.flag PWR_STATUS_WAKING = false →
              s.dev.Canonical → let e := s.dev.clockUp
              e.flag CLK_STATUS_XREF_OK = true ∧ e.flag CLK_STATUS_PLL_LOCK = true ∧ e.onRc = false ∧ e.pwr.clkWait = [] ∧ e.sram = s.dev.sram))
      ∧ (s.dev.onRc = true → s.dev.pwr.clkWait = [] → Answers .clockBudgetExpiry s s.dev)
      ∧ (s.dev.onRc = true → s.dev.pwr.clkWait ≠ [] → (∀ n ∈ s.dev.pwr.clkWait, s.dev.domOn n = false) →
          Answers .clockBudgetExpiry s
            (((if s.dev.flag CLK_STATUS_XREF_OK then s.dev.set1 PWR_FAULT_PLL_FAIL else s.dev.set1 PWR_FAULT_XREF_FAIL).set1
              PWR_WAKE_CAUSE_WAKE_FAULT).endWake))
      ∧ (∀ unlock, (s.dev.domOn domCore = false ∨ s.dev.onRc = true → Settles (.xrefLoss unlock) s s.dev)
          ∧ (s.dev.domOn domCore = true → s.dev.onRc = false →
              let why := if unlock then s.dev.set1 CLK_EVENTS_PLL_UNLOCK else (s.dev.set1 CLK_EVENTS_XREF_LOST).p CLK_STATUS_XREF_OK 0 0
              let rc := (((why.p CLK_STATUS_PLL_LOCK 0 0).set1 CLK_STATUS_ON_RC).set1 CLK_EVENTS_FELL_BACK).set1 TEMPO_SYNC_RC_CLOCK
              let d := (rc.inPwr fun u => { u with rcSince := s.dev.now, fellBack := true, xref := unlock }).stopWork
              let held := xrefDoms.filter d.domOn
              Settles (.xrefLoss unlock) s ((d.each held fun d n => d.leaveOn held .held n).inPwr fun u => { u with clkWait := held })))
      ∧ (s.dev.pwr.xtalTry = false → (∀ ms, Answers (.crystalStart ms) s s.dev) ∧ Answers .crystalTimeout s s.dev)
      ∧ (s.dev.pwr.xtalTry = true →
          (∀ ms, Answers (.crystalStart ms) s
            (((((((s.dev.p AON_ACLK_SRC 0 0).p AON_ACLK_XTAL_FAIL 0 0).p AON_ACLK_START_MS 0 ms).set1 CLK_STATUS_ACLK_XTAL).inPwr fun u =>
              { u with xtalTry := false }).inHealth fun h => { h with xtalDay := some ms, xtalBase := some (h.xtalBase.getD ms) })))
          ∧ Answers .crystalTimeout s
              ((((s.dev.set1 AON_ACLK_SRC).set1 AON_ACLK_XTAL_FAIL).set1 PWR_FAULT_ACLK_XTAL).inPwr fun u => { u with xtalTry := false }))
      ∧ (s.dev.admits t 0x300 →
          let d := s.dev.touched
          Answers (.srcSel t true) s
            ((((d.pf AON_ACLK_SRC_SEL 0 true).set1 AON_ACLK_SRC).p CLK_STATUS_ACLK_XTAL 0 0).inPwr fun u => { u with xtalTry := false })
          ∧ (s.dev.flag AON_ACLK_SRC = true → Answers (.srcSel t false) s ((d.pf AON_ACLK_SRC_SEL 0 false).inPwr fun u => { u with xtalTry := true }))
          ∧ (s.dev.flag AON_ACLK_SRC = false → Answers (.srcSel t false) s (d.pf AON_ACLK_SRC_SEL 0 false)))
      ∧ Answers .rcTrim s s.dev
      ∧ ∀ (bias : Int) (mv : Nat),
          let low := decide (mv < s.dev.g PWR_BIAS_ASSIST_MV)
          (s.dev.flag PWR_BIAS_BB_AUTO = false → Answers (.bodyBiasUpdate bias mv) s (s.dev.pf PWR_BIAS_ASSIST 0 low))
          ∧ (s.dev.flag PWR_BIAS_BB_AUTO = true → -38 ≤ bias → bias ≤ 63 →
              Answers (.bodyBiasUpdate bias mv) s ((s.dev.ps PWR_BIAS_BB_ON 0 bias).pf PWR_BIAS_ASSIST 0 low))

/-- Retained banks lose their contents when their supply does, and RET_LOST is set; with none retained nothing changes. A fall of VCORE or VANA with domains On leaves all of them Off. VIOH or VIOS below 1.5 V is kept, and holds its domain. A ping of a segment that the Tap does not ping does nothing; one without a ring-down shows the failure and forgets the last; one with it stores what it measured and clears the failure. LEARN arms the pinged segments. A scrub with SCRUB_EN clear changes nothing; a word without an error is passed over. A page that the AON scrubber finds bad is shown. A reading beyond its sensor's limit, the temperature's that of the order code, that was within it before is a tamper event (which readings are events is the model's, notes/assumptions/134.md): counted; outside MAKE and FIELD no more happens, in them it is shown, wipes the Vault and records how many keys. -/
def Obligations.SuppliesTapsAndScrubs : Prop :=
  ∀ (s : State) (t : Tenant),
    ((∀ n ∈ allDoms, s.dev.domState n ≠ .retain) → Answers .retLost s s.dev)
      ∧ (∀ n ∈ allDoms, s.dev.domState n = .retain → isBank n = true →
          ∃ e, Answers .retLost s e ∧ e.flag PWR_FAULT_RET_LOST = true ∧ n ∈ e.pwr.lost
            ∧ ∀ b, 0x20000 * (n - 16) ≤ b → b < 0x20000 * (n - 15) → memGet b e.sram = 0)
      ∧ (∀ vcore, (∀ n ∈ switchOrder, s.dev.domOn n = false) → Settles (.supplyFall vcore) s s.dev)
      ∧ (let on := switchOrder.filter s.dev.domOn
         let d := (s.dev.each on fun d n => d.leaveOn on .off n).p PWR_STATUS_WAKING 0 0
         on ≠ [] → ∃ fresh, Settles (.supplyFall false) s (d.inPwr fun u =>
              { u with fresh := fresh, groups := [], tries := [], clkWait := [], accepted := [], enterHeld := false })
            ∧ (∀ i ∈ fresh, i ∈ d.pwr.fresh) ∧ (1 ∈ on → ∀ i ∈ fresh, i ∉ [1, 3, 4, 5, 6]))
      ∧ (∀ hio : Bool, s.dev.domOn (if hio then domHio else domSio) = false →
          Settles (.vioBelow1v5 hio true) s (s.dev.inPwr fun u => { u with vioLow := vupdN u.vioLow (if hio then 0 else 1) fun _ => true }))
      ∧ (∀ hio : Bool, let n := if hio then domHio else domSio
          s.dev.domOn n = true → ∃ e, Settles (.vioBelow1v5 hio true) s e ∧ e.domState n = .held ∧ e.flag PWR_FAULT_REG_FAIL = true
            ∧ e.flag PWR_WAKE_CAUSE_WAKE_FAULT = true)
      ∧ (∀ (k : Fin 2) (f : Int) (a : Nat) (ring : Bool),
          (s.dev.tapPings k = false → Answers (.tapPing k f a ring) s s.dev)
          ∧ (s.dev.tapPings k = true →
              Answers (.tapPing k f a false) s
                ((((s.dev.inc TAP_STATUS_PINGS).set1 (if k = 0 then TAP_STATUS_FAIL0 else TAP_STATUS_FAIL12)).set1 TAP_EVENTS_PING_FAIL).putTap k
                  fun v => { v with last := none, moves := 0, stills := 0 })
              ∧ Answers (.tapPing k f a true) s ((s.dev.inc TAP_STATUS_PINGS).pingHeard k f a)))
      ∧ (s.dev.admits t 0x301 →
          (s.dev.g TAP_CTRL_SEGS = 0 → Answers (.learn t) s s.dev.touched)
          ∧ (s.dev.g TAP_CTRL_SEGS = 3 → Answers (.learn t) s
              ((s.dev.touched.putTap 0 fun v => { v with learn := true }).putTap 1 fun v => { v with learn := true })))
      ∧ (∀ hits, s.dev.flag HEALTH_CTRL_SCRUB_EN = false → Settles (.scrubRead hits) s s.dev)
      ∧ (∀ k, s.dev.flag HEALTH_CTRL_SCRUB_EN = true → s.dev.domOn domCore = true → (List.range 24).filter s.dev.bankOn = [k] →
          vget s.dev.health.fix k [] = [] →
          let w := vget s.dev.health.scrubPos k 0
          let next := s.dev.inHealth fun h => { h with scrubPos := vupdN h.scrubPos k fun _ => (w + 1) % 0x8000 }
          s.dev.eccOf k w = 0 →
          (k ≠ 0 ∨ w ≠ 0x7FFF → Settles (.scrubRead []) s next)
          ∧ (k = 0 → w = 0x7FFF → Settles (.scrubRead []) s (next.inc HEALTH_SCRUB_PASSES)))
      ∧ (∀ page : Fin 16, Answers (.aonScrubber page) s (s.dev.p PWR_ENCORE_BAD_PAGES 0 (s.dev.g PWR_ENCORE_BAD_PAGES ||| 2 ^ page.val)))
      ∧ (∀ mv ns, s.dev.tamperStands (.vcore mv ns) = true ↔ (mv < 680 ∨ 920 < mv) ∧ 10 ≤ ns)
      ∧ (∀ mv, s.dev.tamperStands (.vaon mv) = true ↔ mv < 1620 ∨ 3800 < mv)
      ∧ (∀ phase xref, s.dev.tamperStands (.clock phase xref) = true ↔ phase < 1900 ∨ xref < 30000)
      ∧ (∀ c, s.dev.tamperStands (.temperature c) = true ↔ c < -40 ∨ (if s.dev.fuses.orderE = true then 125 else 105) < c)
      ∧ ∀ r : TamperReading,
          let active := (s.dev.g TAMPER_STATUS_ACTIVE).testBit r.bit
          let counted := (s.dev.setBit TAMPER_STATUS_ACTIVE 0 r.bit).bump TAMPER_CNT_COUNT
          let shown := counted.setBit TAMPER_STATUS_EVENT 0 r.bit
          (s.dev.tamperStands r = false → Settles (.tamper r) s (s.dev.clearBit TAMPER_STATUS_ACTIVE 0 r.bit))
          ∧ (s.dev.tamperStands r = true → active = true → Settles (.tamper r) s s.dev)
          ∧ (s.dev.tamperStands r = true → active = false →
              (s.dev.fuses.lifeCycle = 0 ∨ s.dev.fuses.lifeCycle = 3 → Settles (.tamper r) s counted)
              ∧ (s.dev.fuses.lifeCycle = 1 ∨ s.dev.fuses.lifeCycle = 2 →
                  Settles (.tamper r) s (shown.wipeVault.2.raiseAon codeTamper r.bit shown.wipeVault.1 0)))

/-- Permitted writes. With the Vault enabled, LOAD stores the key data and its uses in the slot that KEY_SEL names, active or staged; PROMOTE makes a staged key active and does nothing without one; ERASE empties the slot; in BLANK and RETURN none of them has an effect. WIPE empties every slot and sets WIPED. Arming the next state is kept with its instant, another target only disarms; a GO for the armed target in time with VAON at 2.5 V begins programming, and without arming it is REFUSED. A completed programming sets both bits and resets; a lapse disarms. REBASE notes the coil. A power-on reset empties the memories, stops every activity and keeps the fuses, the tags outside and the queue of commands. -/
def Obligations.KeysFusesAndTheLifeCycle : Prop :=
  ∀ (s : State) (t : Tenant) (target : Fin 4) (mv : Nat),
    let d := s.dev.touched
    let i := s.dev.g VAULT_KEY_SEL_KEYID
    let x := s.dev.keySlot i
    (s.dev.admits t 0x1E06 →
        (s.dev.vaultEnabled = false → Answers (.load t) s d ∧ Answers (.promote t) s d ∧ Answers (.erase t) s d)
        ∧ (s.dev.vaultEnabled = true →
            let y := { x with tenants := s.dev.g VAULT_KEY_SEL_TENANTS, tam := s.dev.flag VAULT_KEY_SEL_TAM, mam := s.dev.flag VAULT_KEY_SEL_MAM,
                              intact := true }
            (s.dev.flag VAULT_KEY_SEL_STAGED = false → Answers (.load t) s (d.putKey i { y with active := some s.dev.keyData }))
            ∧ (s.dev.flag VAULT_KEY_SEL_STAGED = true → Answers (.load t) s (d.putKey i { y with staged := some s.dev.keyData }))
            ∧ (∀ k, x.staged = some k → Answers (.promote t) s (d.putKey i { x with active := some k, staged := none }))
            ∧ (x.staged = none → Answers (.promote t) s d)
            ∧ ∃ e, Answers (.erase t) s e ∧ e = d.inVault (fun v => { v with slots := assocDel i v.slots })))
      ∧ (s.dev.admits t 0x1E00 → s.dev.domOn domVault = true →
          ∃ e, Answers (.wipe t) s e ∧ e.vault.slots = [] ∧ e.flag VAULT_STATUS_WIPED = true ∧ e.air.auths = [] ∧ e.air.tags = s.dev.air.tags)
      ∧ (s.dev.admits t 0x1E11 →
          let off := { d.p LC_STATUS_ARMED 0 0 with lc := { s.dev.lc with armed := none } }
          (target.val = s.dev.fuses.lifeCycle + 1 →
            Answers (.lcArm t target) s { off.set1 LC_STATUS_ARMED with lc := { s.dev.lc with armed := some (target.val, s.dev.now, s.dev.clock.aclk.toNat) } })
          ∧ (target.val ≠ s.dev.fuses.lifeCycle + 1 → Answers (.lcArm t target) s off)
          ∧ (s.dev.lc.armed = none ∨ mv < 2500 → Answers (.lcGo t target mv) s (off.set1 LC_STATUS_REFUSED))
          ∧ ∀ tick aclk, s.dev.lc.armed = some (target.val, tick, aclk) → target.val = s.dev.fuses.lifeCycle + 1 → 2500 ≤ mv →
              s.dev.now ≤ tick + 27120 → s.dev.clock.aclk.toNat ≤ aclk + 33 →
              Answers (.lcGo t target mv) s { off.wipeVault.2 with lc := { armed := none, programming := some target.val } })
      ∧ (s.dev.lc.programming = none → ∀ f, Answers (.lcProgramDone f) s s.dev)
      ∧ (s.dev.lc.programming = some target.val → 1 ≤ target.val → s.dev.fuses.lifeCycle + 1 = target.val →
          (∃ e, Answers (.lcProgramDone false) s e ∧ e.fuses.lifeCycle = target.val ∧ e.sram = [] ∧ e.vault.slots = [])
          ∧ ∃ e, Answers (.lcProgramDone true) s e ∧ e.flag LC_STATUS_PARTIAL = true ∧ e.fuses.halfDone = true ∧ e.sram = s.dev.sram)
      ∧ (s.dev.lc.armed = none → Answers .lcArmExpiry s s.dev)
      ∧ (s.dev.lc.armed ≠ none → Answers .lcArmExpiry s { s.dev.p LC_STATUS_ARMED 0 0 with lc := { s.dev.lc with armed := none } })
      ∧ (∀ idx : BitVec 12, s.dev.admits t 0x1C0A → idx.toNat < 24 → idx.toNat ∉ s.dev.health.rebase →
          Answers (.rebase t idx) s (((d.p LONG_QUERY_CLASS 0 1).p LONG_QUERY_INDEX 0 idx.toNat).inHealth fun h => { h with rebase := idx.toNat :: h.rebase }))
      ∧ ∃ e, Answers .powerOnReset s e ∧ e.sram = [] ∧ e.pwr.encore = [] ∧ e.clock.time = 0 ∧ e.reel.active = none ∧ e.reel.staged = none
          ∧ e.fuses.rows = s.dev.fuses.rows ∧ e.air.tags = s.dev.air.tags ∧ e.air.replies = [] ∧ e.vault.slots = [] ∧ e.cen.job = none
          ∧ e.que = State.reset.dev.que ∧ e.fig = State.reset.dev.fig ∧ e.rx = State.reset.dev.rx ∧ e.sbus = State.reset.dev.sbus
          ∧ e.tap.ir = s.dev.tap.ir ∧ (s.dev.fuses.halfDone = false → e.fuses.lifeCycle = s.dev.fuses.lifeCycle)

/-- An instruction that is loaded stands in the instruction register, and its data register holds what Capture-DR gives it; one that stops nothing, loaded over one that stops nothing, changes nothing else. EXTEST, CLAMP, HIGHZ and SEGLOOP stop functional operation. SAMPLE also captures the balls, the HINT pins as the block drives them, PRELOAD takes the update stage. In FIELD, TESTACC acts as BYPASS; elsewhere a write of the loopback and fuse words acts as they do. Test-Logic-Reset puts IDCODE back, with a power-on reset after a stopping instruction. A loopback run starts only under SEGLOOP or TESTACC, is refused without the PLL, measures once its segment has been driven for 256 carrier cycles, and at the end of the fall that follows shows what was measured, passing where R405 says. Fuse programming needs TESTACC, the state, the voltage, the row and the key, else it is REFUSED; a programmed row holds the bits asked for, but for those that failed, which VERIFY_FAIL shows. -/
def Obligations.TapInstructionsTakeHold : Prop :=
  ∀ s : State,
    let ir := s.dev.tap.ir
    let loaded := fun i (dr : BitVec 48) => s.dev.inTap fun t => { t with ir := i, dr := dr }
    let held := fun i => loaded i 0
    (ir.stops = false →
        Settles .idcode s (loaded .idcode (BitVec.ofNat 48 0x12440A5F)) ∧ Settles .bypass s (held .bypass)
        ∧ (∀ cells, Settles (.preload cells) s ((held .preload).inTap fun t => { t with boundary := cells }))
        ∧ (∀ cells, ∃ got, Settles (.sample cells) s ((held .sample).inTap fun t => { t with captured := got })
            ∧ ((∀ p < 4, s.dev.hintLevel p = none) → got = captureCells (vget s.dev.pwr.vioLow 0 false) (vget s.dev.pwr.vioLow 1 false) cells)
            ∧ ∀ p < 4, ∀ v, s.dev.hintLevel p = some v → vget s.dev.pwr.vioLow 0 false = false →
                got.getLsbD (hintCell p) = v ∧ got.getLsbD (hintCell p + 1) = true)
        ∧ (s.dev.fuses.lifeCycle = 2 → ∀ acc, Settles (.testacc acc) s (held .bypass))
        ∧ (s.dev.fuses.lifeCycle ≠ 2 →
            Settles (.testacc none) s (held .testacc)
            ∧ ∀ w : Word, Settles (.testacc (some (BitVec.ofNat 49 (2 ^ 48 + 0x1F08 * 2 ^ 32 + w.toNat)))) s
                ((held .testacc).inTap fun t => { t with fuseData := w, acc := BitVec.ofNat 50 (2 ^ 49 + 2 ^ 48 + 0x1F08 * 2 ^ 32 + w.toNat) }))
        ∧ Answers .testLogicReset s ((loaded .idcode (BitVec.ofNat 48 0x12440A5F)).inTap fun t => { t with stopped := false })
        ∧ (let off := fun i => ((loaded i (if i = .segloop then s.dev.segloopRegister else 0)).stopWork).inTap fun t => { t with stopped := true }
            -- an instruction that stops the block leaves it stopped, its domains as they are in a shutdown under way, else waking
            let left := fun i => if 1 ≤ (off i).entry ∧ (off i).entry ≤ 3 then off i else (off i).wakeDoms allDoms
            Settles .extest s (left .extest) ∧ Settles .clamp s (left .clamp) ∧ Settles .highz s (left .highz) ∧ Settles .segloop s (left .segloop)))
      ∧ (ir.stops = true → Answers .testLogicReset s ((loaded .idcode (BitVec.ofNat 48 0x12440A5F)).inTap fun t => { t with stopped := false }).powerOn)
      ∧ (∀ ctrl : Half, let n := ctrl.toNat
          (ir ≠ .segloop → ir ≠ .testacc → Answers (.loopRun ctrl) s s.dev)
          ∧ (ir = .segloop ∨ ir = .testacc →
              let b := if ir = .segloop then s.dev.inTap fun t => { t with dr := s.dev.segloopRegister } else s.dev
              let d := ((b.p TEST_LOOP_CTRL_SEG 0 n).p TEST_LOOP_CTRL_EXT 0 (bitOf n 5)).p TEST_LOOP_CTRL_AMP 0 (bitsOf n 6 8)
              (n.testBit 14 = false ∨ s.dev.tap.loop.isSome = true → Answers (.loopRun ctrl) s d)
              ∧ (n.testBit 14 = true → s.dev.tap.loop = none → s.dev.flag CLK_STATUS_PLL_LOCK = false →
                  ∃ e, Answers (.loopRun ctrl) s e ∧ e.tap.loop = none ∧ e.flag TEST_LOOP_RESULT_DONE = true
                    ∧ e.flag TEST_LOOP_RESULT_REFUSED = true ∧ e.fld = s.dev.fld)
              ∧ (n.testBit 14 = true → s.dev.tap.loop = none → s.dev.flag CLK_STATUS_PLL_LOCK = true → s.dev.vdrvLow = false →
                  s.dev.Canonical → n % 32 < 24 → n.testBit 5 = false → s.dev.segIsRetired (n % 32) = false → s.dev.domTakes (fldDom (n % 32)) = true →
                  s.dev.hasGranted (n % 32) .loop = false → s.dev.queuedTokens (n % 32) .loop = 0 →
                  ∃ e, Answers (.loopRun ctrl) s e
                    ∧ e.tap.loop = some { seg := n % 32, ext := false, amp := min 32 (bitsOf n 6 8), tokens := 1, got := none }
                    ∧ e.fld.claims = s.dev.fld.claims ++ [{ seg := n % 32, owner := .loop, tokens := 1, prio := 0, cycle := s.dev.cycle, caller := 8 }])))
      ∧ (∀ mag phase op sh clip,
          (s.dev.tap.loop = none → Answers (.loopDone mag phase op sh clip) s s.dev)
          ∧ ∀ r, s.dev.tap.loop = some r →
              (s.dev.loopDriven r = false → Answers (.loopDone mag phase op sh clip) s s.dev)
              ∧ (s.dev.loopDriven r = true → r.ext = true →
                  let got : LoopGot := { pass := !op && !sh && !clip && decide (72 * r.amp ≤ 32 * mag), opened := op, shorted := sh, mag := mag,
                                         phase := phase }
                  let d := s.dev.inTap fun t => { t with loop := some { r with got := some got } }
                  ((s.dev.seg r.seg).level ≠ 0 → Answers (.loopDone mag phase op sh clip) s (d.startRamp r.seg 0 32 segRampDown))
                  ∧ ((s.dev.seg r.seg).level = 0 → Answers (.loopDone mag phase op sh clip) s ((d.segToZero r.seg).loopOver r.seg))))
      ∧ (∀ (n : Seg) r g, s.dev.tap.loop = some r → r.seg = n.val → r.got = some g → (s.dev.seg n).ramp.isSome = true →
          s.dev.segState n = segRampDown → s.dev.cen.job = none →
          ∃ e, Answers (.rampEnd n) s e ∧ e.tap.loop = none ∧ e.flag TEST_LOOP_RESULT_DONE = true
            ∧ (s.dev.Canonical → e.flag TEST_LOOP_RESULT_PASS = g.pass ∧ e.g TEST_LOOP_RESULT_MAG = g.mag % 4096 ∧ e.held n = 0))
      ∧ (∀ (cmd : Word) (mv : Nat), let row := cmd.toNat % 16
          (ir ≠ .testacc → Answers (.fuseProgram cmd mv) s s.dev)
          ∧ (ir = .testacc →
              let d := s.dev.inTap fun t => { t with fuseRow := row }
              let ok := s.dev.fuses.lifeCycle < 2 ∧ 2500 ≤ mv ∧ row ≤ 8 ∧ cmd.toNat / 65536 = 0x4655 ∧ s.dev.tap.fusing = none
              (cmd.toNat.testBit 4 = false → Answers (.fuseProgram cmd mv) s d)
              ∧ (cmd.toNat.testBit 4 = true →
                  (ok → Answers (.fuseProgram cmd mv) s ((d.inTap fun t => { t with fusing := some (row, t.fuseData) }).set1 TEST_FUSE_STATUS_BUSY))
                  ∧ (¬ ok → Answers (.fuseProgram cmd mv) s (d.set1 TEST_FUSE_STATUS_REFUSED)))))
      ∧ ∀ failed : Word,
          (s.dev.tap.fusing = none → Answers (.fuseRowDone failed) s s.dev)
          ∧ ∀ row data, s.dev.tap.fusing = some (row, data) → row ≤ 8 →
              ∃ e, Answers (.fuseRowDone failed) s e ∧ e.tap.fusing = none
                ∧ vget e.fuses.rows row 0 = vget s.dev.fuses.rows row 0 ||| (data &&& fuseBits row &&& ~~~failed)
                ∧ (∀ k, k ≠ row → vget e.fuses.rows k 0 = vget s.dev.fuses.rows k 0)
                ∧ e.flag TEST_FUSE_STATUS_DONE = true
end

