-- ==== Sys2Proof/Laws/State.lean ====
section
/-!
SUPPORT. One lemma for each field of the block and each of its updates: what the update leaves as it was, and what it puts there.
-/

-- One declaration after another: the package is compiled as one text under a memory limit.
set_option Elab.async false

namespace Sys2Proof.Machine

/-! inFld -/
@[simp] theorem inFld_regs (d : Dev) (f : FieldState → FieldState) : (d.inFld f).regs = d.regs := rfl
@[simp] theorem inFld_sram (d : Dev) (f : FieldState → FieldState) : (d.inFld f).sram = d.sram := rfl
@[simp] theorem inFld_freeCtr (d : Dev) (f : FieldState → FieldState) : (d.inFld f).freeCtr = d.freeCtr := rfl
@[simp] theorem inFld_clock (d : Dev) (f : FieldState → FieldState) : (d.inFld f).clock = d.clock := rfl
@[simp] theorem inFld_reel (d : Dev) (f : FieldState → FieldState) : (d.inFld f).reel = d.reel := rfl
@[simp] theorem inFld_fld (d : Dev) (f : FieldState → FieldState) : (d.inFld f).fld = f d.fld := rfl
@[simp] theorem inFld_tempo (d : Dev) (f : FieldState → FieldState) : (d.inFld f).tempo = d.tempo := rfl
@[simp] theorem inFld_air (d : Dev) (f : FieldState → FieldState) : (d.inFld f).air = d.air := rfl
@[simp] theorem inFld_rx (d : Dev) (f : FieldState → FieldState) : (d.inFld f).rx = d.rx := rfl
@[simp] theorem inFld_cen (d : Dev) (f : FieldState → FieldState) : (d.inFld f).cen = d.cen := rfl
@[simp] theorem inFld_fig (d : Dev) (f : FieldState → FieldState) : (d.inFld f).fig = d.fig := rfl
@[simp] theorem inFld_hub (d : Dev) (f : FieldState → FieldState) : (d.inFld f).hub = d.hub := rfl
@[simp] theorem inFld_que (d : Dev) (f : FieldState → FieldState) : (d.inFld f).que = d.que := rfl
@[simp] theorem inFld_host (d : Dev) (f : FieldState → FieldState) : (d.inFld f).host = d.host := rfl
@[simp] theorem inFld_sbus (d : Dev) (f : FieldState → FieldState) : (d.inFld f).sbus = d.sbus := rfl
@[simp] theorem inFld_pwr (d : Dev) (f : FieldState → FieldState) : (d.inFld f).pwr = d.pwr := rfl
@[simp] theorem inFld_health (d : Dev) (f : FieldState → FieldState) : (d.inFld f).health = d.health := rfl
@[simp] theorem inFld_vault (d : Dev) (f : FieldState → FieldState) : (d.inFld f).vault = d.vault := rfl
@[simp] theorem inFld_fuses (d : Dev) (f : FieldState → FieldState) : (d.inFld f).fuses = d.fuses := rfl
@[simp] theorem inFld_lc (d : Dev) (f : FieldState → FieldState) : (d.inFld f).lc = d.lc := rfl
@[simp] theorem inFld_tap (d : Dev) (f : FieldState → FieldState) : (d.inFld f).tap = d.tap := rfl
@[simp] theorem inFld_g (d : Dev) (f : FieldState → FieldState) (r : Row) (n : Nat) : (d.inFld f).g r n = d.g r n := rfl
@[simp] theorem inFld_look (d : Dev) (f : FieldState → FieldState) (k : Nat) : (d.inFld f).look k = d.look k := rfl
/-! inTempo -/
@[simp] theorem inTempo_regs (d : Dev) (f : TempoState → TempoState) : (d.inTempo f).regs = d.regs := rfl
@[simp] theorem inTempo_sram (d : Dev) (f : TempoState → TempoState) : (d.inTempo f).sram = d.sram := rfl
@[simp] theorem inTempo_freeCtr (d : Dev) (f : TempoState → TempoState) : (d.inTempo f).freeCtr = d.freeCtr := rfl
@[simp] theorem inTempo_clock (d : Dev) (f : TempoState → TempoState) : (d.inTempo f).clock = d.clock := rfl
@[simp] theorem inTempo_reel (d : Dev) (f : TempoState → TempoState) : (d.inTempo f).reel = d.reel := rfl
@[simp] theorem inTempo_fld (d : Dev) (f : TempoState → TempoState) : (d.inTempo f).fld = d.fld := rfl
@[simp] theorem inTempo_tempo (d : Dev) (f : TempoState → TempoState) : (d.inTempo f).tempo = f d.tempo := rfl
@[simp] theorem inTempo_air (d : Dev) (f : TempoState → TempoState) : (d.inTempo f).air = d.air := rfl
@[simp] theorem inTempo_rx (d : Dev) (f : TempoState → TempoState) : (d.inTempo f).rx = d.rx := rfl
@[simp] theorem inTempo_cen (d : Dev) (f : TempoState → TempoState) : (d.inTempo f).cen = d.cen := rfl
@[simp] theorem inTempo_fig (d : Dev) (f : TempoState → TempoState) : (d.inTempo f).fig = d.fig := rfl
@[simp] theorem inTempo_hub (d : Dev) (f : TempoState → TempoState) : (d.inTempo f).hub = d.hub := rfl
@[simp] theorem inTempo_que (d : Dev) (f : TempoState → TempoState) : (d.inTempo f).que = d.que := rfl
@[simp] theorem inTempo_host (d : Dev) (f : TempoState → TempoState) : (d.inTempo f).host = d.host := rfl
@[simp] theorem inTempo_sbus (d : Dev) (f : TempoState → TempoState) : (d.inTempo f).sbus = d.sbus := rfl
@[simp] theorem inTempo_pwr (d : Dev) (f : TempoState → TempoState) : (d.inTempo f).pwr = d.pwr := rfl
@[simp] theorem inTempo_health (d : Dev) (f : TempoState → TempoState) : (d.inTempo f).health = d.health := rfl
@[simp] theorem inTempo_vault (d : Dev) (f : TempoState → TempoState) : (d.inTempo f).vault = d.vault := rfl
@[simp] theorem inTempo_fuses (d : Dev) (f : TempoState → TempoState) : (d.inTempo f).fuses = d.fuses := rfl
@[simp] theorem inTempo_lc (d : Dev) (f : TempoState → TempoState) : (d.inTempo f).lc = d.lc := rfl
@[simp] theorem inTempo_tap (d : Dev) (f : TempoState → TempoState) : (d.inTempo f).tap = d.tap := rfl
@[simp] theorem inTempo_g (d : Dev) (f : TempoState → TempoState) (r : Row) (n : Nat) : (d.inTempo f).g r n = d.g r n := rfl
@[simp] theorem inTempo_look (d : Dev) (f : TempoState → TempoState) (k : Nat) : (d.inTempo f).look k = d.look k := rfl
/-! inQue -/
@[simp] theorem inQue_regs (d : Dev) (f : QueState → QueState) : (d.inQue f).regs = d.regs := rfl
@[simp] theorem inQue_sram (d : Dev) (f : QueState → QueState) : (d.inQue f).sram = d.sram := rfl
@[simp] theorem inQue_freeCtr (d : Dev) (f : QueState → QueState) : (d.inQue f).freeCtr = d.freeCtr := rfl
@[simp] theorem inQue_clock (d : Dev) (f : QueState → QueState) : (d.inQue f).clock = d.clock := rfl
@[simp] theorem inQue_reel (d : Dev) (f : QueState → QueState) : (d.inQue f).reel = d.reel := rfl
@[simp] theorem inQue_fld (d : Dev) (f : QueState → QueState) : (d.inQue f).fld = d.fld := rfl
@[simp] theorem inQue_tempo (d : Dev) (f : QueState → QueState) : (d.inQue f).tempo = d.tempo := rfl
@[simp] theorem inQue_air (d : Dev) (f : QueState → QueState) : (d.inQue f).air = d.air := rfl
@[simp] theorem inQue_rx (d : Dev) (f : QueState → QueState) : (d.inQue f).rx = d.rx := rfl
@[simp] theorem inQue_cen (d : Dev) (f : QueState → QueState) : (d.inQue f).cen = d.cen := rfl
@[simp] theorem inQue_fig (d : Dev) (f : QueState → QueState) : (d.inQue f).fig = d.fig := rfl
@[simp] theorem inQue_hub (d : Dev) (f : QueState → QueState) : (d.inQue f).hub = d.hub := rfl
@[simp] theorem inQue_que (d : Dev) (f : QueState → QueState) : (d.inQue f).que = f d.que := rfl
@[simp] theorem inQue_host (d : Dev) (f : QueState → QueState) : (d.inQue f).host = d.host := rfl
@[simp] theorem inQue_sbus (d : Dev) (f : QueState → QueState) : (d.inQue f).sbus = d.sbus := rfl
@[simp] theorem inQue_pwr (d : Dev) (f : QueState → QueState) : (d.inQue f).pwr = d.pwr := rfl
@[simp] theorem inQue_health (d : Dev) (f : QueState → QueState) : (d.inQue f).health = d.health := rfl
@[simp] theorem inQue_vault (d : Dev) (f : QueState → QueState) : (d.inQue f).vault = d.vault := rfl
@[simp] theorem inQue_fuses (d : Dev) (f : QueState → QueState) : (d.inQue f).fuses = d.fuses := rfl
@[simp] theorem inQue_lc (d : Dev) (f : QueState → QueState) : (d.inQue f).lc = d.lc := rfl
@[simp] theorem inQue_tap (d : Dev) (f : QueState → QueState) : (d.inQue f).tap = d.tap := rfl
@[simp] theorem inQue_g (d : Dev) (f : QueState → QueState) (r : Row) (n : Nat) : (d.inQue f).g r n = d.g r n := rfl
@[simp] theorem inQue_look (d : Dev) (f : QueState → QueState) (k : Nat) : (d.inQue f).look k = d.look k := rfl
/-! inHealth -/
@[simp] theorem inHealth_regs (d : Dev) (f : Health → Health) : (d.inHealth f).regs = d.regs := rfl
@[simp] theorem inHealth_sram (d : Dev) (f : Health → Health) : (d.inHealth f).sram = d.sram := rfl
@[simp] theorem inHealth_freeCtr (d : Dev) (f : Health → Health) : (d.inHealth f).freeCtr = d.freeCtr := rfl
@[simp] theorem inHealth_clock (d : Dev) (f : Health → Health) : (d.inHealth f).clock = d.clock := rfl
@[simp] theorem inHealth_reel (d : Dev) (f : Health → Health) : (d.inHealth f).reel = d.reel := rfl
@[simp] theorem inHealth_fld (d : Dev) (f : Health → Health) : (d.inHealth f).fld = d.fld := rfl
@[simp] theorem inHealth_tempo (d : Dev) (f : Health → Health) : (d.inHealth f).tempo = d.tempo := rfl
@[simp] theorem inHealth_air (d : Dev) (f : Health → Health) : (d.inHealth f).air = d.air := rfl
@[simp] theorem inHealth_rx (d : Dev) (f : Health → Health) : (d.inHealth f).rx = d.rx := rfl
@[simp] theorem inHealth_cen (d : Dev) (f : Health → Health) : (d.inHealth f).cen = d.cen := rfl
@[simp] theorem inHealth_fig (d : Dev) (f : Health → Health) : (d.inHealth f).fig = d.fig := rfl
@[simp] theorem inHealth_hub (d : Dev) (f : Health → Health) : (d.inHealth f).hub = d.hub := rfl
@[simp] theorem inHealth_que (d : Dev) (f : Health → Health) : (d.inHealth f).que = d.que := rfl
@[simp] theorem inHealth_host (d : Dev) (f : Health → Health) : (d.inHealth f).host = d.host := rfl
@[simp] theorem inHealth_sbus (d : Dev) (f : Health → Health) : (d.inHealth f).sbus = d.sbus := rfl
@[simp] theorem inHealth_pwr (d : Dev) (f : Health → Health) : (d.inHealth f).pwr = d.pwr := rfl
@[simp] theorem inHealth_health (d : Dev) (f : Health → Health) : (d.inHealth f).health = f d.health := rfl
@[simp] theorem inHealth_vault (d : Dev) (f : Health → Health) : (d.inHealth f).vault = d.vault := rfl
@[simp] theorem inHealth_fuses (d : Dev) (f : Health → Health) : (d.inHealth f).fuses = d.fuses := rfl
@[simp] theorem inHealth_lc (d : Dev) (f : Health → Health) : (d.inHealth f).lc = d.lc := rfl
@[simp] theorem inHealth_tap (d : Dev) (f : Health → Health) : (d.inHealth f).tap = d.tap := rfl
@[simp] theorem inHealth_g (d : Dev) (f : Health → Health) (r : Row) (n : Nat) : (d.inHealth f).g r n = d.g r n := rfl
@[simp] theorem inHealth_look (d : Dev) (f : Health → Health) (k : Nat) : (d.inHealth f).look k = d.look k := rfl
/-! inReel -/
@[simp] theorem inReel_regs (d : Dev) (f : ReelState → ReelState) : (d.inReel f).regs = d.regs := rfl
@[simp] theorem inReel_sram (d : Dev) (f : ReelState → ReelState) : (d.inReel f).sram = d.sram := rfl
@[simp] theorem inReel_freeCtr (d : Dev) (f : ReelState → ReelState) : (d.inReel f).freeCtr = d.freeCtr := rfl
@[simp] theorem inReel_clock (d : Dev) (f : ReelState → ReelState) : (d.inReel f).clock = d.clock := rfl
@[simp] theorem inReel_reel (d : Dev) (f : ReelState → ReelState) : (d.inReel f).reel = f d.reel := rfl
@[simp] theorem inReel_fld (d : Dev) (f : ReelState → ReelState) : (d.inReel f).fld = d.fld := rfl
@[simp] theorem inReel_tempo (d : Dev) (f : ReelState → ReelState) : (d.inReel f).tempo = d.tempo := rfl
@[simp] theorem inReel_air (d : Dev) (f : ReelState → ReelState) : (d.inReel f).air = d.air := rfl
@[simp] theorem inReel_rx (d : Dev) (f : ReelState → ReelState) : (d.inReel f).rx = d.rx := rfl
@[simp] theorem inReel_cen (d : Dev) (f : ReelState → ReelState) : (d.inReel f).cen = d.cen := rfl
@[simp] theorem inReel_fig (d : Dev) (f : ReelState → ReelState) : (d.inReel f).fig = d.fig := rfl
@[simp] theorem inReel_hub (d : Dev) (f : ReelState → ReelState) : (d.inReel f).hub = d.hub := rfl
@[simp] theorem inReel_que (d : Dev) (f : ReelState → ReelState) : (d.inReel f).que = d.que := rfl
@[simp] theorem inReel_host (d : Dev) (f : ReelState → ReelState) : (d.inReel f).host = d.host := rfl
@[simp] theorem inReel_sbus (d : Dev) (f : ReelState → ReelState) : (d.inReel f).sbus = d.sbus := rfl
@[simp] theorem inReel_pwr (d : Dev) (f : ReelState → ReelState) : (d.inReel f).pwr = d.pwr := rfl
@[simp] theorem inReel_health (d : Dev) (f : ReelState → ReelState) : (d.inReel f).health = d.health := rfl
@[simp] theorem inReel_vault (d : Dev) (f : ReelState → ReelState) : (d.inReel f).vault = d.vault := rfl
@[simp] theorem inReel_fuses (d : Dev) (f : ReelState → ReelState) : (d.inReel f).fuses = d.fuses := rfl
@[simp] theorem inReel_lc (d : Dev) (f : ReelState → ReelState) : (d.inReel f).lc = d.lc := rfl
@[simp] theorem inReel_tap (d : Dev) (f : ReelState → ReelState) : (d.inReel f).tap = d.tap := rfl
@[simp] theorem inReel_g (d : Dev) (f : ReelState → ReelState) (r : Row) (n : Nat) : (d.inReel f).g r n = d.g r n := rfl
@[simp] theorem inReel_look (d : Dev) (f : ReelState → ReelState) (k : Nat) : (d.inReel f).look k = d.look k := rfl
/-! inPwr -/
@[simp] theorem inPwr_regs (d : Dev) (f : PowerState → PowerState) : (d.inPwr f).regs = d.regs := rfl
@[simp] theorem inPwr_sram (d : Dev) (f : PowerState → PowerState) : (d.inPwr f).sram = d.sram := rfl
@[simp] theorem inPwr_freeCtr (d : Dev) (f : PowerState → PowerState) : (d.inPwr f).freeCtr = d.freeCtr := rfl
@[simp] theorem inPwr_clock (d : Dev) (f : PowerState → PowerState) : (d.inPwr f).clock = d.clock := rfl
@[simp] theorem inPwr_reel (d : Dev) (f : PowerState → PowerState) : (d.inPwr f).reel = d.reel := rfl
@[simp] theorem inPwr_fld (d : Dev) (f : PowerState → PowerState) : (d.inPwr f).fld = d.fld := rfl
@[simp] theorem inPwr_tempo (d : Dev) (f : PowerState → PowerState) : (d.inPwr f).tempo = d.tempo := rfl
@[simp] theorem inPwr_air (d : Dev) (f : PowerState → PowerState) : (d.inPwr f).air = d.air := rfl
@[simp] theorem inPwr_rx (d : Dev) (f : PowerState → PowerState) : (d.inPwr f).rx = d.rx := rfl
@[simp] theorem inPwr_cen (d : Dev) (f : PowerState → PowerState) : (d.inPwr f).cen = d.cen := rfl
@[simp] theorem inPwr_fig (d : Dev) (f : PowerState → PowerState) : (d.inPwr f).fig = d.fig := rfl
@[simp] theorem inPwr_hub (d : Dev) (f : PowerState → PowerState) : (d.inPwr f).hub = d.hub := rfl
@[simp] theorem inPwr_que (d : Dev) (f : PowerState → PowerState) : (d.inPwr f).que = d.que := rfl
@[simp] theorem inPwr_host (d : Dev) (f : PowerState → PowerState) : (d.inPwr f).host = d.host := rfl
@[simp] theorem inPwr_sbus (d : Dev) (f : PowerState → PowerState) : (d.inPwr f).sbus = d.sbus := rfl
@[simp] theorem inPwr_pwr (d : Dev) (f : PowerState → PowerState) : (d.inPwr f).pwr = f d.pwr := rfl
@[simp] theorem inPwr_health (d : Dev) (f : PowerState → PowerState) : (d.inPwr f).health = d.health := rfl
@[simp] theorem inPwr_vault (d : Dev) (f : PowerState → PowerState) : (d.inPwr f).vault = d.vault := rfl
@[simp] theorem inPwr_fuses (d : Dev) (f : PowerState → PowerState) : (d.inPwr f).fuses = d.fuses := rfl
@[simp] theorem inPwr_lc (d : Dev) (f : PowerState → PowerState) : (d.inPwr f).lc = d.lc := rfl
@[simp] theorem inPwr_tap (d : Dev) (f : PowerState → PowerState) : (d.inPwr f).tap = d.tap := rfl
@[simp] theorem inPwr_g (d : Dev) (f : PowerState → PowerState) (r : Row) (n : Nat) : (d.inPwr f).g r n = d.g r n := rfl
@[simp] theorem inPwr_look (d : Dev) (f : PowerState → PowerState) (k : Nat) : (d.inPwr f).look k = d.look k := rfl
/-! inTap -/
@[simp] theorem inTap_regs (d : Dev) (f : TapState → TapState) : (d.inTap f).regs = d.regs := rfl
@[simp] theorem inTap_sram (d : Dev) (f : TapState → TapState) : (d.inTap f).sram = d.sram := rfl
@[simp] theorem inTap_freeCtr (d : Dev) (f : TapState → TapState) : (d.inTap f).freeCtr = d.freeCtr := rfl
@[simp] theorem inTap_clock (d : Dev) (f : TapState → TapState) : (d.inTap f).clock = d.clock := rfl
@[simp] theorem inTap_reel (d : Dev) (f : TapState → TapState) : (d.inTap f).reel = d.reel := rfl
@[simp] theorem inTap_fld (d : Dev) (f : TapState → TapState) : (d.inTap f).fld = d.fld := rfl
@[simp] theorem inTap_tempo (d : Dev) (f : TapState → TapState) : (d.inTap f).tempo = d.tempo := rfl
@[simp] theorem inTap_air (d : Dev) (f : TapState → TapState) : (d.inTap f).air = d.air := rfl
@[simp] theorem inTap_rx (d : Dev) (f : TapState → TapState) : (d.inTap f).rx = d.rx := rfl
@[simp] theorem inTap_cen (d : Dev) (f : TapState → TapState) : (d.inTap f).cen = d.cen := rfl
@[simp] theorem inTap_fig (d : Dev) (f : TapState → TapState) : (d.inTap f).fig = d.fig := rfl
@[simp] theorem inTap_hub (d : Dev) (f : TapState → TapState) : (d.inTap f).hub = d.hub := rfl
@[simp] theorem inTap_que (d : Dev) (f : TapState → TapState) : (d.inTap f).que = d.que := rfl
@[simp] theorem inTap_host (d : Dev) (f : TapState → TapState) : (d.inTap f).host = d.host := rfl
@[simp] theorem inTap_sbus (d : Dev) (f : TapState → TapState) : (d.inTap f).sbus = d.sbus := rfl
@[simp] theorem inTap_pwr (d : Dev) (f : TapState → TapState) : (d.inTap f).pwr = d.pwr := rfl
@[simp] theorem inTap_health (d : Dev) (f : TapState → TapState) : (d.inTap f).health = d.health := rfl
@[simp] theorem inTap_vault (d : Dev) (f : TapState → TapState) : (d.inTap f).vault = d.vault := rfl
@[simp] theorem inTap_fuses (d : Dev) (f : TapState → TapState) : (d.inTap f).fuses = d.fuses := rfl
@[simp] theorem inTap_lc (d : Dev) (f : TapState → TapState) : (d.inTap f).lc = d.lc := rfl
@[simp] theorem inTap_tap (d : Dev) (f : TapState → TapState) : (d.inTap f).tap = f d.tap := rfl
@[simp] theorem inTap_g (d : Dev) (f : TapState → TapState) (r : Row) (n : Nat) : (d.inTap f).g r n = d.g r n := rfl
@[simp] theorem inTap_look (d : Dev) (f : TapState → TapState) (k : Nat) : (d.inTap f).look k = d.look k := rfl
/-! inHost -/
@[simp] theorem inHost_regs (d : Dev) (f : HostState → HostState) : (d.inHost f).regs = d.regs := rfl
@[simp] theorem inHost_sram (d : Dev) (f : HostState → HostState) : (d.inHost f).sram = d.sram := rfl
@[simp] theorem inHost_freeCtr (d : Dev) (f : HostState → HostState) : (d.inHost f).freeCtr = d.freeCtr := rfl
@[simp] theorem inHost_clock (d : Dev) (f : HostState → HostState) : (d.inHost f).clock = d.clock := rfl
@[simp] theorem inHost_reel (d : Dev) (f : HostState → HostState) : (d.inHost f).reel = d.reel := rfl
@[simp] theorem inHost_fld (d : Dev) (f : HostState → HostState) : (d.inHost f).fld = d.fld := rfl
@[simp] theorem inHost_tempo (d : Dev) (f : HostState → HostState) : (d.inHost f).tempo = d.tempo := rfl
@[simp] theorem inHost_air (d : Dev) (f : HostState → HostState) : (d.inHost f).air = d.air := rfl
@[simp] theorem inHost_rx (d : Dev) (f : HostState → HostState) : (d.inHost f).rx = d.rx := rfl
@[simp] theorem inHost_cen (d : Dev) (f : HostState → HostState) : (d.inHost f).cen = d.cen := rfl
@[simp] theorem inHost_fig (d : Dev) (f : HostState → HostState) : (d.inHost f).fig = d.fig := rfl
@[simp] theorem inHost_hub (d : Dev) (f : HostState → HostState) : (d.inHost f).hub = d.hub := rfl
@[simp] theorem inHost_que (d : Dev) (f : HostState → HostState) : (d.inHost f).que = d.que := rfl
@[simp] theorem inHost_host (d : Dev) (f : HostState → HostState) : (d.inHost f).host = f d.host := rfl
@[simp] theorem inHost_sbus (d : Dev) (f : HostState → HostState) : (d.inHost f).sbus = d.sbus := rfl
@[simp] theorem inHost_pwr (d : Dev) (f : HostState → HostState) : (d.inHost f).pwr = d.pwr := rfl
@[simp] theorem inHost_health (d : Dev) (f : HostState → HostState) : (d.inHost f).health = d.health := rfl
@[simp] theorem inHost_vault (d : Dev) (f : HostState → HostState) : (d.inHost f).vault = d.vault := rfl
@[simp] theorem inHost_fuses (d : Dev) (f : HostState → HostState) : (d.inHost f).fuses = d.fuses := rfl
@[simp] theorem inHost_lc (d : Dev) (f : HostState → HostState) : (d.inHost f).lc = d.lc := rfl
@[simp] theorem inHost_tap (d : Dev) (f : HostState → HostState) : (d.inHost f).tap = d.tap := rfl
@[simp] theorem inHost_g (d : Dev) (f : HostState → HostState) (r : Row) (n : Nat) : (d.inHost f).g r n = d.g r n := rfl
@[simp] theorem inHost_look (d : Dev) (f : HostState → HostState) (k : Nat) : (d.inHost f).look k = d.look k := rfl
/-! inSbus -/
@[simp] theorem inSbus_regs (d : Dev) (f : SbusState → SbusState) : (d.inSbus f).regs = d.regs := rfl
@[simp] theorem inSbus_sram (d : Dev) (f : SbusState → SbusState) : (d.inSbus f).sram = d.sram := rfl
@[simp] theorem inSbus_freeCtr (d : Dev) (f : SbusState → SbusState) : (d.inSbus f).freeCtr = d.freeCtr := rfl
@[simp] theorem inSbus_clock (d : Dev) (f : SbusState → SbusState) : (d.inSbus f).clock = d.clock := rfl
@[simp] theorem inSbus_reel (d : Dev) (f : SbusState → SbusState) : (d.inSbus f).reel = d.reel := rfl
@[simp] theorem inSbus_fld (d : Dev) (f : SbusState → SbusState) : (d.inSbus f).fld = d.fld := rfl
@[simp] theorem inSbus_tempo (d : Dev) (f : SbusState → SbusState) : (d.inSbus f).tempo = d.tempo := rfl
@[simp] theorem inSbus_air (d : Dev) (f : SbusState → SbusState) : (d.inSbus f).air = d.air := rfl
@[simp] theorem inSbus_rx (d : Dev) (f : SbusState → SbusState) : (d.inSbus f).rx = d.rx := rfl
@[simp] theorem inSbus_cen (d : Dev) (f : SbusState → SbusState) : (d.inSbus f).cen = d.cen := rfl
@[simp] theorem inSbus_fig (d : Dev) (f : SbusState → SbusState) : (d.inSbus f).fig = d.fig := rfl
@[simp] theorem inSbus_hub (d : Dev) (f : SbusState → SbusState) : (d.inSbus f).hub = d.hub := rfl
@[simp] theorem inSbus_que (d : Dev) (f : SbusState → SbusState) : (d.inSbus f).que = d.que := rfl
@[simp] theorem inSbus_host (d : Dev) (f : SbusState → SbusState) : (d.inSbus f).host = d.host := rfl
@[simp] theorem inSbus_sbus (d : Dev) (f : SbusState → SbusState) : (d.inSbus f).sbus = f d.sbus := rfl
@[simp] theorem inSbus_pwr (d : Dev) (f : SbusState → SbusState) : (d.inSbus f).pwr = d.pwr := rfl
@[simp] theorem inSbus_health (d : Dev) (f : SbusState → SbusState) : (d.inSbus f).health = d.health := rfl
@[simp] theorem inSbus_vault (d : Dev) (f : SbusState → SbusState) : (d.inSbus f).vault = d.vault := rfl
@[simp] theorem inSbus_fuses (d : Dev) (f : SbusState → SbusState) : (d.inSbus f).fuses = d.fuses := rfl
@[simp] theorem inSbus_lc (d : Dev) (f : SbusState → SbusState) : (d.inSbus f).lc = d.lc := rfl
@[simp] theorem inSbus_tap (d : Dev) (f : SbusState → SbusState) : (d.inSbus f).tap = d.tap := rfl
@[simp] theorem inSbus_g (d : Dev) (f : SbusState → SbusState) (r : Row) (n : Nat) : (d.inSbus f).g r n = d.g r n := rfl
@[simp] theorem inSbus_look (d : Dev) (f : SbusState → SbusState) (k : Nat) : (d.inSbus f).look k = d.look k := rfl
/-! inVault -/
@[simp] theorem inVault_regs (d : Dev) (f : Vault → Vault) : (d.inVault f).regs = d.regs := rfl
@[simp] theorem inVault_sram (d : Dev) (f : Vault → Vault) : (d.inVault f).sram = d.sram := rfl
@[simp] theorem inVault_freeCtr (d : Dev) (f : Vault → Vault) : (d.inVault f).freeCtr = d.freeCtr := rfl
@[simp] theorem inVault_clock (d : Dev) (f : Vault → Vault) : (d.inVault f).clock = d.clock := rfl
@[simp] theorem inVault_reel (d : Dev) (f : Vault → Vault) : (d.inVault f).reel = d.reel := rfl
@[simp] theorem inVault_fld (d : Dev) (f : Vault → Vault) : (d.inVault f).fld = d.fld := rfl
@[simp] theorem inVault_tempo (d : Dev) (f : Vault → Vault) : (d.inVault f).tempo = d.tempo := rfl
@[simp] theorem inVault_air (d : Dev) (f : Vault → Vault) : (d.inVault f).air = d.air := rfl
@[simp] theorem inVault_rx (d : Dev) (f : Vault → Vault) : (d.inVault f).rx = d.rx := rfl
@[simp] theorem inVault_cen (d : Dev) (f : Vault → Vault) : (d.inVault f).cen = d.cen := rfl
@[simp] theorem inVault_fig (d : Dev) (f : Vault → Vault) : (d.inVault f).fig = d.fig := rfl
@[simp] theorem inVault_hub (d : Dev) (f : Vault → Vault) : (d.inVault f).hub = d.hub := rfl
@[simp] theorem inVault_que (d : Dev) (f : Vault → Vault) : (d.inVault f).que = d.que := rfl
@[simp] theorem inVault_host (d : Dev) (f : Vault → Vault) : (d.inVault f).host = d.host := rfl
@[simp] theorem inVault_sbus (d : Dev) (f : Vault → Vault) : (d.inVault f).sbus = d.sbus := rfl
@[simp] theorem inVault_pwr (d : Dev) (f : Vault → Vault) : (d.inVault f).pwr = d.pwr := rfl
@[simp] theorem inVault_health (d : Dev) (f : Vault → Vault) : (d.inVault f).health = d.health := rfl
@[simp] theorem inVault_vault (d : Dev) (f : Vault → Vault) : (d.inVault f).vault = f d.vault := rfl
@[simp] theorem inVault_fuses (d : Dev) (f : Vault → Vault) : (d.inVault f).fuses = d.fuses := rfl
@[simp] theorem inVault_lc (d : Dev) (f : Vault → Vault) : (d.inVault f).lc = d.lc := rfl
@[simp] theorem inVault_tap (d : Dev) (f : Vault → Vault) : (d.inVault f).tap = d.tap := rfl
@[simp] theorem inVault_g (d : Dev) (f : Vault → Vault) (r : Row) (n : Nat) : (d.inVault f).g r n = d.g r n := rfl
@[simp] theorem inVault_look (d : Dev) (f : Vault → Vault) (k : Nat) : (d.inVault f).look k = d.look k := rfl
/-! inAir -/
@[simp] theorem inAir_regs (d : Dev) (f : AirState → AirState) : (d.inAir f).regs = d.regs := rfl
@[simp] theorem inAir_sram (d : Dev) (f : AirState → AirState) : (d.inAir f).sram = d.sram := rfl
@[simp] theorem inAir_freeCtr (d : Dev) (f : AirState → AirState) : (d.inAir f).freeCtr = d.freeCtr := rfl
@[simp] theorem inAir_clock (d : Dev) (f : AirState → AirState) : (d.inAir f).clock = d.clock := rfl
@[simp] theorem inAir_reel (d : Dev) (f : AirState → AirState) : (d.inAir f).reel = d.reel := rfl
@[simp] theorem inAir_fld (d : Dev) (f : AirState → AirState) : (d.inAir f).fld = d.fld := rfl
@[simp] theorem inAir_tempo (d : Dev) (f : AirState → AirState) : (d.inAir f).tempo = d.tempo := rfl
@[simp] theorem inAir_air (d : Dev) (f : AirState → AirState) : (d.inAir f).air = f d.air := rfl
@[simp] theorem inAir_rx (d : Dev) (f : AirState → AirState) : (d.inAir f).rx = d.rx := rfl
@[simp] theorem inAir_cen (d : Dev) (f : AirState → AirState) : (d.inAir f).cen = d.cen := rfl
@[simp] theorem inAir_fig (d : Dev) (f : AirState → AirState) : (d.inAir f).fig = d.fig := rfl
@[simp] theorem inAir_hub (d : Dev) (f : AirState → AirState) : (d.inAir f).hub = d.hub := rfl
@[simp] theorem inAir_que (d : Dev) (f : AirState → AirState) : (d.inAir f).que = d.que := rfl
@[simp] theorem inAir_host (d : Dev) (f : AirState → AirState) : (d.inAir f).host = d.host := rfl
@[simp] theorem inAir_sbus (d : Dev) (f : AirState → AirState) : (d.inAir f).sbus = d.sbus := rfl
@[simp] theorem inAir_pwr (d : Dev) (f : AirState → AirState) : (d.inAir f).pwr = d.pwr := rfl
@[simp] theorem inAir_health (d : Dev) (f : AirState → AirState) : (d.inAir f).health = d.health := rfl
@[simp] theorem inAir_vault (d : Dev) (f : AirState → AirState) : (d.inAir f).vault = d.vault := rfl
@[simp] theorem inAir_fuses (d : Dev) (f : AirState → AirState) : (d.inAir f).fuses = d.fuses := rfl
@[simp] theorem inAir_lc (d : Dev) (f : AirState → AirState) : (d.inAir f).lc = d.lc := rfl
@[simp] theorem inAir_tap (d : Dev) (f : AirState → AirState) : (d.inAir f).tap = d.tap := rfl
@[simp] theorem inAir_g (d : Dev) (f : AirState → AirState) (r : Row) (n : Nat) : (d.inAir f).g r n = d.g r n := rfl
@[simp] theorem inAir_look (d : Dev) (f : AirState → AirState) (k : Nat) : (d.inAir f).look k = d.look k := rfl
/-! inFig -/
@[simp] theorem inFig_regs (d : Dev) (f : FigState → FigState) : (d.inFig f).regs = d.regs := rfl
@[simp] theorem inFig_sram (d : Dev) (f : FigState → FigState) : (d.inFig f).sram = d.sram := rfl
@[simp] theorem inFig_freeCtr (d : Dev) (f : FigState → FigState) : (d.inFig f).freeCtr = d.freeCtr := rfl
@[simp] theorem inFig_clock (d : Dev) (f : FigState → FigState) : (d.inFig f).clock = d.clock := rfl
@[simp] theorem inFig_reel (d : Dev) (f : FigState → FigState) : (d.inFig f).reel = d.reel := rfl
@[simp] theorem inFig_fld (d : Dev) (f : FigState → FigState) : (d.inFig f).fld = d.fld := rfl
@[simp] theorem inFig_tempo (d : Dev) (f : FigState → FigState) : (d.inFig f).tempo = d.tempo := rfl
@[simp] theorem inFig_air (d : Dev) (f : FigState → FigState) : (d.inFig f).air = d.air := rfl
@[simp] theorem inFig_rx (d : Dev) (f : FigState → FigState) : (d.inFig f).rx = d.rx := rfl
@[simp] theorem inFig_cen (d : Dev) (f : FigState → FigState) : (d.inFig f).cen = d.cen := rfl
@[simp] theorem inFig_fig (d : Dev) (f : FigState → FigState) : (d.inFig f).fig = f d.fig := rfl
@[simp] theorem inFig_hub (d : Dev) (f : FigState → FigState) : (d.inFig f).hub = d.hub := rfl
@[simp] theorem inFig_que (d : Dev) (f : FigState → FigState) : (d.inFig f).que = d.que := rfl
@[simp] theorem inFig_host (d : Dev) (f : FigState → FigState) : (d.inFig f).host = d.host := rfl
@[simp] theorem inFig_sbus (d : Dev) (f : FigState → FigState) : (d.inFig f).sbus = d.sbus := rfl
@[simp] theorem inFig_pwr (d : Dev) (f : FigState → FigState) : (d.inFig f).pwr = d.pwr := rfl
@[simp] theorem inFig_health (d : Dev) (f : FigState → FigState) : (d.inFig f).health = d.health := rfl
@[simp] theorem inFig_vault (d : Dev) (f : FigState → FigState) : (d.inFig f).vault = d.vault := rfl
@[simp] theorem inFig_fuses (d : Dev) (f : FigState → FigState) : (d.inFig f).fuses = d.fuses := rfl
@[simp] theorem inFig_lc (d : Dev) (f : FigState → FigState) : (d.inFig f).lc = d.lc := rfl
@[simp] theorem inFig_tap (d : Dev) (f : FigState → FigState) : (d.inFig f).tap = d.tap := rfl
@[simp] theorem inFig_g (d : Dev) (f : FigState → FigState) (r : Row) (n : Nat) : (d.inFig f).g r n = d.g r n := rfl
@[simp] theorem inFig_look (d : Dev) (f : FigState → FigState) (k : Nat) : (d.inFig f).look k = d.look k := rfl
/-! inCen -/
@[simp] theorem inCen_regs (d : Dev) (f : CensusState → CensusState) : (d.inCen f).regs = d.regs := rfl
@[simp] theorem inCen_sram (d : Dev) (f : CensusState → CensusState) : (d.inCen f).sram = d.sram := rfl
@[simp] theorem inCen_freeCtr (d : Dev) (f : CensusState → CensusState) : (d.inCen f).freeCtr = d.freeCtr := rfl
@[simp] theorem inCen_clock (d : Dev) (f : CensusState → CensusState) : (d.inCen f).clock = d.clock := rfl
@[simp] theorem inCen_reel (d : Dev) (f : CensusState → CensusState) : (d.inCen f).reel = d.reel := rfl
@[simp] theorem inCen_fld (d : Dev) (f : CensusState → CensusState) : (d.inCen f).fld = d.fld := rfl
@[simp] theorem inCen_tempo (d : Dev) (f : CensusState → CensusState) : (d.inCen f).tempo = d.tempo := rfl
@[simp] theorem inCen_air (d : Dev) (f : CensusState → CensusState) : (d.inCen f).air = d.air := rfl
@[simp] theorem inCen_rx (d : Dev) (f : CensusState → CensusState) : (d.inCen f).rx = d.rx := rfl
@[simp] theorem inCen_cen (d : Dev) (f : CensusState → CensusState) : (d.inCen f).cen = f d.cen := rfl
@[simp] theorem inCen_fig (d : Dev) (f : CensusState → CensusState) : (d.inCen f).fig = d.fig := rfl
@[simp] theorem inCen_hub (d : Dev) (f : CensusState → CensusState) : (d.inCen f).hub = d.hub := rfl
@[simp] theorem inCen_que (d : Dev) (f : CensusState → CensusState) : (d.inCen f).que = d.que := rfl
@[simp] theorem inCen_host (d : Dev) (f : CensusState → CensusState) : (d.inCen f).host = d.host := rfl
@[simp] theorem inCen_sbus (d : Dev) (f : CensusState → CensusState) : (d.inCen f).sbus = d.sbus := rfl
@[simp] theorem inCen_pwr (d : Dev) (f : CensusState → CensusState) : (d.inCen f).pwr = d.pwr := rfl
@[simp] theorem inCen_health (d : Dev) (f : CensusState → CensusState) : (d.inCen f).health = d.health := rfl
@[simp] theorem inCen_vault (d : Dev) (f : CensusState → CensusState) : (d.inCen f).vault = d.vault := rfl
@[simp] theorem inCen_fuses (d : Dev) (f : CensusState → CensusState) : (d.inCen f).fuses = d.fuses := rfl
@[simp] theorem inCen_lc (d : Dev) (f : CensusState → CensusState) : (d.inCen f).lc = d.lc := rfl
@[simp] theorem inCen_tap (d : Dev) (f : CensusState → CensusState) : (d.inCen f).tap = d.tap := rfl
@[simp] theorem inCen_g (d : Dev) (f : CensusState → CensusState) (r : Row) (n : Nat) : (d.inCen f).g r n = d.g r n := rfl
@[simp] theorem inCen_look (d : Dev) (f : CensusState → CensusState) (k : Nat) : (d.inCen f).look k = d.look k := rfl
/-! inRx -/
@[simp] theorem inRx_regs (d : Dev) (f : RxState → RxState) : (d.inRx f).regs = d.regs := rfl
@[simp] theorem inRx_sram (d : Dev) (f : RxState → RxState) : (d.inRx f).sram = d.sram := rfl
@[simp] theorem inRx_freeCtr (d : Dev) (f : RxState → RxState) : (d.inRx f).freeCtr = d.freeCtr := rfl
@[simp] theorem inRx_clock (d : Dev) (f : RxState → RxState) : (d.inRx f).clock = d.clock := rfl
@[simp] theorem inRx_reel (d : Dev) (f : RxState → RxState) : (d.inRx f).reel = d.reel := rfl
@[simp] theorem inRx_fld (d : Dev) (f : RxState → RxState) : (d.inRx f).fld = d.fld := rfl
@[simp] theorem inRx_tempo (d : Dev) (f : RxState → RxState) : (d.inRx f).tempo = d.tempo := rfl
@[simp] theorem inRx_air (d : Dev) (f : RxState → RxState) : (d.inRx f).air = d.air := rfl
@[simp] theorem inRx_rx (d : Dev) (f : RxState → RxState) : (d.inRx f).rx = f d.rx := rfl
@[simp] theorem inRx_cen (d : Dev) (f : RxState → RxState) : (d.inRx f).cen = d.cen := rfl
@[simp] theorem inRx_fig (d : Dev) (f : RxState → RxState) : (d.inRx f).fig = d.fig := rfl
@[simp] theorem inRx_hub (d : Dev) (f : RxState → RxState) : (d.inRx f).hub = d.hub := rfl
@[simp] theorem inRx_que (d : Dev) (f : RxState → RxState) : (d.inRx f).que = d.que := rfl
@[simp] theorem inRx_host (d : Dev) (f : RxState → RxState) : (d.inRx f).host = d.host := rfl
@[simp] theorem inRx_sbus (d : Dev) (f : RxState → RxState) : (d.inRx f).sbus = d.sbus := rfl
@[simp] theorem inRx_pwr (d : Dev) (f : RxState → RxState) : (d.inRx f).pwr = d.pwr := rfl
@[simp] theorem inRx_health (d : Dev) (f : RxState → RxState) : (d.inRx f).health = d.health := rfl
@[simp] theorem inRx_vault (d : Dev) (f : RxState → RxState) : (d.inRx f).vault = d.vault := rfl
@[simp] theorem inRx_fuses (d : Dev) (f : RxState → RxState) : (d.inRx f).fuses = d.fuses := rfl
@[simp] theorem inRx_lc (d : Dev) (f : RxState → RxState) : (d.inRx f).lc = d.lc := rfl
@[simp] theorem inRx_tap (d : Dev) (f : RxState → RxState) : (d.inRx f).tap = d.tap := rfl
@[simp] theorem inRx_g (d : Dev) (f : RxState → RxState) (r : Row) (n : Nat) : (d.inRx f).g r n = d.g r n := rfl
@[simp] theorem inRx_look (d : Dev) (f : RxState → RxState) (k : Nat) : (d.inRx f).look k = d.look k := rfl
/-! inHub -/
@[simp] theorem inHub_regs (d : Dev) (f : HubState → HubState) : (d.inHub f).regs = d.regs := rfl
@[simp] theorem inHub_sram (d : Dev) (f : HubState → HubState) : (d.inHub f).sram = d.sram := rfl
@[simp] theorem inHub_freeCtr (d : Dev) (f : HubState → HubState) : (d.inHub f).freeCtr = d.freeCtr := rfl
@[simp] theorem inHub_clock (d : Dev) (f : HubState → HubState) : (d.inHub f).clock = d.clock := rfl
@[simp] theorem inHub_reel (d : Dev) (f : HubState → HubState) : (d.inHub f).reel = d.reel := rfl
@[simp] theorem inHub_fld (d : Dev) (f : HubState → HubState) : (d.inHub f).fld = d.fld := rfl
@[simp] theorem inHub_tempo (d : Dev) (f : HubState → HubState) : (d.inHub f).tempo = d.tempo := rfl
@[simp] theorem inHub_air (d : Dev) (f : HubState → HubState) : (d.inHub f).air = d.air := rfl
@[simp] theorem inHub_rx (d : Dev) (f : HubState → HubState) : (d.inHub f).rx = d.rx := rfl
@[simp] theorem inHub_cen (d : Dev) (f : HubState → HubState) : (d.inHub f).cen = d.cen := rfl
@[simp] theorem inHub_fig (d : Dev) (f : HubState → HubState) : (d.inHub f).fig = d.fig := rfl
@[simp] theorem inHub_hub (d : Dev) (f : HubState → HubState) : (d.inHub f).hub = f d.hub := rfl
@[simp] theorem inHub_que (d : Dev) (f : HubState → HubState) : (d.inHub f).que = d.que := rfl
@[simp] theorem inHub_host (d : Dev) (f : HubState → HubState) : (d.inHub f).host = d.host := rfl
@[simp] theorem inHub_sbus (d : Dev) (f : HubState → HubState) : (d.inHub f).sbus = d.sbus := rfl
@[simp] theorem inHub_pwr (d : Dev) (f : HubState → HubState) : (d.inHub f).pwr = d.pwr := rfl
@[simp] theorem inHub_health (d : Dev) (f : HubState → HubState) : (d.inHub f).health = d.health := rfl
@[simp] theorem inHub_vault (d : Dev) (f : HubState → HubState) : (d.inHub f).vault = d.vault := rfl
@[simp] theorem inHub_fuses (d : Dev) (f : HubState → HubState) : (d.inHub f).fuses = d.fuses := rfl
@[simp] theorem inHub_lc (d : Dev) (f : HubState → HubState) : (d.inHub f).lc = d.lc := rfl
@[simp] theorem inHub_tap (d : Dev) (f : HubState → HubState) : (d.inHub f).tap = d.tap := rfl
@[simp] theorem inHub_g (d : Dev) (f : HubState → HubState) (r : Row) (n : Nat) : (d.inHub f).g r n = d.g r n := rfl
@[simp] theorem inHub_look (d : Dev) (f : HubState → HubState) (k : Nat) : (d.inHub f).look k = d.look k := rfl
/-! p -/
@[simp] theorem p_sram (d : Dev) (r : Row) (n v : Nat) : (d.p r n v).sram = d.sram := rfl
@[simp] theorem p_freeCtr (d : Dev) (r : Row) (n v : Nat) : (d.p r n v).freeCtr = d.freeCtr := rfl
@[simp] theorem p_clock (d : Dev) (r : Row) (n v : Nat) : (d.p r n v).clock = d.clock := rfl
@[simp] theorem p_reel (d : Dev) (r : Row) (n v : Nat) : (d.p r n v).reel = d.reel := rfl
@[simp] theorem p_fld (d : Dev) (r : Row) (n v : Nat) : (d.p r n v).fld = d.fld := rfl
@[simp] theorem p_tempo (d : Dev) (r : Row) (n v : Nat) : (d.p r n v).tempo = d.tempo := rfl
@[simp] theorem p_air (d : Dev) (r : Row) (n v : Nat) : (d.p r n v).air = d.air := rfl
@[simp] theorem p_rx (d : Dev) (r : Row) (n v : Nat) : (d.p r n v).rx = d.rx := rfl
@[simp] theorem p_cen (d : Dev) (r : Row) (n v : Nat) : (d.p r n v).cen = d.cen := rfl
@[simp] theorem p_fig (d : Dev) (r : Row) (n v : Nat) : (d.p r n v).fig = d.fig := rfl
@[simp] theorem p_hub (d : Dev) (r : Row) (n v : Nat) : (d.p r n v).hub = d.hub := rfl
@[simp] theorem p_que (d : Dev) (r : Row) (n v : Nat) : (d.p r n v).que = d.que := rfl
@[simp] theorem p_host (d : Dev) (r : Row) (n v : Nat) : (d.p r n v).host = d.host := rfl
@[simp] theorem p_sbus (d : Dev) (r : Row) (n v : Nat) : (d.p r n v).sbus = d.sbus := rfl
@[simp] theorem p_pwr (d : Dev) (r : Row) (n v : Nat) : (d.p r n v).pwr = d.pwr := rfl
@[simp] theorem p_health (d : Dev) (r : Row) (n v : Nat) : (d.p r n v).health = d.health := rfl
@[simp] theorem p_vault (d : Dev) (r : Row) (n v : Nat) : (d.p r n v).vault = d.vault := rfl
@[simp] theorem p_fuses (d : Dev) (r : Row) (n v : Nat) : (d.p r n v).fuses = d.fuses := rfl
@[simp] theorem p_lc (d : Dev) (r : Row) (n v : Nat) : (d.p r n v).lc = d.lc := rfl
@[simp] theorem p_tap (d : Dev) (r : Row) (n v : Nat) : (d.p r n v).tap = d.tap := rfl
/-! ww -/
@[simp] theorem ww_regs (d : Dev) (w v : Nat) : (d.ww w v).regs = d.regs := by unfold Dev.ww; split <;> rfl
@[simp] theorem ww_freeCtr (d : Dev) (w v : Nat) : (d.ww w v).freeCtr = d.freeCtr := by unfold Dev.ww; split <;> rfl
@[simp] theorem ww_clock (d : Dev) (w v : Nat) : (d.ww w v).clock = d.clock := by unfold Dev.ww; split <;> rfl
@[simp] theorem ww_reel (d : Dev) (w v : Nat) : (d.ww w v).reel = d.reel := by unfold Dev.ww; split <;> rfl
@[simp] theorem ww_fld (d : Dev) (w v : Nat) : (d.ww w v).fld = d.fld := by unfold Dev.ww; split <;> rfl
@[simp] theorem ww_tempo (d : Dev) (w v : Nat) : (d.ww w v).tempo = d.tempo := by unfold Dev.ww; split <;> rfl
@[simp] theorem ww_air (d : Dev) (w v : Nat) : (d.ww w v).air = d.air := by unfold Dev.ww; split <;> rfl
@[simp] theorem ww_rx (d : Dev) (w v : Nat) : (d.ww w v).rx = d.rx := by unfold Dev.ww; split <;> rfl
@[simp] theorem ww_cen (d : Dev) (w v : Nat) : (d.ww w v).cen = d.cen := by unfold Dev.ww; split <;> rfl
@[simp] theorem ww_fig (d : Dev) (w v : Nat) : (d.ww w v).fig = d.fig := by unfold Dev.ww; split <;> rfl
@[simp] theorem ww_hub (d : Dev) (w v : Nat) : (d.ww w v).hub = d.hub := by unfold Dev.ww; split <;> rfl
@[simp] theorem ww_que (d : Dev) (w v : Nat) : (d.ww w v).que = d.que := by unfold Dev.ww; split <;> rfl
@[simp] theorem ww_host (d : Dev) (w v : Nat) : (d.ww w v).host = d.host := by unfold Dev.ww; split <;> rfl
@[simp] theorem ww_sbus (d : Dev) (w v : Nat) : (d.ww w v).sbus = d.sbus := by unfold Dev.ww; split <;> rfl
@[simp] theorem ww_pwr (d : Dev) (w v : Nat) : (d.ww w v).pwr = d.pwr := by unfold Dev.ww; split <;> rfl
@[simp] theorem ww_health (d : Dev) (w v : Nat) : (d.ww w v).health = d.health := by unfold Dev.ww; split <;> rfl
@[simp] theorem ww_vault (d : Dev) (w v : Nat) : (d.ww w v).vault = d.vault := by unfold Dev.ww; split <;> rfl
@[simp] theorem ww_fuses (d : Dev) (w v : Nat) : (d.ww w v).fuses = d.fuses := by unfold Dev.ww; split <;> rfl
@[simp] theorem ww_lc (d : Dev) (w v : Nat) : (d.ww w v).lc = d.lc := by unfold Dev.ww; split <;> rfl
@[simp] theorem ww_tap (d : Dev) (w v : Nat) : (d.ww w v).tap = d.tap := by unfold Dev.ww; split <;> rfl
@[simp] theorem ww_g (d : Dev) (w v : Nat) (r : Row) (n : Nat) : (d.ww w v).g r n = d.g r n := by unfold Dev.g; rw [ww_regs]
/-! effect -/
@[simp] theorem effect_next (s : State) (f : Dev → Dev) : effect s f = .next { s with dev := f s.dev } := rfl

end Sys2Proof.Machine
end

