-- ==== Sys2Proof/Laws/Store.lean ====
section
/-!
SUPPORT. The laws of the register store and of the byte memories: what a read gives after a write, and the canonical form kept.
-/

-- One declaration after another: the package is compiled as one text under a memory limit.
set_option Elab.async false

namespace Sys2Proof.Machine

/-! ### The register store -/

theorem sparseGet_put_ne (dflt dflt' v k j : Nat) (h : j ≠ k) (l : List (Nat × Nat)) :
    sparseGet dflt' j (sparsePut dflt v k l) = sparseGet dflt' j l := by
  induction l with
  | nil => unfold sparsePut; split <;> simp [sparseGet, h]
  | cons p l ih =>
    obtain ⟨i, u⟩ := p
    unfold sparsePut
    split
    · split <;> simp [sparseGet, h]
    · split
      · subst i; split <;> simp [sparseGet, h]
      · simp [sparseGet, ih]

theorem sparseGet_below (dflt k lo : Nat) (l : List (Nat × Nat)) (h : regsRising lo l = true) (hk : k < lo) :
    sparseGet dflt k l = dflt := by
  induction l generalizing lo with
  | nil => rfl
  | cons p l ih =>
    obtain ⟨i, u⟩ := p
    simp only [regsRising, Bool.and_eq_true, decide_eq_true_eq] at h
    have : k ≠ i := by omega
    simp [sparseGet, this, ih (i + 1) h.2 (by omega)]

theorem sparseGet_put_same (dflt v k lo : Nat) (l : List (Nat × Nat)) (h : regsRising lo l = true) :
    sparseGet dflt k (sparsePut dflt v k l) = v := by
  induction l generalizing lo with
  | nil => unfold sparsePut; split <;> simp_all [sparseGet]
  | cons p l ih =>
    obtain ⟨i, u⟩ := p
    have h' := h
    simp only [regsRising, Bool.and_eq_true, decide_eq_true_eq] at h
    unfold sparsePut
    split
    · split
      · rename_i hv
        have : k ≠ i := by omega
        simp [sparseGet, this, hv, sparseGet_below dflt k (i + 1) l h.2 (by omega)]
      · simp [sparseGet]
    · split
      · split
        · rename_i hv
          rw [hv]
          exact sparseGet_below dflt k (i + 1) l h.2 (by omega)
        · simp [sparseGet]
      · rename_i hne
        simp [sparseGet, hne, ih (i + 1) h.2]

/-- A value that is not the field's reset value is read back from any store. -/
theorem sparseGet_put_other (dflt dflt' v k : Nat) (hv : v ≠ dflt) (l : List (Nat × Nat)) :
    sparseGet dflt' k (sparsePut dflt v k l) = v := by
  induction l with
  | nil => simp [sparsePut, hv, sparseGet]
  | cons p l ih =>
    obtain ⟨i, u⟩ := p
    unfold sparsePut
    simp only [hv, if_false]
    split
    · simp [sparseGet]
    · split
      · simp [sparseGet]
      · rename_i hne
        simp [sparseGet, hne, ih]

theorem regsRising_mono (lo lo' : Nat) (l : List (Nat × Nat)) (h : regsRising lo l = true) (hl : lo' ≤ lo) : regsRising lo' l = true := by
  cases l with
  | nil => rfl
  | cons p l =>
    simp only [regsRising, Bool.and_eq_true, decide_eq_true_eq] at *
    exact ⟨by omega, h.2⟩

theorem regsRising_put (dflt v k lo : Nat) (l : List (Nat × Nat)) (h : regsRising lo l = true) (hk : lo ≤ k) :
    regsRising lo (sparsePut dflt v k l) = true := by
  induction l generalizing lo with
  | nil => unfold sparsePut; split <;> simp [regsRising, hk]
  | cons p l ih =>
    obtain ⟨i, u⟩ := p
    have h' := h
    simp only [regsRising, Bool.and_eq_true, decide_eq_true_eq] at h
    unfold sparsePut
    split
    · split
      · exact h'
      · simp only [regsRising, Bool.and_eq_true, decide_eq_true_eq]
        exact ⟨hk, by omega, h.2⟩
    · split
      · split
        · exact regsRising_mono _ _ _ h.2 (by omega)
        · simp only [regsRising, Bool.and_eq_true, decide_eq_true_eq]
          refine ⟨hk, ?_⟩
          subst k; exact h.2
      · simp only [regsRising, Bool.and_eq_true, decide_eq_true_eq]
        exact ⟨h.1, ih _ h.2 (by omega)⟩

theorem regsRising_filter (f : Nat × Nat → Bool) (lo : Nat) (l : List (Nat × Nat)) (h : regsRising lo l = true) :
    regsRising lo (l.filter f) = true := by
  induction l generalizing lo with
  | nil => rfl
  | cons p l ih =>
    simp only [regsRising, Bool.and_eq_true, decide_eq_true_eq] at h
    rw [List.filter_cons]
    split
    · simp only [regsRising, Bool.and_eq_true, decide_eq_true_eq]
      exact ⟨h.1, ih _ h.2⟩
    · exact ih _ (regsRising_mono _ _ _ h.2 (by omega))

theorem find_sparsePut_ne (dflt v k j : Nat) (h : j ≠ k) (l : List (Nat × Nat)) :
    (sparsePut dflt v k l).find? (fun p => p.1 == j) = l.find? (fun p => p.1 == j) := by
  have h2 : (k == j) = false := by simpa using fun e => h e.symm
  induction l with
  | nil => unfold sparsePut; split <;> simp [h2]
  | cons p l ih =>
    obtain ⟨i, u⟩ := p
    unfold sparsePut
    split
    · split <;> simp [h2]
    · split
      · subst i; split <;> simp [h2]
      · simp [List.find?_cons, ih]

theorem look_p_ne (d : Dev) (r : Row) (n v k : Nat) (h : k ≠ r.key n) : (d.p r n v).look k = d.look k := by
  simp only [Dev.look, Dev.p]
  rw [find_sparsePut_ne _ _ _ _ h]

theorem g_p_ne (d : Dev) (r r' : Row) (n n' v : Nat) (h : r'.key n' ≠ r.key n) : (d.p r n v).g r' n' = d.g r' n' :=
  congrArg (· % 2 ^ r'.width) (sparseGet_put_ne _ _ _ _ _ h _)

theorem g_p_same (d : Dev) (r : Row) (n v : Nat) (h : regsRising 0 d.regs = true) : (d.p r n v).g r n = v % 2 ^ r.width := by
  simp only [Dev.g, Dev.p]
  rw [sparseGet_put_same _ _ _ 0 _ h, Nat.mod_mod]

theorem g_p_other (d : Dev) (r : Row) (n v : Nat) (h : v % 2 ^ r.width ≠ r.resetOf n) : (d.p r n v).g r n = v % 2 ^ r.width := by
  simp only [Dev.g, Dev.p]
  rw [sparseGet_put_other _ _ _ _ h _, Nat.mod_mod]

/-- A field never reads more than its width. -/
theorem g_lt (d : Dev) (r : Row) (n : Nat) : d.g r n < 2 ^ r.width := Nat.mod_lt _ (Nat.two_pow_pos _)

theorem p_rising (d : Dev) (r : Row) (n v : Nat) (h : regsRising 0 d.regs = true) : regsRising 0 (d.p r n v).regs = true :=
  regsRising_put _ _ _ 0 _ h (Nat.zero_le _)

theorem clearRegs_rising (d : Dev) (lo hi : Nat) (h : regsRising 0 d.regs = true) : regsRising 0 (d.clearRegs lo hi).regs = true :=
  regsRising_filter _ 0 _ h

/-- A cleared word reads its reset value. -/
theorem g_clearRegs_in (d : Dev) (lo hi : Nat) (r : Row) (n : Nat) (h1 : lo * 32 ≤ r.key n) (h2 : r.key n < (hi + 1) * 32) :
    (d.clearRegs lo hi).g r n = r.resetOf n % 2 ^ r.width := by
  simp only [Dev.g, Dev.clearRegs]
  congr 1
  generalize d.regs = l
  induction l with
  | nil => rfl
  | cons p l ih =>
    obtain ⟨i, u⟩ := p
    rw [List.filter_cons]
    split
    · rename_i hp
      have : r.key n ≠ i := by
        rintro rfl
        simp at hp; omega
      simp [sparseGet, this, ih]
    · exact ih

/-- The words outside keep theirs. -/
theorem g_clearRegs_out (d : Dev) (lo hi : Nat) (r : Row) (n : Nat) (h : r.key n < lo * 32 ∨ (hi + 1) * 32 ≤ r.key n) :
    (d.clearRegs lo hi).g r n = d.g r n := by
  simp only [Dev.g, Dev.clearRegs]
  congr 1
  generalize d.regs = l
  induction l with
  | nil => rfl
  | cons p l ih =>
    obtain ⟨i, u⟩ := p
    rw [List.filter_cons]
    split
    · simp [sparseGet, ih]
    · rename_i hp
      have : r.key n ≠ i := by
        rintro rfl
        simp at hp; omega
      simp [sparseGet, this, ih]

/-! ### Byte memories -/

theorem memGet_put_ne (a b : Nat) (v : Byte) (h : b ≠ a) (m : List Host.Cell) : memGet b (memPut a v m) = memGet b m := by
  induction m with
  | nil => unfold memPut; split <;> simp [memGet, h]
  | cons c m ih =>
    obtain ⟨i, u⟩ := c
    unfold memPut
    split
    · split <;> simp [memGet, h]
    · split
      · subst i; split <;> simp [memGet, h]
      · simp [memGet, ih]

theorem memGet_below (a lo : Nat) (m : List Host.Cell) (h : memRising lo m = true) (ha : a < lo) : memGet a m = 0 := by
  induction m generalizing lo with
  | nil => rfl
  | cons c m ih =>
    obtain ⟨i, u⟩ := c
    simp only [memRising, Bool.and_eq_true, decide_eq_true_eq] at h
    have : a ≠ i := by omega
    simp [memGet, this, ih (i + 1) h.2 (by omega)]

theorem memGet_put_same (a lo : Nat) (v : Byte) (m : List Host.Cell) (h : memRising lo m = true) : memGet a (memPut a v m) = v := by
  induction m generalizing lo with
  | nil => unfold memPut; split <;> simp_all [memGet]
  | cons c m ih =>
    obtain ⟨i, u⟩ := c
    simp only [memRising, Bool.and_eq_true, decide_eq_true_eq] at h
    unfold memPut
    split
    · split
      · rename_i hv
        have : a ≠ i := by omega
        simp [memGet, this, hv, memGet_below a (i + 1) m h.2 (by omega)]
      · simp [memGet]
    · split
      · split
        · rename_i hv
          rw [hv]
          exact memGet_below a (i + 1) m h.2 (by omega)
        · simp [memGet]
      · rename_i hne
        simp [memGet, hne, ih (i + 1) h.2]

theorem memRising_mono (lo lo' : Nat) (m : List Host.Cell) (h : memRising lo m = true) (hl : lo' ≤ lo) : memRising lo' m = true := by
  cases m with
  | nil => rfl
  | cons c m =>
    simp only [memRising, Bool.and_eq_true, decide_eq_true_eq] at *
    exact ⟨⟨by omega, h.1.2⟩, h.2⟩

theorem memRising_put (a lo : Nat) (v : Byte) (m : List Host.Cell) (h : memRising lo m = true) (ha : lo ≤ a) :
    memRising lo (memPut a v m) = true := by
  induction m generalizing lo with
  | nil => unfold memPut; split <;> simp_all [memRising]
  | cons c m ih =>
    obtain ⟨i, u⟩ := c
    have h' := h
    simp only [memRising, Bool.and_eq_true, decide_eq_true_eq] at h
    unfold memPut
    split
    · split
      · exact h'
      · rename_i hv
        simp only [memRising, Bool.and_eq_true, decide_eq_true_eq]
        exact ⟨⟨ha, by simpa using hv⟩, ⟨by omega, h.1.2⟩, h.2⟩
    · split
      · split
        · exact memRising_mono _ _ _ h.2 (by omega)
        · rename_i hv
          simp only [memRising, Bool.and_eq_true, decide_eq_true_eq]
          subst a
          exact ⟨⟨ha, by simpa using hv⟩, h.2⟩
      · simp only [memRising, Bool.and_eq_true, decide_eq_true_eq]
        exact ⟨h.1, ih _ h.2 (by omega)⟩

theorem memRising_filter (f : Host.Cell → Bool) (lo : Nat) (m : List Host.Cell) (h : memRising lo m = true) :
    memRising lo (m.filter f) = true := by
  induction m generalizing lo with
  | nil => rfl
  | cons c m ih =>
    simp only [memRising, Bool.and_eq_true, decide_eq_true_eq] at h
    rw [List.filter_cons]
    split
    · simp only [memRising, Bool.and_eq_true, decide_eq_true_eq]
      exact ⟨h.1, ih _ h.2⟩
    · exact ih _ (memRising_mono _ _ _ h.2 (by omega))

theorem memPut_wf (a : Nat) (v : Byte) (m : List Host.Cell) (h : Memory.wf m = true) : Memory.wf (memPut a v m) = true :=
  memRising_put a 0 v m h (Nat.zero_le _)

theorem memPutLe_wf (m : List Host.Cell) (a v n : Nat) (h : Memory.wf m = true) : Memory.wf (memPutLe m a v n) = true := by
  induction n generalizing m a v with
  | zero => exact h
  | succ n ih => exact ih _ _ _ (memPut_wf _ _ _ h)

theorem memPutBytes_wf (m : List Host.Cell) (a : Nat) (bs : List Byte) (h : Memory.wf m = true) : Memory.wf (memPutBytes m a bs) = true := by
  induction bs generalizing m a with
  | nil => exact h
  | cons b bs ih => exact ih _ _ (memPut_wf _ _ _ h)

theorem memClear_wf (m : List Host.Cell) (lo hi : Nat) (h : Memory.wf m = true) : Memory.wf (memClear m lo hi) = true :=
  memRising_filter _ 0 _ h

/-- A byte outside the bytes written keeps its value. -/
theorem memGet_putLe_out (m : List Host.Cell) (a v n b : Nat) (h : b < a ∨ a + n ≤ b) : memGet b (memPutLe m a v n) = memGet b m := by
  induction n generalizing m a v with
  | zero => rfl
  | succ n ih =>
    unfold memPutLe
    rw [ih _ _ _ (by omega), memGet_put_ne _ _ _ (by omega)]

theorem memLe_putLe_out (m : List Host.Cell) (a v n b k : Nat) (h : b + k ≤ a ∨ a + n ≤ b) : memLe (memPutLe m a v n) b k = memLe m b k := by
  induction k generalizing b with
  | zero => rfl
  | succ k ih => rw [memLe, memLe, ih _ (by omega), memGet_putLe_out _ _ _ _ _ (by omega)]

/-- What was written is read back. -/
theorem memLe_putLe_same (m : List Host.Cell) (a v n : Nat) (h : Memory.wf m = true) : memLe (memPutLe m a v n) a n = v % 256 ^ n := by
  induction n generalizing m a v with
  | zero => simp [memLe, Nat.mod_one]
  | succ n ih =>
    rw [memLe, memPutLe, ih _ _ _ (memPut_wf _ _ _ h), memGet_putLe_out _ _ _ _ _ (by omega), memGet_put_same _ 0 _ _ h,
      Nat.pow_succ', Nat.mod_mul]
    simp

theorem memGet_clear_in (m : List Host.Cell) (lo hi a : Nat) (h1 : lo ≤ a) (h2 : a < hi) : memGet a (memClear m lo hi) = 0 := by
  induction m with
  | nil => rfl
  | cons c m ih =>
    obtain ⟨i, u⟩ := c
    unfold memClear at *
    rw [List.filter_cons]
    split
    · rename_i hp
      have : a ≠ i := by rintro rfl; simp at hp; omega
      simp [memGet, this, ih]
    · exact ih

theorem memGet_clear_out (m : List Host.Cell) (lo hi a : Nat) (h : a < lo ∨ hi ≤ a) : memGet a (memClear m lo hi) = memGet a m := by
  induction m with
  | nil => rfl
  | cons c m ih =>
    obtain ⟨i, u⟩ := c
    unfold memClear at *
    rw [List.filter_cons]
    split
    · simp [memGet, ih]
    · rename_i hp
      have : a ≠ i := by rintro rfl; simp at hp; omega
      simp [memGet, this, ih]

/-! ### SRAM words -/

theorem ww_in (d : Dev) (w v : Nat) (h : w < sramWords) : d.ww w v = { d with sram := memPutLe d.sram (4 * w) v 4 } := by
  simp [Dev.ww, h]

theorem rw_ww_same (d : Dev) (w v : Nat) (h : w < sramWords) (hm : Memory.wf d.sram = true) : (d.ww w v).rw w = v % 2 ^ 32 := by
  rw [ww_in d w v h]
  exact memLe_putLe_same _ _ _ _ hm

theorem rw_ww_ne (d : Dev) (w v u : Nat) (h : u ≠ w) : (d.ww w v).rw u = d.rw u := by
  unfold Dev.ww
  split
  · exact memLe_putLe_out _ _ _ _ _ _ (by omega)
  · rfl

theorem ww_wf (d : Dev) (w v : Nat) (h : Memory.wf d.sram = true) : Memory.wf (d.ww w v).sram = true := by
  unfold Dev.ww
  split
  · exact memPutLe_wf _ _ _ _ h
  · exact h

end Sys2Proof.Machine
end

