-- ==== Sys2Proof/Laws/Settle.lean ====
section
/-!
SUPPORT. What a health record, a push into a queue and the settling of requests can change.
-/

-- One declaration after another: the package is compiled as one text under a memory limit.
set_option Elab.async false

namespace Sys2Proof.Machine

theorem Dev.Aside.refl (d : Dev) : d.Aside d := ⟨rfl, fun _ _ => rfl, id, fun _ _ => rfl, id, rfl, rfl⟩

theorem Dev.Aside.trans {d e f : Dev} (h : d.Aside e) (k : e.Aside f) : d.Aside f where
  parts := by rw [k.parts, h.parts]
  regs := fun i hi => (k.regs i hi).trans (h.regs i hi)
  rising := fun x => k.rising (h.rising x)
  mem := fun b hb => (k.mem b hb).trans (h.mem b hb)
  memWf := fun x => k.memWf (h.memWf x)
  health := by rw [k.health, h.health]
  host := by rw [k.host, h.host]

theorem aside_p (d : Dev) (r : Row) (n v : Nat) (h : asideWord (r.key n / 32) = true) : d.Aside (d.p r n v) where
  parts := rfl
  regs := fun k hk => look_p_ne d r n v k (by rintro rfl; simp [h] at hk)
  rising := p_rising d r n v
  mem := fun _ _ => rfl
  memWf := id
  health := rfl
  host := rfl

theorem aside_inQue (d : Dev) (f : QueState → QueState) : d.Aside (d.inQue f) :=
  ⟨rfl, fun _ _ => rfl, id, fun _ _ => rfl, id, rfl, rfl⟩

theorem Dev.Aside.p {d e : Dev} (h : d.Aside e) (r : Row) (n v : Nat) (k : asideWord (r.key n / 32) = true) : d.Aside (e.p r n v) :=
  h.trans (aside_p e r n v k)

theorem Dev.Aside.inQue {d e : Dev} (h : d.Aside e) (f : QueState → QueState) : d.Aside (e.inQue f) := h.trans (aside_inQue e f)

theorem Dev.Aside.putQueue {d e : Dev} (h : d.Aside e) (n : Nat) (f : Queue → Queue) : d.Aside (e.putQueue n f) := h.inQue _

theorem Dev.Aside.when {d e : Dev} (h : d.Aside e) (b : Bool) (f : Dev → Dev) (k : e.Aside (f e)) : d.Aside (e.when b f) := by
  cases b
  · exact h
  · exact h.trans k

theorem aside_each {α : Type} (l : List α) (f : Dev → α → Dev) (h : ∀ (d : Dev) x, x ∈ l → d.Aside (f d x)) (d : Dev) :
    d.Aside (d.each l f) := by
  induction l generalizing d with
  | nil => exact .refl d
  | cons a l ih => exact (h d a (by simp)).trans (ih (fun d x hx => h d x (by simp [hx])) (f d a))

/-! ### Queues -/

theorem asideWord_queue (b n : Nat) (h : 0x1800 ≤ b) (h2 : b < 0x1808) (hn : n < 64) (lo : Nat) (hl : lo < 32) :
    asideWord (((b + 8 * n) * 32 + lo) / 32) = true := by
  have : ((b + 8 * n) * 32 + lo) / 32 = b + 8 * n := by omega
  rw [this]
  simp only [asideWord, Bool.or_eq_true, Bool.and_eq_true, decide_eq_true_eq]
  omega

/-- A field of a queue's own words. -/
def Row.ofQueue (r : Row) : Bool := 0x1800 ≤ r.base && r.base < 0x1808 && r.stride == 8 && r.lo < 32

theorem Dev.Aside.queueReg {d e : Dev} (h : d.Aside e) (r : Row) (n v : Nat) (hr : r.ofQueue = true) (hn : n < 64) : d.Aside (e.p r n v) := by
  simp only [Row.ofQueue, Bool.and_eq_true, decide_eq_true_eq, beq_iff_eq] at hr
  refine h.p r n v ?_
  simp only [Row.key, hr.1.2]
  exact asideWord_queue _ _ hr.1.1.1 hr.1.1.2 hn _ hr.2

theorem aside_takeCell (d : Dev) : d.Aside d.takeCell := by
  unfold Dev.takeCell
  dsimp only
  refine Dev.Aside.p (Dev.Aside.when (Dev.Aside.when (aside_inQue d _) _ _ ?_) _ _ ?_) _ _ _ (by decide)
  all_goals exact (Dev.Aside.refl _).p _ _ _ (by decide)

theorem aside_threshold (d : Dev) (n before : Nat) (hn : n < 64) : d.Aside (d.threshold n before) := by
  unfold Dev.threshold
  exact (Dev.Aside.refl d).when _ _ ((Dev.Aside.refl d).queueReg Q_EVT_THR n 1 rfl hn)

theorem aside_dropPush (d : Dev) (n : Nat) (b : Bool) (hn : n < 64) : d.Aside (d.dropPush n b) := by
  unfold Dev.dropPush
  dsimp only [Dev.bump, Dev.set1, Dev.pf]
  refine Dev.Aside.when ?_ _ _ ((Dev.Aside.refl _).p POOL_STARVE_DROPS 0 _ (by decide))
  exact ((((Dev.Aside.refl d).putQueue _ _).queueReg Q_DROPS_DROPPED n _ rfl hn).queueReg Q_EVT_DROP n _ rfl hn).queueReg
    Q_STAT_STARVED n _ rfl hn

theorem aside_placeWords (d : Dev) (n : Nat) (ws : List QWord) : d.Aside (d.placeWords n ws) :=
  Dev.Aside.putQueue ((Dev.Aside.refl d).when _ _ (aside_takeCell d)) n _

theorem aside_pushWord (d : Dev) (n : Nat) (w : Word) (hn : n < 64) (run : Option Nat := none) : d.Aside (d.pushWord n w run).2 := by
  unfold Dev.pushWord
  dsimp only
  split
  · exact aside_dropPush d n true hn
  · split
    · exact aside_dropPush d n false hn
    · split
      · exact aside_dropPush d n true hn
      · exact ((aside_placeWords _ _ _).putQueue _ _).trans (aside_threshold _ _ _ hn)

theorem aside_pushItem (n : Nat) (hn : n < 64) (ws : List Word) (d : Dev) : d.Aside (d.pushItem n ws).2 := by
  induction ws generalizing d with
  | nil => exact .refl d
  | cons w ws ih =>
    have h := aside_pushWord d n w hn
    unfold Dev.pushItem
    generalize d.pushWord n w = r at *
    obtain ⟨b, e⟩ := r
    cases b
    · exact h
    · exact h.trans (ih e)

theorem aside_enterMarker (d : Dev) (n : Nat) (hn : n < 64) : d.Aside (d.enterMarker n) := by
  unfold Dev.enterMarker
  dsimp only
  split
  · exact ((aside_placeWords _ _ _).putQueue _ _).trans (aside_threshold _ _ _ hn)
  · exact .refl d

theorem aside_seatQueues (k : Nat) (d : Dev) : d.Aside (seatQueues k d) := by
  induction k generalizing d with
  | zero => exact .refl d
  | succ k ih =>
    unfold seatQueues
    split
    · exact .refl d
    · split
      · exact .refl d
      · exact ((aside_takeCell d).putQueue _ _).trans (ih _)

theorem aside_giveCells (d : Dev) (k : Nat) : d.Aside (d.giveCells k) := by
  unfold Dev.giveCells
  split
  · exact .refl d
  · exact (aside_inQue d _).trans (aside_seatQueues _ _)

theorem aside_popWord (d : Dev) (n : Nat) (hn : n < 64) : d.Aside (d.popWord n).dev := by
  unfold Dev.popWord
  dsimp only
  split
  · exact ((Dev.Aside.refl d).queueReg Q_DROPS_UNDERRUNS n _ rfl hn).queueReg Q_STAT_UNDER n 1 rfl hn
  · refine Dev.Aside.trans (Dev.Aside.when ((Dev.Aside.refl d).putQueue n _) _ _ ?_) (aside_giveCells _ _)
    exact (Dev.Aside.refl _).queueReg Q_EVT_LOST n 1 rfl hn

theorem aside_registerPop (d : Dev) (n : Nat) (hn : n < 64) : d.Aside (d.registerPop n).2 :=
  ((aside_popWord d n hn).queueReg Q_STAT_KIND n _ rfl hn).queueReg Q_STAT_KHIST n _ rfl hn

theorem aside_resetQueue (d : Dev) (n : Nat) (hn : n < 64) : d.Aside (d.resetQueue n) := by
  unfold Dev.resetQueue
  dsimp only
  have h : d.Aside (d.bump Q_DROPS_RESETS n) := (Dev.Aside.refl d).queueReg Q_DROPS_RESETS n _ rfl hn
  split
  · exact h.putQueue _ _
  · split
    · exact (h.putQueue _ _).trans (aside_enterMarker _ _ hn)
    · exact ((h.putQueue _ _).trans (aside_giveCells _ _)).trans (aside_threshold _ _ _ hn)

/-! ### Records -/

theorem aside_ww_log (d : Dev) (w v : Nat) (h : logBase ≤ w) (h2 : w < logBase + 0x2000) : d.Aside (d.ww w v) := by
  rw [ww_in d w v (by simp only [logBase, sramWords] at *; omega)]
  exact ⟨rfl, fun _ _ => rfl, id, fun b hb => memGet_putLe_out _ _ _ _ _ (by omega), fun hw => memPutLe_wf _ _ _ _ hw, rfl, rfl⟩

theorem aside_wws_log (w : Nat) (vs : List Nat) (h : logBase ≤ w) (d : Dev) (h2 : w + vs.length ≤ logBase + 0x2000) : d.Aside (d.wws w vs) := by
  unfold Dev.wws
  refine aside_each _ (fun d (p : Nat × Nat) => d.ww (w + p.2) p.1) (fun d p hp => ?_) d
  have := List.snd_lt_of_mem_zipIdx hp
  exact aside_ww_log _ _ _ (by omega) (by omega)

theorem aside_logRecord (d : Dev) (ws : List Nat) (h : ws.length = 6) : d.Aside (d.logRecord ws) := by
  unfold Dev.logRecord
  dsimp only
  have hn : d.g HEALTH_LOG_NEXT < 1024 := g_lt d HEALTH_LOG_NEXT 0
  refine Dev.Aside.when (Dev.Aside.p (aside_wws_log _ _ (by omega) d (by simp [h]; omega)) HEALTH_LOG_NEXT 0 _ (by decide)) _ _ ?_
  exact (Dev.Aside.refl _).p HEALTH_LOG_WRAPPED 0 1 (by decide)

theorem aside_pushHealth (d : Dev) (ws : List Nat) : d.Aside (d.pushHealth ws) := by
  refine aside_each _ (fun (d : Dev) n => (d.pushItem n (ws.map (BitVec.ofNat 32))).2) (fun d n hn => ?_) d
  simp only [Dev.healthQueues, List.mem_filter, List.mem_range] at hn
  exact aside_pushItem n hn.1 _ _

theorem aside_raise (d : Dev) (code elem a0 a1 : Nat) : d.Aside (d.raise code elem a0 a1) := by
  unfold Dev.raise
  dsimp only
  refine Dev.Aside.trans ?_ (aside_pushHealth _ _)
  refine Dev.Aside.trans (e := Dev.high (Dev.logRecord (d.inc HEALTH_SEQ_SEQ) _) HEALTH_SPARES_SEV 0 _) ?_
    ⟨rfl, fun _ _ => rfl, id, fun _ _ => rfl, id, rfl, rfl⟩
  refine Dev.Aside.p (Dev.Aside.trans ?_ (aside_logRecord _ _ rfl)) HEALTH_SPARES_SEV 0 _ (by decide)
  exact (Dev.Aside.refl d).p HEALTH_SEQ_SEQ 0 _ (by decide)

theorem aside_poolRecords (k : Nat) (d : Dev) : d.Aside (poolRecords k d) := by
  induction k generalizing d with
  | zero => exact .refl d
  | succ k ih =>
    unfold poolRecords
    split
    · exact ((aside_inQue d _).trans (aside_raise _ _ _ _ _)).trans (ih _)
    · split
      · exact ((aside_inQue d _).trans (aside_raise _ _ _ _ _)).trans (ih _)
      · exact .refl d

/-! ### Requests -/

theorem aside_ctx (d : Dev) (i : Nat) (f : HostCtx → HostCtx) : d.Aside (d.inHost fun h => { h with ctx := vupdN h.ctx i f }) :=
  ⟨rfl, fun _ _ => rfl, id, fun _ _ => rfl, id, rfl, rfl⟩

theorem aside_notice (d : Dev) (t : Nat) : d.Aside (d.notice t) := by
  unfold Dev.notice
  refine aside_each _ _ (fun d i _ => ?_) d
  dsimp only
  split
  · exact .refl d
  · split
    · exact aside_ctx _ _ _
    · exact .refl d

theorem aside_settleRequests (d : Dev) : d.Aside d.settleRequests := by
  unfold Dev.settleRequests
  refine aside_each _ _ (fun d t ht => ?_) d
  simp only [List.mem_range] at ht
  refine Dev.Aside.when ?_ _ _ (aside_notice _ _)
  split
  · exact .refl d
  · refine aside_p _ _ _ _ ?_
    have : t = 0 ∨ t = 1 ∨ t = 2 ∨ t = 3 := by omega
    rcases this with rfl | rfl | rfl | rfl <;> decide

/-- What settling can change. -/
theorem aside_settlePool (d : Dev) : d.Aside d.settlePool := (aside_poolRecords 4 d).trans (aside_settleRequests _)

/-- Where nothing is owed, settling changes nothing. -/
theorem settlePool_quiet (d : Dev) (h : d.Quiet) : d.settlePool = d := by
  obtain ⟨h1, h2, h3⟩ := h
  have hp : poolRecords 4 d = d := by simp [poolRecords, h1, h2]
  unfold Dev.settlePool
  rw [hp]
  unfold Dev.settleRequests Dev.each
  have e : List.range 4 = [0, 1, 2, 3] := rfl
  have k0 := h3 0 (by omega)
  have k1 := h3 1 (by omega)
  have k2 := h3 2 (by omega)
  have k3 := h3 3 (by omega)
  simp [e, k0, k1, k2, k3, Dev.when]

end Sys2Proof.Machine
end

