-- ==== Sys2Proof/Laws/Access.lean ====
section
/-!
SUPPORT. What a host's access does: performed, a permission error, or no effect.
-/

-- One declaration after another: the package is compiled as one text under a memory limit.
set_option Elab.async false

namespace Sys2Proof.Machine

/-- A write that is performed. -/
theorem hostWrite_admits (d : Dev) (t a : Nat) (f : Dev → Dev) (h : d.admits t a) : d.hostWrite t a f = f d.touched := by
  obtain ⟨h1, h2, h3⟩ := h
  have j : d.touched.judge t a true = d.judge t a true := rfl
  have k : d.touched.pwr.accepted = d.pwr.accepted := rfl
  simp only [Dev.hostWrite, h1, j, h2, k, h3]
  rfl

/-- A write that is a permission error. -/
theorem hostWrite_forbids (d : Dev) (t a : Nat) (f : Dev → Dev) (h : d.forbids t a) : d.hostWrite t a f = d.touched.permErr t a true := by
  obtain ⟨h1, h2⟩ := h
  have j : d.touched.judge t a true = d.judge t a true := rfl
  simp only [Dev.hostWrite, h1, j, h2]
  rfl

/-- A tenant that the active Reel does not name has no view. -/
theorem hostWrite_absent (d : Dev) (t a : Nat) (f : Dev → Dev) (h : d.tenantPresent t = false) : d.hostWrite t a f = d := by
  simp [Dev.hostWrite, h]

end Sys2Proof.Machine
end

