-- ==== Sys2Proof/Laws/Caller.lean ====
section
/-!
SUPPORT. What the Callers' registers and the program's progress do.
-/

-- One declaration after another: the package is compiled as one text under a memory limit.
set_option Elab.async false

namespace Sys2Proof.Machine

/-! ### Vectors of copies -/

theorem vget_vupdN_same {α : Type} {n : Nat} (v : Vector α n) (i : Nat) (f : α → α) (x : α) (h : i < n) :
    vget (vupdN v i f) i x = f (vget v i x) := by
  simp [vget, vupdN, vupd, h]

theorem vget_vupdN_ne {α : Type} {n : Nat} (v : Vector α n) (i j : Nat) (f : α → α) (x : α) (h : i ≠ j) :
    vget (vupdN v i f) j x = vget v j x := by
  by_cases hi : i < n
  · by_cases hj : j < n
    · simp [vget, vupdN, vupd, hi, hj, h]
    · simp [vget, hj]
  · simp [vget, vupdN, hi]

/-! ### A Caller's own state -/

theorem caller_putCaller (d : Dev) (k : Nat) (f : CallerState → CallerState) (h : k < 8) : (d.putCaller k f).caller k = f (d.caller k) :=
  vget_vupdN_same _ _ _ _ h

theorem caller_putCaller_ne (d : Dev) (k j : Nat) (f : CallerState → CallerState) (h : k ≠ j) : (d.putCaller k f).caller j = d.caller j :=
  vget_vupdN_ne _ _ _ _ _ h

/-- Writing a general register moves neither the program nor its wait. -/
theorem putReg_caller (d : Dev) (k r : Nat) (v : Word) (h : k < 8) :
    ((d.putReg k r v).caller k).st = (d.caller k).st ∧ ((d.putReg k r v).caller k).pc = (d.caller k).pc := by
  unfold Dev.putReg
  split
  · exact ⟨rfl, rfl⟩
  · rw [caller_putCaller _ _ _ h]
    exact ⟨rfl, rfl⟩

/-- g0 reads 0, a written register what was written, another what it was (R210). -/
theorem reg_putReg (d : Dev) (k r q : Nat) (v : Word) (h : k < 8) (hr : r < 16) :
    (d.putReg k r v).reg k q = if q = 0 then 0 else if q = r then v else d.reg k q := by
  by_cases hq : q = 0
  · simp [Dev.reg, hq]
  · by_cases h0 : r = 0
    · have : q ≠ r := by omega
      simp [Dev.putReg, h0, hq]
    · by_cases e : q = r
      · subst e
        simp only [Dev.reg, Dev.putReg, if_neg hq, caller_putCaller _ _ _ h, if_true]
        exact vget_vupdN_same _ _ _ _ hr
      · simp only [Dev.reg, Dev.putReg, if_neg hq, if_neg h0, if_neg e, caller_putCaller _ _ _ h]
        exact vget_vupdN_ne _ _ _ _ _ (Ne.symm e)

/-- The next instruction, where there is one. -/
theorem advance_next (d : Dev) (k : Nat) (h : (d.caller k).pc < 16383) :
    d.advance k = d.putCaller k fun c => { c with st := .run, pc := (d.caller k).pc + 1 } := by
  have : (0 : Int) ≤ ((d.caller k).pc : Int) + 1 ∧ ((d.caller k).pc : Int) + 1 ≤ 16383 := by omega
  simp only [Dev.advance, Dev.goTo, if_pos this]
  rfl

/-- A result and the next instruction. -/
theorem result_next (d : Dev) (k r : Nat) (v : Word) (hk : k < 8) (h : (d.caller k).pc < 16383) :
    d.result k r v = (d.putReg k r v).putCaller k fun c => { c with st := .run, pc := (d.caller k).pc + 1 } := by
  have e := (putReg_caller d k r v hk).2
  rw [Dev.result, advance_next _ _ (by rw [e]; exact h), e]

/-- An instruction of a program that runs. -/
theorem instr_run (d : Dev) (k : Nat) (f : Dev → Dev) (h : (d.caller k).st = .run) : d.instr k f = f d := by simp [Dev.instr, h]

/-- An instruction of a program that does not. -/
theorem instr_stopped (d : Dev) (k : Nat) (f : Dev → Dev) (h : (d.caller k).st ≠ .run) : d.instr k f = d := by simp [Dev.instr, h]

end Sys2Proof.Machine
end

