-- ==== Sys2Proof/Laws/PerInstr.lean ====
section
/-!
SUPPORT. What being well formed asks of each command, said as a proposition and shown row by row: the check that runs and the
condition that a reader states are the same.
-/

-- One declaration after another: the package is compiled as one text under a memory limit.
set_option Elab.async false

namespace Sys2Proof.Laws.Family

/-- The conditions on a command's operands that the spec's formats give: a PREPARE carries as many words as its count says (R120),
an AUTH message 1 to 64 bytes (R120), a partial word 1 to 31 bits (R279), a record its announced lengths, and so on; a command that is
not listed has operands that every value fits. -/
def Fits (i : Instr) : Prop :=
  match i with
  | .prepare _ _ nw _ data _ => data.length = if nw = 0 then 16 else nw.toNat
  | .auth _ _ _ message => 1 ≤ message.length ∧ message.length ≤ 64
  | .candidate _ _ fc16 rx _ => rx.even = true ∧ ∀ b ∈ rx.branches, b.length = 64 + runCycles fc16
  | .arrival _ fc16 _ rx => rx.even = true ∧ ∀ b ∈ rx.branches, b.length = runCycles fc16
  | .syncQualify _ _ rx => rx.even = true
  | .seamCrossing _ _ rx => rx.even = true
  | .windowSlide _ rx => rx.even = true
  | .codewordQueued _ rx => rx.even = true
  | .frameDelivery _ rx => rx.even = true
  | .undefinedOpcode _ op => opcodeDefined op.toNat = false
  | .selectRelease _ _ part _ _ => ∀ q, part = some q → 1 ≤ q.1 ∧ q.1 ≤ 31
  | .dumarNop _ _ ws _ => ws.length < 2048
  | .hello _ _ ws _ => ws.length < 2048
  | .bye _ _ ws _ => ws.length < 2048
  | .rd _ _ ws _ => ws.length < 2048
  | .wr _ _ ws _ => ws.length < 2048
  | .rmw _ _ ws _ => ws.length < 2048
  | .qread _ _ ws _ => ws.length < 2048
  | .qwrite _ _ ws _ => ws.length < 2048
  | .reelStart _ _ ws _ => ws.length < 2048
  | .dumarReelData _ _ ws _ => ws.length < 2048
  | .reelArm _ _ ws _ => ws.length < 2048
  | .twoWireTimeout b _ => b.val < 2
  | .bowAnswer n _ => isDomain n.val = true
  | .bowDelayExpiry n => isDomain n.val = true
  | .entrySwitch l => ∀ n ∈ l, 16 ≤ n.val
  | .portWake n => 10 ≤ n.val
  | .switchAttemptFail n => isDomain n.val = true
  | .scrubRead l => ∀ p ∈ l, p.1 < 24 ∧ 1 ≤ p.2 ∧ p.2 ≤ 2
  | .tagPowerUp k => k.channels ≤ 64 ∧ k.plans.length ≤ 16
  | _ => True

/-- A command is well formed exactly when its operands fit. -/
def Statement (i : Instr) : Prop := i.wf = true ↔ Fits i

theorem powerOnReset : Statement .powerOnReset := ⟨fun _ => trivial, fun _ => rfl⟩
theorem flashBootImageRead (a) : Statement (.flashBootImageRead a) := ⟨fun _ => trivial, fun _ => rfl⟩
theorem start (a) : Statement (.start a) := ⟨fun _ => trivial, fun _ => rfl⟩
theorem reelData (a b) : Statement (.reelData a b) := ⟨fun _ => trivial, fun _ => rfl⟩
theorem reelCheckDone : Statement .reelCheckDone := ⟨fun _ => trivial, fun _ => rfl⟩
theorem arm (a b c) : Statement (.arm a b c) := ⟨fun _ => trivial, fun _ => rfl⟩
theorem disarm (a) : Statement (.disarm a) := ⟨fun _ => trivial, fun _ => rfl⟩
theorem carryAbort (a) : Statement (.carryAbort a) := ⟨fun _ => trivial, fun _ => rfl⟩
theorem tune (a b) : Statement (.tune a b) := ⟨fun _ => trivial, fun _ => rfl⟩
theorem tuneDone (a b c d) : Statement (.tuneDone a b c d) := ⟨fun _ => trivial, fun _ => rfl⟩
theorem reinstate (a b) : Statement (.reinstate a b) := ⟨fun _ => trivial, fun _ => rfl⟩
theorem vdrvRemeasure (a) : Statement (.vdrvRemeasure a) := ⟨fun _ => trivial, fun _ => rfl⟩
theorem claimGrant : Statement .claimGrant := ⟨fun _ => trivial, fun _ => rfl⟩
theorem rampEnd (a) : Statement (.rampEnd a) := ⟨fun _ => trivial, fun _ => rfl⟩
theorem glideEnd (a) : Statement (.glideEnd a) := ⟨fun _ => trivial, fun _ => rfl⟩
theorem fillRampUp (a) : Statement (.fillRampUp a) := ⟨fun _ => trivial, fun _ => rfl⟩
theorem fillRampDown (a) : Statement (.fillRampDown a) := ⟨fun _ => trivial, fun _ => rfl⟩
theorem segShort (a) : Statement (.segShort a) := ⟨fun _ => trivial, fun _ => rfl⟩
theorem segOpen (a) : Statement (.segOpen a) := ⟨fun _ => trivial, fun _ => rfl⟩
theorem thermalWarning (a b) : Statement (.thermalWarning a b) := ⟨fun _ => trivial, fun _ => rfl⟩
theorem thermalFault (a b) : Statement (.thermalFault a b) := ⟨fun _ => trivial, fun _ => rfl⟩
theorem vdrvLow (a) : Statement (.vdrvLow a) := ⟨fun _ => trivial, fun _ => rfl⟩
theorem vdrvRestored (a) : Statement (.vdrvRestored a) := ⟨fun _ => trivial, fun _ => rfl⟩
theorem kpEdge (a b) : Statement (.kpEdge a b) := ⟨fun _ => trivial, fun _ => rfl⟩
theorem detuneBlock (a b c d) : Statement (.detuneBlock a b c d) := ⟨fun _ => trivial, fun _ => rfl⟩
theorem trackStall (a b) : Statement (.trackStall a b) := ⟨fun _ => trivial, fun _ => rfl⟩
theorem tempoVote : Statement .tempoVote := ⟨fun _ => trivial, fun _ => rfl⟩
theorem still (a) : Statement (.still a) := ⟨fun _ => trivial, fun _ => rfl⟩
theorem revolutionBoundary (a) : Statement (.revolutionBoundary a) := ⟨fun _ => trivial, fun _ => rfl⟩
theorem periodBoundary : Statement .periodBoundary := ⟨fun _ => trivial, fun _ => rfl⟩
theorem dayBoundary : Statement .dayBoundary := ⟨fun _ => trivial, fun _ => rfl⟩
theorem longevityRecords : Statement .longevityRecords := ⟨fun _ => trivial, fun _ => rfl⟩
theorem tempoDayNext (a b) : Statement (.tempoDayNext a b) := ⟨fun _ => trivial, fun _ => rfl⟩
theorem aclkRatioMeasure (a) : Statement (.aclkRatioMeasure a) := ⟨fun _ => trivial, fun _ => rfl⟩
theorem timeResync : Statement .timeResync := ⟨fun _ => trivial, fun _ => rfl⟩
theorem tree (a b c) : Statement (.tree a b c) := ⟨fun _ => trivial, fun _ => rfl⟩
theorem assign (a b c d) : Statement (.assign a b c d) := ⟨fun _ => trivial, fun _ => rfl⟩
theorem setgen (a b c d e) : Statement (.setgen a b c d e) := ⟨fun _ => trivial, fun _ => rfl⟩
theorem quiet (a) : Statement (.quiet a) := ⟨fun _ => trivial, fun _ => rfl⟩
theorem release (a) : Statement (.release a) := ⟨fun _ => trivial, fun _ => rfl⟩
theorem wake (a) : Statement (.wake a) := ⟨fun _ => trivial, fun _ => rfl⟩
theorem ping (a) : Statement (.ping a) := ⟨fun _ => trivial, fun _ => rfl⟩
theorem readTag (a b c d e f g h i j) : Statement (.readTag a b c d e f g h i j) := ⟨fun _ => trivial, fun _ => rfl⟩
theorem readMem (a b c d e) : Statement (.readMem a b c d e) := ⟨fun _ => trivial, fun _ => rfl⟩
theorem prepare (a b c d e f) : Statement (.prepare a b c d e f) := by
  simp [Statement, Fits, Instr.wf]
theorem commit (a b c d) : Statement (.commit a b c d) := ⟨fun _ => trivial, fun _ => rfl⟩
theorem confirm (a b c) : Statement (.confirm a b c) := ⟨fun _ => trivial, fun _ => rfl⟩
theorem auth (a b c d) : Statement (.auth a b c d) := by
  simp [Statement, Fits, Instr.wf]
theorem writeUnresolved (a) : Statement (.writeUnresolved a) := ⟨fun _ => trivial, fun _ => rfl⟩
theorem cancelRefine (a b c) : Statement (.cancelRefine a b c) := ⟨fun _ => trivial, fun _ => rfl⟩
theorem candidate (a b c d e) : Statement (.candidate a b c d e) := by
  simp [Statement, Fits, Instr.wf, Pickup.lasts]
theorem syncQualify (a b c) : Statement (.syncQualify a b c) := by
  simp [Statement, Fits, Instr.wf]
theorem falseDet (a b) : Statement (.falseDet a b) := ⟨fun _ => trivial, fun _ => rfl⟩
theorem arrival (a b c d) : Statement (.arrival a b c d) := by
  simp [Statement, Fits, Instr.wf, Pickup.lasts]
theorem seamCrossing (a b c) : Statement (.seamCrossing a b c) := by
  simp [Statement, Fits, Instr.wf]
theorem windowSlide (a b) : Statement (.windowSlide a b) := by
  simp [Statement, Fits, Instr.wf]
theorem replyWindowExpiry (a) : Statement (.replyWindowExpiry a) := ⟨fun _ => trivial, fun _ => rfl⟩
theorem codewordQueued (a b) : Statement (.codewordQueued a b) := by
  simp [Statement, Fits, Instr.wf]
theorem codewordDecoded (a b) : Statement (.codewordDecoded a b) := ⟨fun _ => trivial, fun _ => rfl⟩
theorem frameDelivery (a b) : Statement (.frameDelivery a b) := by
  simp [Statement, Fits, Instr.wf]
theorem laneFail (a) : Statement (.laneFail a) := ⟨fun _ => trivial, fun _ => rfl⟩
theorem laneSpared (a) : Statement (.laneSpared a) := ⟨fun _ => trivial, fun _ => rfl⟩
theorem decCoreFail (a) : Statement (.decCoreFail a) := ⟨fun _ => trivial, fun _ => rfl⟩
theorem walk (a b) : Statement (.walk a b) := ⟨fun _ => trivial, fun _ => rfl⟩
theorem rebuild (a b) : Statement (.rebuild a b) := ⟨fun _ => trivial, fun _ => rfl⟩
theorem retire (a b c) : Statement (.retire a b c) := ⟨fun _ => trivial, fun _ => rfl⟩
theorem free (a b c) : Statement (.free a b c) := ⟨fun _ => trivial, fun _ => rfl⟩
theorem setplan (a b c) : Statement (.setplan a b c) := ⟨fun _ => trivial, fun _ => rfl⟩
theorem serviceA (a b c) : Statement (.serviceA a b c) := ⟨fun _ => trivial, fun _ => rfl⟩
theorem serviceV (a b c d) : Statement (.serviceV a b c d) := ⟨fun _ => trivial, fun _ => rfl⟩
theorem stop (a) : Statement (.stop a) := ⟨fun _ => trivial, fun _ => rfl⟩
theorem jobExchangePlace : Statement .jobExchangePlace := ⟨fun _ => trivial, fun _ => rfl⟩
theorem entryJob : Statement .entryJob := ⟨fun _ => trivial, fun _ => rfl⟩
theorem censusRingSa (a b c d) : Statement (.censusRingSa a b c d) := ⟨fun _ => trivial, fun _ => rfl⟩
theorem censusLookup (a b) : Statement (.censusLookup a b) := ⟨fun _ => trivial, fun _ => rfl⟩
theorem figCommit (a) : Statement (.figCommit a) := ⟨fun _ => trivial, fun _ => rfl⟩
theorem figRebuildDone : Statement .figRebuildDone := ⟨fun _ => trivial, fun _ => rfl⟩
theorem stepFire (a) : Statement (.stepFire a) := ⟨fun _ => trivial, fun _ => rfl⟩
theorem stepDispatch : Statement .stepDispatch := ⟨fun _ => trivial, fun _ => rfl⟩
theorem programStart (a) : Statement (.programStart a) := ⟨fun _ => trivial, fun _ => rfl⟩
theorem nop (a) : Statement (.nop a) := ⟨fun _ => trivial, fun _ => rfl⟩
theorem add (a b c d) : Statement (.add a b c d) := ⟨fun _ => trivial, fun _ => rfl⟩
theorem sub (a b c d) : Statement (.sub a b c d) := ⟨fun _ => trivial, fun _ => rfl⟩
theorem and (a b c d) : Statement (.and a b c d) := ⟨fun _ => trivial, fun _ => rfl⟩
theorem or (a b c d) : Statement (.or a b c d) := ⟨fun _ => trivial, fun _ => rfl⟩
theorem xor (a b c d) : Statement (.xor a b c d) := ⟨fun _ => trivial, fun _ => rfl⟩
theorem shl (a b c d) : Statement (.shl a b c d) := ⟨fun _ => trivial, fun _ => rfl⟩
theorem shr (a b c d) : Statement (.shr a b c d) := ⟨fun _ => trivial, fun _ => rfl⟩
theorem sar (a b c d) : Statement (.sar a b c d) := ⟨fun _ => trivial, fun _ => rfl⟩
theorem mul (a b c d) : Statement (.mul a b c d) := ⟨fun _ => trivial, fun _ => rfl⟩
theorem addi (a b c d) : Statement (.addi a b c d) := ⟨fun _ => trivial, fun _ => rfl⟩
theorem andi (a b c d) : Statement (.andi a b c d) := ⟨fun _ => trivial, fun _ => rfl⟩
theorem ori (a b c d) : Statement (.ori a b c d) := ⟨fun _ => trivial, fun _ => rfl⟩
theorem lui (a b c) : Statement (.lui a b c) := ⟨fun _ => trivial, fun _ => rfl⟩
theorem shli (a b c d) : Statement (.shli a b c d) := ⟨fun _ => trivial, fun _ => rfl⟩
theorem shri (a b c d) : Statement (.shri a b c d) := ⟨fun _ => trivial, fun _ => rfl⟩
theorem ld (a b c d) : Statement (.ld a b c d) := ⟨fun _ => trivial, fun _ => rfl⟩
theorem st (a b c d) : Statement (.st a b c d) := ⟨fun _ => trivial, fun _ => rfl⟩
theorem ldc (a b c d) : Statement (.ldc a b c d) := ⟨fun _ => trivial, fun _ => rfl⟩
theorem rds (a b c) : Statement (.rds a b c) := ⟨fun _ => trivial, fun _ => rfl⟩
theorem wrs (a b c) : Statement (.wrs a b c) := ⟨fun _ => trivial, fun _ => rfl⟩
theorem beq (a b c d) : Statement (.beq a b c d) := ⟨fun _ => trivial, fun _ => rfl⟩
theorem bne (a b c d) : Statement (.bne a b c d) := ⟨fun _ => trivial, fun _ => rfl⟩
theorem blt (a b c d) : Statement (.blt a b c d) := ⟨fun _ => trivial, fun _ => rfl⟩
theorem bltu (a b c d) : Statement (.bltu a b c d) := ⟨fun _ => trivial, fun _ => rfl⟩
theorem jmp (a b) : Statement (.jmp a b) := ⟨fun _ => trivial, fun _ => rfl⟩
theorem call (a b) : Statement (.call a b) := ⟨fun _ => trivial, fun _ => rfl⟩
theorem ret (a) : Statement (.ret a) := ⟨fun _ => trivial, fun _ => rfl⟩
theorem endProgram (a) : Statement (.endProgram a) := ⟨fun _ => trivial, fun _ => rfl⟩
theorem slot (a b c) : Statement (.slot a b c) := ⟨fun _ => trivial, fun _ => rfl⟩
theorem slotGrant : Statement .slotGrant := ⟨fun _ => trivial, fun _ => rfl⟩
theorem rel (a b) : Statement (.rel a b) := ⟨fun _ => trivial, fun _ => rfl⟩
theorem slotRelease (a) : Statement (.slotRelease a) := ⟨fun _ => trivial, fun _ => rfl⟩
theorem keep (a b c) : Statement (.keep a b c) := ⟨fun _ => trivial, fun _ => rfl⟩
theorem adopt (a b c) : Statement (.adopt a b c) := ⟨fun _ => trivial, fun _ => rfl⟩
theorem keptSlotRelease (a) : Statement (.keptSlotRelease a) := ⟨fun _ => trivial, fun _ => rfl⟩
theorem useSlot (a b) : Statement (.useSlot a b) := ⟨fun _ => trivial, fun _ => rfl⟩
theorem claim (a b c d) : Statement (.claim a b c d) := ⟨fun _ => trivial, fun _ => rfl⟩
theorem field (a b c) : Statement (.field a b c) := ⟨fun _ => trivial, fun _ => rfl⟩
theorem glide (a b c d) : Statement (.glide a b c d) := ⟨fun _ => trivial, fun _ => rfl⟩
theorem segl (a b c) : Statement (.segl a b c) := ⟨fun _ => trivial, fun _ => rfl⟩
theorem seam (a b c) : Statement (.seam a b c) := ⟨fun _ => trivial, fun _ => rfl⟩
theorem spos (a b c) : Statement (.spos a b c) := ⟨fun _ => trivial, fun _ => rfl⟩
theorem send (a b c d) : Statement (.send a b c d) := ⟨fun _ => trivial, fun _ => rfl⟩
theorem listen (a b c) : Statement (.listen a b c) := ⟨fun _ => trivial, fun _ => rfl⟩
theorem recv (a b c d) : Statement (.recv a b c d) := ⟨fun _ => trivial, fun _ => rfl⟩
theorem push (a b c d) : Statement (.push a b c d) := ⟨fun _ => trivial, fun _ => rfl⟩
theorem pop (a b c) : Statement (.pop a b c) := ⟨fun _ => trivial, fun _ => rfl⟩
theorem waitc (a b c) : Statement (.waitc a b c) := ⟨fun _ => trivial, fun _ => rfl⟩
theorem waitcReached (a) : Statement (.waitcReached a) := ⟨fun _ => trivial, fun _ => rfl⟩
theorem waita (a b) : Statement (.waita a b) := ⟨fun _ => trivial, fun _ => rfl⟩
theorem waitaReached (a) : Statement (.waitaReached a) := ⟨fun _ => trivial, fun _ => rfl⟩
theorem waitp (a b c d) : Statement (.waitp a b c d) := ⟨fun _ => trivial, fun _ => rfl⟩
theorem waitpReached (a) : Statement (.waitpReached a) := ⟨fun _ => trivial, fun _ => rfl⟩
theorem cen (a b c d) : Statement (.cen a b c d) := ⟨fun _ => trivial, fun _ => rfl⟩
theorem bus (a b c d) : Statement (.bus a b c d) := ⟨fun _ => trivial, fun _ => rfl⟩
theorem entry (a b) : Statement (.entry a b) := ⟨fun _ => trivial, fun _ => rfl⟩
theorem undefinedOpcode (a b) : Statement (.undefinedOpcode a b) := by
  simp [Statement, Fits, Instr.wf]
theorem programTimeout (a) : Statement (.programTimeout a) := ⟨fun _ => trivial, fun _ => rfl⟩
theorem lockstepMismatch (a) : Statement (.lockstepMismatch a) := ⟨fun _ => trivial, fun _ => rfl⟩
theorem spareTakeover (a) : Statement (.spareTakeover a) := ⟨fun _ => trivial, fun _ => rfl⟩
theorem hold (a b) : Statement (.hold a b) := ⟨fun _ => trivial, fun _ => rfl⟩
theorem bookAudit (a) : Statement (.bookAudit a) := ⟨fun _ => trivial, fun _ => rfl⟩
theorem sampleIntake : Statement .sampleIntake := ⟨fun _ => trivial, fun _ => rfl⟩
theorem messageApply (a) : Statement (.messageApply a) := ⟨fun _ => trivial, fun _ => rfl⟩
theorem stallDrop (a) : Statement (.stallDrop a) := ⟨fun _ => trivial, fun _ => rfl⟩
theorem rateRefill (a) : Statement (.rateRefill a) := ⟨fun _ => trivial, fun _ => rfl⟩
theorem latchRecords (a) : Statement (.latchRecords a) := ⟨fun _ => trivial, fun _ => rfl⟩
theorem queuePop (a b) : Statement (.queuePop a b) := ⟨fun _ => trivial, fun _ => rfl⟩
theorem queuePush (a b c) : Statement (.queuePush a b c) := ⟨fun _ => trivial, fun _ => rfl⟩
theorem markerEntry (a) : Statement (.markerEntry a) := ⟨fun _ => trivial, fun _ => rfl⟩
theorem queueReset (a b) : Statement (.queueReset a b) := ⟨fun _ => trivial, fun _ => rfl⟩
theorem poolAudit (a) : Statement (.poolAudit a) := ⟨fun _ => trivial, fun _ => rfl⟩
theorem markPassDone : Statement .markPassDone := ⟨fun _ => trivial, fun _ => rfl⟩
theorem selectAssert (a) : Statement (.selectAssert a) := ⟨fun _ => trivial, fun _ => rfl⟩
theorem laneWord (a b) : Statement (.laneWord a b) := ⟨fun _ => trivial, fun _ => rfl⟩
theorem streamFrame (a b c) : Statement (.streamFrame a b c) := ⟨fun _ => trivial, fun _ => rfl⟩
theorem selectRelease (a b c d e) : Statement (.selectRelease a b c d e) := by
  rcases c with _ | q <;> simp [Statement, Fits, Instr.wf, partOk]
theorem dumarNop (a b c d) : Statement (.dumarNop a b c d) := by
  simp [Statement, Fits, Instr.wf]
theorem hello (a b c d) : Statement (.hello a b c d) := by
  simp [Statement, Fits, Instr.wf]
theorem bye (a b c d) : Statement (.bye a b c d) := by
  simp [Statement, Fits, Instr.wf]
theorem rd (a b c d) : Statement (.rd a b c d) := by
  simp [Statement, Fits, Instr.wf]
theorem wr (a b c d) : Statement (.wr a b c d) := by
  simp [Statement, Fits, Instr.wf]
theorem rmw (a b c d) : Statement (.rmw a b c d) := by
  simp [Statement, Fits, Instr.wf]
theorem qread (a b c d) : Statement (.qread a b c d) := by
  simp [Statement, Fits, Instr.wf]
theorem qwrite (a b c d) : Statement (.qwrite a b c d) := by
  simp [Statement, Fits, Instr.wf]
theorem reelStart (a b c d) : Statement (.reelStart a b c d) := by
  simp [Statement, Fits, Instr.wf]
theorem dumarReelData (a b c d) : Statement (.dumarReelData a b c d) := by
  simp [Statement, Fits, Instr.wf]
theorem reelArm (a b c d) : Statement (.reelArm a b c d) := by
  simp [Statement, Fits, Instr.wf]
theorem answerPush (a) : Statement (.answerPush a) := ⟨fun _ => trivial, fun _ => rfl⟩
theorem h2Address (a b) : Statement (.h2Address a b) := ⟨fun _ => trivial, fun _ => rfl⟩
theorem h2WriteByte (a) : Statement (.h2WriteByte a) := ⟨fun _ => trivial, fun _ => rfl⟩
theorem h2ReadWord : Statement .h2ReadWord := ⟨fun _ => trivial, fun _ => rfl⟩
theorem h2Stop (a) : Statement (.h2Stop a) := ⟨fun _ => trivial, fun _ => rfl⟩
theorem ackStart : Statement .ackStart := ⟨fun _ => trivial, fun _ => rfl⟩
theorem inbandPulse (a) : Statement (.inbandPulse a) := ⟨fun _ => trivial, fun _ => rfl⟩
theorem hostnCmd (a b) : Statement (.hostnCmd a b) := ⟨fun _ => trivial, fun _ => rfl⟩
theorem hostnAns (a) : Statement (.hostnAns a) := ⟨fun _ => trivial, fun _ => rfl⟩
theorem reelAck (a) : Statement (.reelAck a) := ⟨fun _ => trivial, fun _ => rfl⟩
theorem busTransactionStart (a b c) : Statement (.busTransactionStart a b c) := ⟨fun _ => trivial, fun _ => rfl⟩
theorem busTransactionEnd (a b) : Statement (.busTransactionEnd a b) := ⟨fun _ => trivial, fun _ => rfl⟩
theorem addressRetry (a) : Statement (.addressRetry a) := ⟨fun _ => trivial, fun _ => rfl⟩
theorem twoWireTimeout (a b) : Statement (.twoWireTimeout a b) := by
  simp [Statement, Fits, Instr.wf]
theorem pollDue (a) : Statement (.pollDue a) := ⟨fun _ => trivial, fun _ => rfl⟩
theorem edgeSource (a b) : Statement (.edgeSource a b) := ⟨fun _ => trivial, fun _ => rfl⟩
theorem busReset (a b) : Statement (.busReset a b) := ⟨fun _ => trivial, fun _ => rfl⟩
theorem enter (a) : Statement (.enter a) := ⟨fun _ => trivial, fun _ => rfl⟩
theorem bowAnswer (a b) : Statement (.bowAnswer a b) := by
  simp [Statement, Fits, Instr.wf]
theorem bowDelayExpiry (a) : Statement (.bowDelayExpiry a) := by
  simp [Statement, Fits, Instr.wf]
theorem entrySwitch (a) : Statement (.entrySwitch a) := by
  simp [Statement, Fits, Instr.wf]
theorem clearLog (a) : Statement (.clearLog a) := ⟨fun _ => trivial, fun _ => rfl⟩
theorem wakePin (a b) : Statement (.wakePin a b) := ⟨fun _ => trivial, fun _ => rfl⟩
theorem timerWake : Statement .timerWake := ⟨fun _ => trivial, fun _ => rfl⟩
theorem portWake (a) : Statement (.portWake a) := by
  simp [Statement, Fits, Instr.wf]
theorem switchReady : Statement .switchReady := ⟨fun _ => trivial, fun _ => rfl⟩
theorem switchAttemptFail (a) : Statement (.switchAttemptFail a) := by
  simp [Statement, Fits, Instr.wf]
theorem xrefQualified (a) : Statement (.xrefQualified a) := ⟨fun _ => trivial, fun _ => rfl⟩
theorem pllLock : Statement .pllLock := ⟨fun _ => trivial, fun _ => rfl⟩
theorem clockBudgetExpiry : Statement .clockBudgetExpiry := ⟨fun _ => trivial, fun _ => rfl⟩
theorem clockRetry (a) : Statement (.clockRetry a) := ⟨fun _ => trivial, fun _ => rfl⟩
theorem xrefLoss (a) : Statement (.xrefLoss a) := ⟨fun _ => trivial, fun _ => rfl⟩
theorem reentry : Statement .reentry := ⟨fun _ => trivial, fun _ => rfl⟩
theorem crystalStart (a) : Statement (.crystalStart a) := ⟨fun _ => trivial, fun _ => rfl⟩
theorem crystalTimeout : Statement .crystalTimeout := ⟨fun _ => trivial, fun _ => rfl⟩
theorem srcSel (a b) : Statement (.srcSel a b) := ⟨fun _ => trivial, fun _ => rfl⟩
theorem rcTrim : Statement .rcTrim := ⟨fun _ => trivial, fun _ => rfl⟩
theorem bodyBiasUpdate (a b) : Statement (.bodyBiasUpdate a b) := ⟨fun _ => trivial, fun _ => rfl⟩
theorem retLost : Statement .retLost := ⟨fun _ => trivial, fun _ => rfl⟩
theorem supplyFall (a) : Statement (.supplyFall a) := ⟨fun _ => trivial, fun _ => rfl⟩
theorem tapPing (a b c d) : Statement (.tapPing a b c d) := ⟨fun _ => trivial, fun _ => rfl⟩
theorem learn (a) : Statement (.learn a) := ⟨fun _ => trivial, fun _ => rfl⟩
theorem scrubRead (a) : Statement (.scrubRead a) := by
  simp [Statement, Fits, Instr.wf]
theorem load (a) : Statement (.load a) := ⟨fun _ => trivial, fun _ => rfl⟩
theorem promote (a) : Statement (.promote a) := ⟨fun _ => trivial, fun _ => rfl⟩
theorem erase (a) : Statement (.erase a) := ⟨fun _ => trivial, fun _ => rfl⟩
theorem wipe (a) : Statement (.wipe a) := ⟨fun _ => trivial, fun _ => rfl⟩
theorem tamper (a) : Statement (.tamper a) := ⟨fun _ => trivial, fun _ => rfl⟩
theorem lcArm (a b) : Statement (.lcArm a b) := ⟨fun _ => trivial, fun _ => rfl⟩
theorem lcGo (a b c) : Statement (.lcGo a b c) := ⟨fun _ => trivial, fun _ => rfl⟩
theorem lcProgramDone (a) : Statement (.lcProgramDone a) := ⟨fun _ => trivial, fun _ => rfl⟩
theorem rebase (a b) : Statement (.rebase a b) := ⟨fun _ => trivial, fun _ => rfl⟩
theorem windowRead (a b c) : Statement (.windowRead a b c) := ⟨fun _ => trivial, fun _ => rfl⟩
theorem windowWrite (a b c d e) : Statement (.windowWrite a b c d e) := ⟨fun _ => trivial, fun _ => rfl⟩
theorem rcRead (a b) : Statement (.rcRead a b) := ⟨fun _ => trivial, fun _ => rfl⟩
theorem registerWrite (a b c) : Statement (.registerWrite a b c) := ⟨fun _ => trivial, fun _ => rfl⟩
theorem sysReset (a b) : Statement (.sysReset a b) := ⟨fun _ => trivial, fun _ => rfl⟩
theorem extest : Statement .extest := ⟨fun _ => trivial, fun _ => rfl⟩
theorem sample (a) : Statement (.sample a) := ⟨fun _ => trivial, fun _ => rfl⟩
theorem preload (a) : Statement (.preload a) := ⟨fun _ => trivial, fun _ => rfl⟩
theorem idcode : Statement .idcode := ⟨fun _ => trivial, fun _ => rfl⟩
theorem clamp : Statement .clamp := ⟨fun _ => trivial, fun _ => rfl⟩
theorem highz : Statement .highz := ⟨fun _ => trivial, fun _ => rfl⟩
theorem segloop : Statement .segloop := ⟨fun _ => trivial, fun _ => rfl⟩
theorem testacc (a) : Statement (.testacc a) := ⟨fun _ => trivial, fun _ => rfl⟩
theorem bypass : Statement .bypass := ⟨fun _ => trivial, fun _ => rfl⟩
theorem testLogicReset : Statement .testLogicReset := ⟨fun _ => trivial, fun _ => rfl⟩
theorem loopRun (a) : Statement (.loopRun a) := ⟨fun _ => trivial, fun _ => rfl⟩
theorem loopDone (a b c d e) : Statement (.loopDone a b c d e) := ⟨fun _ => trivial, fun _ => rfl⟩
theorem fuseProgram (a b) : Statement (.fuseProgram a b) := ⟨fun _ => trivial, fun _ => rfl⟩
theorem fuseRowDone (a) : Statement (.fuseRowDone a) := ⟨fun _ => trivial, fun _ => rfl⟩
theorem fieldCollapse (a) : Statement (.fieldCollapse a) := ⟨fun _ => trivial, fun _ => rfl⟩
theorem tagPowerUp (a) : Statement (.tagPowerUp a) := by
  simp [Statement, Fits, Instr.wf]
theorem vioBelow1v5 (a b) : Statement (.vioBelow1v5 a b) := ⟨fun _ => trivial, fun _ => rfl⟩
theorem aonScrubber (a) : Statement (.aonScrubber a) := ⟨fun _ => trivial, fun _ => rfl⟩
theorem lcArmExpiry : Statement .lcArmExpiry := ⟨fun _ => trivial, fun _ => rfl⟩
theorem thermalWarningEnd (a b) : Statement (.thermalWarningEnd a b) := ⟨fun _ => trivial, fun _ => rfl⟩

end Sys2Proof.Laws.Family
end

