-- ==== Sys2Proof/Tests/Slice0.lean ====
section
/-!
SUPPORT. Tests on fixed values: commands that WellFormed refuses, Caller instructions written out as R213 gives them, one step on a
small state for the values that the spec states, and for each statement a state and operands that meet its hypotheses together, clause
by clause (theorems witness_*).
-/

-- One declaration after another: the package is compiled as one text under a memory limit.
set_option Elab.async false
set_option maxRecDepth 100000
namespace Sys2Proof.Tests
open Sys2Proof Sys2Proof.Machine

/-! ### A small block -/

/-- The 64 bytes of a hub slot whose parameters are 0 but for those listed. -/
def slotBytes (l : List (Nat × Nat)) : List Byte := (List.range 64).map fun i => BitVec.ofNat 8 ((assocGet i l).getD 0)

/-- A Reel of two rings, two tenants, four hub engines' worth of queues and two slots. -/
def reel0 : Reel :=
  { format := 2, signed := false, serial := 7, ringCrc := 0
    ring := [ { ring := 0, flags := 0b11101, kp := 0, segCount := 4, segMask := 0xF, origin := 0, refTag := 0xFFFF, maxRpm := 3000 },
              { ring := 1, flags := 0b10010, kp := 1, segCount := 6, segMask := 0xFC0, origin := 0, refTag := 0xFFFF, maxRpm := 3000 } ]
    xbar := (List.range 20).map fun i => if i < 2 then ⟨1, 0, 2⟩ else if i < 4 then ⟨1, 6, 3⟩ else if i < 6 then ⟨2, 0, 0⟩ else ⟨0, 0, 0⟩
    dec := [⟨0, 0, 0x3F⟩, ⟨0, 0, 0⟩, ⟨0, 0, 0⟩, ⟨1, 128, 0⟩]
    hub := { periodMs := 100, mask := 15
             watch := [⟨0x40000, 0, 1⟩, ⟨0x100, 1, 1⟩]
             slots := [⟨0, 0, 0x01, slotBytes [(4, 0xFF), (5, 4)]⟩, ⟨1, 1, 0x08, slotBytes [(4, 0xFF), (5, 0xFF), (16, 1)]⟩] }
    qmap := (List.range 64).map fun i =>
      if i = 0 then ⟨0, 0, 3, 10, 0⟩ else if i = 1 then ⟨0, 1, 0, 10, 0⟩ else if i = 2 then ⟨0, 2, 0, 10, 0⟩ else if i = 3 then ⟨0, 3, 0, 10, 0⟩
      else if i = 4 then ⟨1, 1, 0, 10, 4⟩ else if i = 5 then ⟨1, 2, 0, 10, 4⟩ else ⟨0xFF, 0, 0, 0, 0⟩
    tenants := [ { tenant := 0, port := 0, addr := 0, hint := 0, chFirst := 0, chCount := 0x200, figFirst := 0, figCount := 100, credits := 4, flags := 3, dumarMax := 0x20 },
                 { tenant := 1, port := 2, addr := 0x10, hint := 1, chFirst := 0x200, chCount := 0x200, figFirst := 100, figCount := 100, credits := 4, flags := 0, dumarMax := 0x20 } ]
    tapMs := 100
    power := (List.range 36).map fun i => { dom := if i < 12 then i + 1 else i + 4, policy := 1, delayMax := 10 }
    pins := [⟨0x20, 1, 0⟩, ⟨0x21, 1, 8⟩, ⟨0x22, 1, 0x0108⟩, ⟨0, 2, 0⟩, ⟨0x30, 1, 0⟩] }

/-- The registers of that Reel, with XREF locked and VDRV at 12 V. -/
def regs0 : List (Nat × Nat) :=
  [(16384, 1), (16385, 1), (16386, 0), (24640, 100), (65571, 1), (65575, 1), (65664, 7), (73888, 100), (74885, 1), (82272, 4194304), (82816, 3808), 
   (83264, 4194304), (83296, 8388608), (84288, 8388608), (84320, 12582912), (85312, 12582912), (88416, 2796202), 
   (89408, 2796202), (89440, 5592405), (90432, 5592405), (90464, 8388608), (91456, 8388608), (91488, 11184810), 
   (92480, 11184810), (92512, 13981013), (93504, 13981013), (106496, 1), (106503, 2), (107520, 1), (107527, 2), (107532, 1), 
   (108544, 1), (108546, 6), (108551, 3), (108556, 2), (109568, 1), (109570, 6), (109575, 3), (109580, 3), (110592, 2), 
   (110604, 4), (111616, 2), (111628, 5), (112652, 6), (113676, 7), (114700, 8), (115724, 9), (116748, 10), (117772, 11), 
   (118796, 12), (119820, 13), (120844, 14), (121868, 15), (122892, 16), (123916, 17), (124940, 18), (125964, 19), 
   (130048, 4), (130056, 5), (131104, 3), (131106, 1), (132480, 1), (163872, 2), (163887, 2), (163898, 15), (196715, 1), 
   (196716, 1), (196720, 10), (196968, 1), (196976, 10), (197224, 2), (197232, 10), (197480, 3), (197488, 10), 
   (197600, 65530), (197728, 1), (197736, 1), (197744, 10), (197808, 4), (197984, 1), (197992, 2), (198000, 10), (198064, 4)]
    ++ (List.range 58).map (fun i => (198240 + 256 * i, 255)) ++ [(213028, 7), (229504, 2), (229506, 1)]

/-- After power-on, with XREF locked and that Reel active. -/
def dev0 : Dev :=
  { resetDev with
    regs := regs0
    sram := [(786434, 4), (786437, 64), (786440, 1), (786449, 1), (786450, 8), (786453, 64), (786456, 1), (1048580, 255), (1048581, 4),
             (1048644, 255), (1048645, 255), (1048656, 1)]
    reel := { resetDev.reel with active := some reel0 }
    tempo := { resetDev.tempo with
               rings := Vector.ofFn fun i => newRing 0 (decide (i.val < 2)) (decide (i.val < 1)) (decide (i.val < 1)), periodNext := some 2712000 }
    que := { resetDev.que with q := Vector.ofFn fun i => { emptyQueue with seated := decide (i.val < 6) }, free := 65530 }
    host := { resetHost with ctx := Vector.ofFn fun i => newCtx (if i.val < 2 then 4 else 0) }
    pwr := { resetPower with clkWait := [] } }


/-- A state in which nothing waits. -/
def blk (d : Dev) : State := { pending := [], dev := d }

/-- At tick `t`. -/
def atTick (d : Dev) (t : Nat) : Dev := { d with clock := { d.clock with time := BitVec.ofNat 64 t } }

/-- With domain `n` Off. -/
def dark (d : Dev) (n : Nat) : Dev := d.inPwr fun p => { p with dom := vupdN p.dom n fun _ => .off }

/-- With window A of tenant `t` at word `b`. -/
def winAt (d : Dev) (t b : Nat) : Dev := d.p HOST_WINA_BASE_BASE t b

/-- The outcome is a next state whose block meets `p`. -/
def after (o : Host.Outcome State Fault Refusal) (p : Dev → Bool) : Bool :=
  match o with
  | .next s => p s.dev
  | _ => false

/-- Every slot is free. -/
theorem dev0_slot (i : Nat) : dev0.slot i = none := by simp [Dev.slot, vget, dev0, resetDev]

/-- The slots after one is put. -/
theorem slot_of_put (d : Dev) (k : Nat) (x : Option Slot) (i : Nat) (h : k < 256) :
    (d.putSlot k x).slot i = if i = k then x else d.slot i := by
  by_cases hi : i < 256
  · by_cases hk : i = k
    · subst hk; simp [Dev.slot, Dev.putSlot, Dev.inFig, vget, vupdN, vupd, hi]
    · have hk' : ¬ k = i := fun e => hk e.symm
      simp [Dev.slot, Dev.putSlot, Dev.inFig, vget, vupdN, vupd, hi, h, hk, hk']
  · have : i ≠ k := by omega
    simp [Dev.slot, vget, hi, this]

/-! ### Hypotheses met: the machine and its ports (O1 to O12) -/

/-- Where every context of the fixture stands, no Dumar command is under way. -/
theorem dev0_noCmd (c : Nat) : (dev0.ctx c).cmd = [] := by
  by_cases h : c < 5
  · have : ∀ c < 5, (dev0.ctx c).cmd = [] := by decide
    exact this c h
  · simp [Dev.ctx, vget, h, newCtx]

theorem witness_OnlyWellFormedCommandsWait :
    State.reset.QueueOk ∧ step State.reset = .next State.reset.idle
      ∧ State.QueueOk { pending := [.jmp 0 3, .prepare ⟨0, false, false, 0, true⟩ 0 1 0 [0] true], dev := dev0 }
      ∧ step { pending := [.jmp 0 3], dev := dev0 } = exec (.jmp 0 3) (blk dev0) := by
  refine ⟨by unfold State.QueueOk; decide, rfl, by unfold State.QueueOk; decide, rfl⟩

theorem witness_ResetLeaves : CLK_STATUS_ON_RC.resetOf 0 < 2 ^ CLK_STATUS_ON_RC.width ∧ (1 ≤ 1 ∧ 1 ≤ 12 ∨ 16 ≤ 1 ∧ 1 < 40) ∧ (16 ≤ 39 ∧ 39 < 40) := by
  decide

theorem witness_SettlingAQuietBlockChangesNothing : dev0.Quiet ∧ regsRising 0 dev0.regs = true ∧ (0 : Nat) < 4 ∧ 3 < 4 := by
  unfold Dev.Quiet; decide

theorem witness_WindowsKeepTenantsApart :
    (1 : Tenant) ≠ 0 ∧ 0x4000 ≤ (0x4000 : BitVec 16).toNat ∧ privateOf 0 0xB9000 = true ∧ privateOf 3 0xBFFFF = true
      ∧ (∃ s', exec (.windowWrite 1 0x4000 5 none 0) (blk (winAt dev0 1 0xB9000)) = .next s')
      ∧ ∃ s', exec (.windowWrite 1 0x7FFF 5 none 0) (blk (winAt dev0 1 0xBC000)) = .next s' := by
  refine ⟨by decide, by decide, by decide, by decide, ⟨_, rfl⟩, ⟨_, rfl⟩⟩

theorem witness_TenantsReachNoControl :
    (1 : Tenant) ≠ 0 ∧ (0x3FFF : BitVec 16).toNat < 0x4000
      ∧ ¬ (0x440 + 0x100 * (1 : Tenant).val ≤ (0x53F : BitVec 16).toNat ∧ (0x53F : BitVec 16).toNat < 0x480 + 0x100 * (1 : Tenant).val)
      ∧ ¬ (0x440 + 0x100 * (1 : Tenant).val ≤ (0x580 : BitVec 16).toNat ∧ (0x580 : BitVec 16).toNat < 0x480 + 0x100 * (1 : Tenant).val)
      ∧ (∀ c, (dev0.ctx c).cmd = []) ∧ ∃ s', exec (.registerWrite 1 0x50C 7) (blk dev0) = .next s' :=
  ⟨by decide, by decide, by decide, by decide, dev0_noCmd, _, rfl⟩

theorem witness_ForbiddenAccessIsAPermissionError :
    (∀ c, (dev0.ctx c).cmd = []) ∧ dev0.tenantPresent 1 = true
      ∧ ((0x800 : BitVec 16).toNat < 0x4000 ∧ dev0.judge 1 0x800 false = .perm ∧ dev0.judge 1 0x800 true = .perm)
      ∧ (0x4000 ≤ (0x4000 : BitVec 16).toNat ∧ (winAt dev0 1 0xB9000).judgeWindow 1 ((winAt dev0 1 0xB9000).windowWord 1 0x4000) false = .perm
          ∧ (winAt dev0 1 0xB9000).judgeWindow 1 ((winAt dev0 1 0xB9000).windowWord 1 0x4000) true = .perm)
      ∧ (winAt dev0 1 0xB9000).tenantPresent 1 = true ∧ dev0.reelOn = true ∧ dev0.mayWrite 0 0x800 = true :=
  ⟨dev0_noCmd, by decide, by decide, by decide, by decide, by decide, by decide⟩

theorem witness_AbsentSramReadsZero :
    (dev0.reelOn = true ∧ (dark dev0 16).bankOn 0 = false ∧ (dark dev0 16).windowReads 0 0x10000 = true ∧ (dark dev0 39).bankOn 23 = false
        ∧ (dark dev0 39).windowWrites 0 (0x8000 * 23 + 0x1000) = true ∧ (23 : Nat) < 24 ∧ 0x1000 < 0x8000)
      ∧ (winAt dev0 0 0xC0000).tenantPresent 0 = true ∧ 0xC0000 ≤ (winAt dev0 0 0xC0000).windowWord 0 (0x4000 : BitVec 16).toNat
      ∧ (dark dev0 18).windowReads 0 (0x8000 * 2) = true ∧ (dark dev0 18).bankOn 2 = false := by
  decide

theorem witness_WindowAccessesReachTheirWord :
    dev0.tenantPresent 0 = true
      ∧ ((winAt dev0 0 0xB9000).judgeWindow 0 ((winAt dev0 0 0xB9000).windowWord 0 0x4000) false = .pass
          ∧ (winAt dev0 0 0xB9000).eccOf (0xB9000 / 0x8000) (0xB9000 % 0x8000) = 0
          ∧ (winAt dev0 0 0xB9000).judgeWindow 0 ((winAt dev0 0 0xB9000).windowWord 0 0x4000) true = .pass)
      ∧ ((winAt dev0 0 0x10000).judgeWindow 0 ((winAt dev0 0 0x10000).windowWord 0 0x4007) true = .pass)
      ∧ ((winAt (dev0.inFig fun f => { f with index := [0] }) 0 0).windowWord 0 0x4000 = 0)
      ∧ ((winAt dev0 0 0x30000).judgeWindow 0 ((winAt dev0 0 0x30000).windowWord 0 0x4002) true = .pass
          ∧ (winAt dev0 0 0x30000).windowWord 0 0x4002 % 4 = 2)
      ∧ (winAt dev0 0 0).judgeWindow 0 ((winAt dev0 0 0).windowWord 0 0x4003) true = .pass
      ∧ (atTick dev0 5).hub.nowCycle ≠ (atTick dev0 5).cycle := by
  decide

theorem witness_DarkAccessReadsItsDomain :
    (∀ c, ((dark dev0 4).ctx c).cmd = []) ∧ (dark dev0 4).tenantPresent 0 = true
      ∧ ((dark dev0 4).judge 0 0xD00 false = .dark 4 ∧ (dark dev0 4).judge 0 0xD00 true = .dark 4)
      ∧ ((dark (winAt dev0 0 0xB9000) 39).judgeWindow 0 ((winAt dev0 0 0xB9000).windowWord 0 0x4000) false = .dark 39
          ∧ (dark (winAt dev0 0 0xB9000) 39).judgeWindow 0 ((winAt dev0 0 0xB9000).windowWord 0 0x4000) true = .dark 39) :=
  ⟨dev0_noCmd, by decide, by decide, by decide⟩

theorem witness_RegisterAccessesFollowTheirTypes :
    (dev0.tenantPresent 0 = true ∧ dev0.judge 0 0x80A false = .pass ∧ assocGet (latchKey 0 0x80A) dev0.host.latches = none)
      ∧ ((∀ c, (dev0.ctx c).cmd = []) ∧ dev0.admits 0 0x904 ∧ 0x900 ≤ (0x904 : BitVec 16).toNat ∧ (0x904 : BitVec 16).toNat < 0x906)
      ∧ dev0.admits 0 0xD00 ∧ dev0.admits 0 2
      ∧ (HOST_WINA_BASE_BASE.ty = .rw ∧ FLD_EVENTS_CLAIM_REFUSED.ty = .w1c ∧ FLD_VDRV_VDRV.ty ≠ .rw ∧ FLD_VDRV_VDRV.ty ≠ .w1c)
      ∧ ((0x52530001 : Word).getLsbD 0 = true ∧ (0x52530001 : Word).toNat / 65536 = 0x5253) ∧ (0x52530000 : Word).getLsbD 0 = false := by
  refine ⟨by decide, ⟨dev0_noCmd, by unfold Dev.admits; decide, by decide, by decide⟩, by unfold Dev.admits; decide, by unfold Dev.admits; decide, by decide, by decide, by decide⟩

/-! ### Hypotheses met: the loader, the field and Tempo (O13 to O24) -/

/-- A Reel image of all eight sections, unsigned, as the number whose little-endian bytes it is. -/
def goodReel : List Byte := leBytes 1088 0x12001230f08012200000131aabf5a51000000030000000c0000010800fa002700fa002600fa002500fa002400fa002300fa002200fa002100fa002000fa001f00fa001e00fa001d00fa001c00fa001b00fa001a00fa001900fa001800fa001700fa001600fa001500fa001400fa001300fa001200fa001100fa001000fa000c00fa000b00fa000a00fa000900fa000800fa000700fa000600fa000500fa000400fa000300fa000200fa0001000000fa691577110000002400000094000001070000000000000004000000000000000000000000032d02030000000000000004000000000000000000000000022c0202000000000000000820002000000001000004000001000101000000000003000420000000000200000000000000000000b5d942d8000000040000006000000106000000000000ff3f000000000000ff3e000000000000ff3d000000000000ff3c000000000000ff3b000000000000ff3a000000000000ff39000000000000ff38000000000000ff37000000000000ff36000000000000ff35000000000000ff34000000000000ff33000000000000ff32000000000000ff31000000000000ff30000000000000ff2f000000000000ff2e000000000000ff2d000000000000ff2c000000000000ff2b000000000000ff2a000000000000ff29000000000000ff28000000000000ff27000000000000ff26000000000000ff25000000000000ff24000000000000ff23000000000000ff22000000000000ff21000000000000ff20000000000000ff1f000000000000ff1e000000000000ff1d000000000000ff1c000000000000ff1b000000000000ff1a000000000000ff19000000000000ff18000000000000ff17000000000000ff16000000000000ff15000000000000ff14000000000000ff13000000000000ff12000000000000ff11000000000000ff10000000000000ff0f000000000000ff0e000000000000ff0d000500080300010c000000000000ff0b000000000000ff0a000000000000ff09000000000000ff08000000000000ff07000000000000ff06000000000000ff05000000000000ff04000000000000ff03000000010002000200000001000100010000000100030000b6dc71a50000004000000200000001050000000000000000000f0000000003e876e06a490000000000000010000001040000000000200103000fc0000000000200003f80000000010000007f000000001bcfbbe00000000400000020000001030200021302000212020d0111020101100117010f0114010e0111010d010e010c010b010b0108010a01050109010201080215010702120106020f0105020c010402090103020601020203010102000100890db9660000001400000050000001027530ffff0000000000fff0000c010c017530ffff0000000000000fff0c000c006752461c000000020000002000000101fdb99d52000000000000000000000000244000b100000440000820014c524b5a

/-- A check that fails names what it refuses. -/
theorem refused_of {α : Type} {x : Except ReelErr α} (h : (match x with | .error _ => true | .ok _ => false) = true) : ∃ e, x = .error e := by
  cases x with
  | error e => exact ⟨e, rfl⟩
  | ok _ => cases h

/-- A check that passes gives a Reel. -/
theorem passed_of {α : Type} {x : Except ReelErr α} (h : (match x with | .ok _ => true | .error _ => false) = true) : ∃ r, x = .ok r := by
  cases x with
  | error _ => cases h
  | ok r => exact ⟨r, rfl⟩

/-- The loader in state `n`. -/
def loaderIn (n : Nat) (f : ReelState → ReelState) : Dev := (dev0.p REEL_STATUS_STATE 0 n).inReel f

/-- Before the first Reel. -/
def preReel (f : ReelState → ReelState) : Dev := ((resetDev.inPwr fun p => { p with clkWait := [] }).p REEL_STATUS_STATE 0 reelChecking).inReel f

theorem witness_ReelLoaderObeysItsCommands :
    (dev0.reel.boot = none ∧ dev0.admits 0 0x800 ∧ dev0.admits 0 0x810 ∧ dev0.reelState ≠ reelArmed ∧ dev0.reelState ≠ reelStaged
        ∧ dev0.reelState ≠ reelLoading)
      ∧ (let d := loaderIn reelArmed fun r => { r with armed := some .any }; d.admits 0 0x800 ∧ d.reelState = reelArmed)
      ∧ (let d := loaderIn reelStaged id; d.admits 0 0x800 ∧ d.reelState = reelStaged ∧ (d.ringDef 0).isSome = true)
      ∧ (let d := loaderIn reelLoading fun r => { r with total := some 12, bytes := [1, 2, 3, 4, 5, 6, 7, 8] }
         d.admits 0 0x810 ∧ d.reelState = reelLoading ∧ d.reel.total = some (d.reel.bytes.length + 4))
      ∧ (let d := loaderIn reelLoading fun r => { r with total := some 13, bytes := [1, 2, 3, 4, 5, 6, 7, 8] }
         d.admits 0 0x810 ∧ d.reelState = reelLoading ∧ d.reel.total = some 13 ∧ 13 ≠ d.reel.bytes.length + 4) := by
  unfold Dev.admits; decide

/-- The good image passes as the first Reel. -/
theorem goodReel_passes : ∃ r, checkReel dev0.reelFuses none goodReel = .ok r := passed_of (by decide +kernel)

theorem witness_ReelChecksDecide_loader :
    (let d := loaderIn reelChecking fun r => { r with bytes := [] }
     d.reelState = reelChecking ∧ ∃ e, checkReel d.reelFuses d.reel.active d.reel.bytes = .error e)
      ∧ (let d := loaderIn reelChecking fun r => { r with bytes := goodReel }
         d.reelState = reelChecking ∧ d.reelOn = true ∧ ∃ r, checkReel d.reelFuses d.reel.active d.reel.bytes = .ok r)
      ∧ (let d := preReel fun r => { r with bytes := goodReel }
         d.reelState = reelChecking ∧ d.reel.active = none ∧ ∃ r, checkReel d.reelFuses none d.reel.bytes = .ok r) :=
  ⟨⟨by decide, refused_of (by decide +kernel)⟩, ⟨by decide, by decide, passed_of (by decide +kernel)⟩, ⟨by decide, by decide, goodReel_passes⟩⟩

/-- Read from flash, an image that ends with its Reel is that Reel. -/
theorem flash_whole (bs : List Byte) : flashBytes bs.length bs = bs := by
  apply List.ext_getElem <;> simp [flashBytes]

theorem goodReel_length : goodReel.length = 1088 := by decide

/-- The good image in flash passes. -/
theorem goodFlash : ∃ r, checkFlash dev0.reelFuses goodReel = (1088, .ok r) := by
  obtain ⟨r, h⟩ := goodReel_passes
  have h1 : checkHeader (flashBytes 64 goodReel) = .ok () := by
    generalize hx : checkHeader (flashBytes 64 goodReel) = x
    have : (match checkHeader (flashBytes 64 goodReel) with | .ok _ => true | .error _ => false) = true := by decide +kernel
    rw [hx] at this
    cases x with
    | ok _ => rfl
    | error _ => cases this
  have h2 : hdrTotal (flashBytes 64 goodReel) = 1088 := by decide +kernel
  have h3 := flash_whole goodReel
  rw [goodReel_length] at h3
  exact ⟨r, by simp only [checkFlash, h1, h2, h3, h]⟩

theorem witness_ReelChecksDecide_flash :
    (let d := preReel fun r => { r with boot := some false }
     d.reel.boot = some false ∧ ∃ e, checkFlash d.reelFuses [] = ((checkFlash d.reelFuses []).1, .error e))
      ∧ (preReel fun r => { r with boot := some true }).reel.boot = some true
      ∧ ∃ r, checkFlash (preReel fun r => { r with boot := some true }).reelFuses goodReel = (1088, .ok r) := by
  refine ⟨⟨by decide, ?_⟩, by decide, goodFlash⟩
  obtain ⟨e, h⟩ := refused_of (x := (checkFlash (preReel fun r => { r with boot := some false }).reelFuses []).2) (by decide +kernel)
  exact ⟨e, by rw [← h]⟩

/-- An operation of the outgoing Reel in slot 5 of the fixture. -/
def carriedSlot : Slot := { newSlot .air (some 0) none 5 0 0 with carried := true }

/-- Under a carry that ends at tick `t`. -/
def carrying (now : Nat) : Dev := ((atTick dev0 now).inReel fun r => { r with swapTick := some 0 }).putSlot 5 (some carriedSlot)

theorem witness_ReelChecksDecide_carry :
    ((carrying 16383).carryEnd.getD 0 = 16384 ∧ (carrying 16383).now < (carrying 16383).carryEnd.getD ((carrying 16383).now + 1))
      ∧ ((carrying 16384).carryEnd = some 16384 ∧ 16384 ≤ (carrying 16384).now)
      ∧ (carrying 16384).slot 5 = some carriedSlot ∧ carriedSlot.carried = true
      ∧ (regsRising 0 dev0.regs = true ∧ (255 : Nat) < 256 ∧ (2 ^ 19 - 1 : Nat) < 2 ^ 19) := by
  decide

/-- With every segment calibrated. -/
def calibrated : Dev := (List.range 24).foldl (fun d n => (d.p SEG_CAL_FSP n 3000).p SEG_LOAD_VDRV_CAL n 12000) dev0

/-- Segment `n` in state `st` with 30 tokens of slot 5, at level 5 and on ramp `r`. -/
def ramping (n st : Nat) (r : Ramp) (d : Dev) : Dev :=
  ((d.p SEG_STATUS_STATE n st).p SEG_STATUS_HELD n 30).putSeg n fun x => { x with level := 5, owner := some (.slot 5), ramp := some r }

/-- The books balanced by FREE. -/
def balanced (d : Dev) : Dev := d.p FLD_BUDGET_FREE 0 (600 - d.claimed)

/-- A Glide from segment 0 to segment 1. -/
def gliding : Dev :=
  balanced (((ramping 0 segGlideOut ⟨true, 50, 0, 1, 8⟩ (ramping 1 segGlideIn ⟨true, 5, 50, 1, 8⟩ calibrated)).putSeg 0 fun x => { x with partner := some 1 }).putSeg 1
    fun x => { x with partner := some 0 })

/-- One claim of slot 5 for 20 tokens of segment 0 that waits, with `free` tokens free. -/
def claiming (free : Nat) : Dev :=
  (calibrated.inFld fun f => { f with claims := [{ seg := 0, owner := .slot 5, tokens := 20, prio := 1, cycle := 0, caller := 0 }] }).p FLD_BUDGET_FREE 0 free

/-- Where all the queued claims together fit beside what a segment holds, every owner's do. -/
theorem fits_of (d : Dev) (named : ∀ c ∈ d.fld.claims, c.seg < 24)
    (room : ∀ n < 24, d.held n + (d.fld.claims.map (·.tokens)).sum ≤ 100)
    (free : ∀ n < 24, (d.seg n).owner = none → d.held n = 0) : d.ClaimsFit := by
  have part : ∀ (l : List Claim) (p : Claim → Bool), ((l.filter p).map (·.tokens)).sum ≤ (l.map (·.tokens)).sum := by
    intro l p
    induction l with
    | nil => simp
    | cons c l ih => simp only [List.filter_cons]; split <;> simp <;> omega
  have most : ∀ n o, d.queuedTokens n o ≤ (d.fld.claims.map (·.tokens)).sum := fun n o => part _ _
  refine ⟨named, fun n h o => ?_, fun n h o _ => ?_, free⟩
  · have := room n h; have := most n o; omega
  · have := room n h; have := most n o; omega

theorem witness_TokenBookBalances :
    (regsRising 0 (claiming 600).regs = true ∧ (claiming 600).g FLD_BUDGET_FREE + (claiming 600).claimed = 600)
      ∧ (claiming 600).ClaimsFit ∧ gliding.ClaimsFit
      ∧ after (exec .claimGrant (blk (claiming 600))) (fun d => d.g FLD_BUDGET_FREE == 580)
      ∧ (regsRising 0 gliding.regs = true ∧ gliding.g FLD_BUDGET_FREE + gliding.claimed = 600 ∧ gliding.cen.job = none) :=
  ⟨by decide, fits_of _ (by decide) (by decide) (by decide), fits_of _ (by decide) (by decide) (by decide), by decide, by decide⟩

theorem witness_GlideEndReturnsTokens :
    regsRising 0 gliding.regs = true ∧ (0 : Seg) ≠ 1 ∧ (gliding.seg 0).partner = some 1 ∧ (gliding.seg 1).partner = some 0
      ∧ gliding.segState 0 = segGlideOut ∧ gliding.segState 1 = segGlideIn ∧ gliding.segIsRetired 0 = false
      ∧ gliding.g FLD_BUDGET_FREE + gliding.held 0 < 1024 := by
  decide

/-- A start that waits on segment 0. -/
def heldLevel : HeldStart := { slot := 5, level := 30, kind := .level, due := 1 }

theorem witness_ClaimsAreGrantedWhole :
    ((claiming 20).headClaim = some { seg := 0, owner := .slot 5, tokens := 20, prio := 1, cycle := 0, caller := 0 }
        ∧ 20 ≤ (claiming 20).g FLD_BUDGET_FREE ∧ (claiming 20).vdrvLow = false
        ∧ (((claiming 20).slot 5).map (·.carried)).getD false = false ∧ ((claiming 20).seg 0).heldStart = none)
      ∧ (let d := (claiming 20).putSeg 0 fun x => { x with heldStart := some heldLevel }
         (d.seg 0).heldStart = some heldLevel ∧ d.headClaim = (claiming 20).headClaim)
      ∧ (let d := (claiming 20).putSeg 0 fun x => { x with heldStart := some { heldLevel with level := 255 } }
         let e := (d.inFld fun f => { f with claims := f.claims ++ f.claims.map fun c => { c with prio := 0 } }).p SEG_STATUS_HELD 0 20
         e.hasQueued 0 (.slot 5) = true ∧ e.held 0 < e.tokens 0 (e.heldCode 0 { heldLevel with level := 255 }))
      ∧ (claiming 19).grantable = false
      ∧ (let d := ramping 0 segRampUp ⟨true, 5, 50, 1, 8⟩ dev0; d.cen.job = none ∧ (d.seg 0).ramp = some ⟨true, 5, 50, 1, 8⟩ ∧ d.segState 0 = segRampUp)
      ∧ (let d := ramping 0 segTune ⟨true, 5, 50, 1, 8⟩ dev0; d.cen.job = none ∧ (d.seg 0).ramp = some ⟨true, 5, 50, 1, 8⟩ ∧ d.segState 0 = segTune)
      ∧ (let d := ramping 23 segLevel ⟨true, 5, 50, 1, 8⟩ dev0; d.cen.job = none ∧ (d.seg 23).ramp = some ⟨true, 5, 50, 1, 8⟩ ∧ d.segState 23 = segLevel)
      ∧ (let d := ramping 0 segRampDown ⟨true, 5, 0, 1, 8⟩ dev0; d.cen.job = none ∧ (d.seg 0).ramp = some ⟨true, 5, 0, 1, 8⟩ ∧ d.segState 0 = segRampDown) := by
  decide

/-- Census entry `i` with short address `sa` in state `st`. -/
def entryAt (i sa st : Nat) (d : Dev) : Dev := (d.wf (cenBase + 8 * i + 2) 0 12 sa).wf (cenBase + 8 * i + 2) 12 3 st

/-- Segment 0 in state `st` at code 40 with `held` tokens and extension `ext`, segment 3 before it retired, and its tag, of address 5,
at the stator point `p` of ring 0. -/
def borrowing (p ext st held : Nat) : Dev :=
  let d := (((calibrated.p SEG_STATUS_STATE 0 st).p SEG_AMP_TARGET 0 40).p SEG_STATUS_HELD 0 held).setBit FLD_RETIRED_SEG 0 3
  let d := (entryAt 0 5 stActive (d.set1 RING_STATUS_VALID 0)).putRing 0 fun r => { r with phase := BitVec.ofNat 80 (p * 65536) }
  d.putSeg 0 fun x => { x with level := 40, owner := some (.slot 5), ext := ext, tag := some 5 }

/-- The same with a claim of its owner queued. -/
def topping (d : Dev) : Dev := d.inFld fun f => { f with claims := [{ seg := 0, owner := .slot 5, tokens := 9, prio := 0, cycle := 0, caller := 0 }] }

theorem witness_FillInRampsFollowTheTag :
    (let d := borrowing 0xF00000 0 segDrive 60
     d.segState 0 = segDrive ∧ (d.seg 0).ext = 0 ∧ 0 < d.fillExt 0 ∧ d.tokens 0 (d.fillLevel 0 (d.g SEG_AMP_TARGET 0) (d.fillExt 0)).1 ≤ d.held 0)
      ∧ (let d := topping (borrowing 0xF00000 0 segDrive 4)
         d.segState 0 = segDrive ∧ (d.seg 0).ext = 0 ∧ 0 < d.fillExt 0 ∧ (((d.seg 0).owner.map (d.hasQueued 0)).getD false) = true
           ∧ d.held 0 < d.tokens 0 (d.fillLevel 0 (d.g SEG_AMP_TARGET 0) (d.fillExt 0)).1)
      ∧ (borrowing 0x100000 0 segDrive 60).fillExt 0 = 0
      ∧ ((borrowing 0xF00000 1 segDrive 60).segState 0 = segDrive ∧ 0 < ((borrowing 0xF00000 1 segDrive 60).seg 0).ext
          ∧ (borrowing 0xF00000 1 segLevel 60).segState 0 = segLevel)
      ∧ (0 : Nat) < 1 ∧ (0 : Nat) < 2 := by
  decide +kernel

theorem witness_TuningMeasuresTheCoil :
    (calibrated.admits 0 0xA00 ∧ calibrated.segState 0 = segIdle ∧ calibrated.segIsRetired 0 = false ∧ calibrated.domTakes (fldDom 0) = true
        ∧ calibrated.vdrvLow = false ∧ tokensAt (calibrated.fspEff 0) (calibrated.g SEG_TUNE_TUNE_AMP 0) ≤ 100)
      ∧ (calibrated.admits 0 (0xA00 + 32 * 23) ∧ (ramping 23 segLevel ⟨true, 5, 50, 1, 8⟩ dev0).segState 23 ≠ segIdle
          ∧ (ramping 23 segLevel ⟨true, 5, 50, 1, 8⟩ dev0).admits 0 (0xA00 + 32 * 23))
      ∧ (let d := dev0.p SEG_TEMP_TEMP 0 (dev0.g SEG_TEMP_WARN 0 - 10)
         d.admits 0 0xA00 ∧ (d.g SEG_TEMP_WARN 0 : Int) - 10 ≤ d.gs SEG_TEMP_TEMP 0)
      ∧ (let d := (dev0.p SEG_TEMP_TEMP 0 (dev0.g SEG_TEMP_WARN 0 - 11)).set1 RING_STATUS_VALID 0
         d.admits 0 0xA00 ∧ d.gs SEG_TEMP_TEMP 0 < (d.g SEG_TEMP_WARN 0 : Int) - 10 ∧ d.ringOfSeg 0 = some 0 ∧ d.flag RING_STATUS_VALID 0 = true
           ∧ d.vdrvLow = false ∧ d.tempFault 0 = false ∧ (d.p RING_STATUS_VALID 0 0).flag RING_STATUS_VALID 0 = false)
      ∧ (let d := dev0.p SEG_TEMP_TEMP 12 0
         d.admits 0 (0xA00 + 32 * 12) ∧ d.gs SEG_TEMP_TEMP 12 < (d.g SEG_TEMP_WARN 12 : Int) - 10 ∧ d.ringOfSeg 12 = none)
      ∧ (let d := (dev0.p SEG_STATUS_STATE 0 segTune).putSeg 0 fun x => { x with level := 5, driveCycles := 256 }
         d.segState 0 = segTune ∧ d.tuneOver 0 = true ∧ d.fuses.field = 0 ∧ d.health.rebase.contains 0 = false ∧ (4 : Nat) < 5 ∧ (5 : Nat) ≤ 5)
      ∧ (dev0.p SEG_STATUS_STATE 0 segTune).tuneOver 0 = false := by
  unfold Dev.admits; decide

theorem witness_DriverFaultsAndSupply :
    regsRising 0 dev0.regs = true ∧ dev0.segIsRetired 23 = false
      ∧ (0 < ((ramping 0 segLevel ⟨true, 5, 50, 1, 8⟩ dev0).seg 0).level)
      ∧ (let d := (ramping 0 segDrive ⟨true, 5, 50, 1, 8⟩ dev0).putSlot 5 (some (newSlot .air (some 0) (some 3) 5 0 0))
         (d.seg 0).owner = some (.slot 5) ∧ d.slot 5 = some (newSlot .air (some 0) (some 3) 5 0 0))
      ∧ (dev0.p SEG_TEMP_TEMP 0 200).tempFault 0 = true ∧ (dev0.p SEG_TEMP_TEMP 0 20).tempFault 0 = false
      ∧ (-256 ≤ (-256 : Int) ∧ (255 : Int) < 256) ∧ (dev0.p SEG_STATUS_STATE 0 segBraked).segState 0 = segBraked := by
  decide

/-- The Caller of `driver` runs its program at word 100. -/
def driver (f : Dev → Dev) : Dev := f ((borrowing 0x100000 0 segDrive 30).putCaller 0 fun c => { c with st := .run, pc := 100, cur := some 5 })

theorem witness_RampsGoWhereTheyAreSent :
    (let d := borrowing 0xF00000 0 segDrive 60
     d.segState 0 = segDrive ∧ (d.seg 0).ext = 0 ∧ 0 < d.fillExt 0 ∧ d.tokens 0 (d.fillLevel 0 (d.g SEG_AMP_TARGET 0) (d.fillExt 0)).1 ≤ d.held 0)
      ∧ (let d := borrowing 0xF00000 1 segLevel 60; d.segState 0 = segLevel ∧ 0 < (d.seg 0).ext)
      ∧ (let d := driver id
         d.Runs 0 ∧ (d.caller 0).cur = some 5 ∧ (d.reg 0 0).toNat = 0 ∧ (d.seg 0).owner = some (.slot 5) ∧ (d.seg 0).partner = none
           ∧ 0 < (d.seg 0).level ∧ d.hasQueued 0 (.slot 5) = false)
      ∧ (let d := driver fun d => d.putSeg 0 fun x => { x with level := 0 }
         d.Runs 0 ∧ (d.seg 0).level = 0 ∧ regsRising 0 d.regs = true ∧ d.g FLD_BUDGET_FREE + d.held 0 < 1024)
      ∧ (let d := driver fun d => (d.putSeg 1 fun x => { x with owner := some (.slot 5) }).putReg 0 2 1
         d.Runs 0 ∧ (d.reg 0 2).toNat = (1 : Seg).val ∧ d.segState 0 = segDrive ∧ d.segState 1 = segIdle ∧ d.coverPair 0 1 = true
           ∧ (d.seg 1).owner = some (.slot 5)) := by
  unfold Dev.Runs; decide

/-- Ring 0 armed, at angle 0x123456, with a crossing of 0 behind it. -/
def crossing : Dev := (dev0.set1 RING_STATUS_ARMED 0).putRing 0 fun r => { r with phase := 0x0000000005_123456_0000#80, wrapped := true, inc := 8000000 }

theorem witness_RevolutionBoundaryCountsOnce :
    (∃ e, crossing.ringDef 0 = some e ∧ ∀ n ∈ e.segs, (crossing.seg n).reinstate = false)
      ∧ (crossing.flag RING_STATUS_ARMED 0 = true ∧ (crossing.ring 0).wrapped = true ∧ crossing.reel.armed = none)
      ∧ (dev0.flag RING_STATUS_ARMED 0 = false ∧ dev0.ringDef 3 = none) :=
  ⟨⟨_, rfl, by decide⟩, by decide, by decide⟩

theorem witness_PeriodAndDayBoundaries :
    (dev0.tempo.periodNext = some 2712000 ∧ 2712000 ≤ (atTick dev0 2712000).now ∧ (atTick dev0 2711999).now < 2712000)
      ∧ (dev0.reelOn = true ∧ dev0.tempo.periodNew = none)
      ∧ (let d := atTick dev0 2343168000000; d.dayNext ≤ d.now ∧ d.domOn domCore = true ∧ d.pwr.resync = false)
      ∧ (let d := atTick dev0 2343167999999; d.now < d.dayNext)
      ∧ dev0.health.longDue = false ∧ (dev0.inHealth fun h => { h with longDue := true }).health.longDue = true := by
  decide

/-- The header of an Encore image that holds item 3 alone, at its offset 40 (R342). -/
def headWith3 : List Byte :=
  let h := leBytes 2 0x454E ++ leBytes 1 1 ++ leBytes 1 8 ++ leBytes 2 4 ++ leBytes 2 0 ++ leBytes 2 0 ++ leBytes 2 0
    ++ ((List.range 8).flatMap fun k => leBytes 2 (if k = 2 then 40 else 0xFFFF)) ++ leBytes 4 1 ++ leBytes 4 0
  h ++ leBytes 4 (crc32c h)

/-- Item 3: tick 50,000 at ACLK cycle 1,000, at 26,484 over 32 ticks of 1/27.12 MHz for an ACLK cycle. -/
def item3 : List Byte := leBytes 8 50000 ++ leBytes 6 1000 ++ leBytes 4 54239232

/-- CORE On again 2,000 ACLK cycles later. -/
def wokenUp : Dev :=
  let image := (headWith3 ++ item3).zipIdx.filterMap fun b => if b.1 = 0 then none else some (b.2, b.1)
  { dev0 with clock := { dev0.clock with aclk := 3000, time := 60000 } }.inPwr fun p => { p with resync := true, fresh := [3], pages := [0], encore := image }

theorem wokenUp_item : wokenUp.encItem 3 = some (wokenUp.encBytes 40 84) := by
  have h1 : leNat (wokenUp.encBytes (10 + 2 * 3) 2) = 40 := by decide +kernel
  have h2 : wokenUp.encHeaderOk = true := by decide +kernel
  have h3 : wokenUp.encSound 40 84 = true := by decide +kernel
  have h4 : 3 ∈ wokenUp.pwr.fresh := by decide
  simp [Dev.encItem, h1, h2, h4, h3, itemSize]

theorem witness_TimeAcrossASleep :
    (dev0.admits 0 0x906 ∧ (0 : BitVec 64).toNat ≤ dev0.now ∧ dev0.now < (1 : BitVec 64).toNat
        ∧ (4686336000000 : BitVec 64).toNat ≤ dev0.now + 2 * 2343168000000 ∧ dev0.now + 2 * 2343168000000 < (4686336000001 : BitVec 64).toNat)
      ∧ (dev0.domOn domCore = true ∧ dev0.flag CLK_STATUS_PLL_LOCK = true) ∧ (dev0.p CLK_STATUS_PLL_LOCK 0 0).flag CLK_STATUS_PLL_LOCK = false
      ∧ (let d := dev0.inPwr fun p => { p with resync := true }; d.pwr.resync = true ∧ d.encItem 3 = none)
      ∧ (let b := wokenUp.encBytes 40 84
         wokenUp.pwr.resync = true ∧ wokenUp.encItem 3 = some b
          ∧ 2 * ((wokenUp.clock.aclk.toNat + 2 ^ 48 - leAt b 8 6) % 2 ^ 48 * leAt b 14 4 % 65536) ≠ 65536) :=
  ⟨by unfold Dev.admits; decide, by decide, by decide, by decide, by decide, wokenUp_item, by decide +kernel⟩

/-- At tick 5,000, with the tooth track of ring 0 as `f` leaves it after a mark at tick 100. -/
def toothed (f : Track → Track) (c : Nat) : Dev :=
  ((atTick dev0 5000).putTrack 0 0 fun t => f { t with marks := [(0, 100)] }).putRing 0 fun r =>
    { r with tooth := { r.tooth with accepted := c, lastTick := some 4990, expect := 4000 } }

theorem witness_MarksMoveTheirTracks :
    (dark dev0 domSio).domOn domSio = false
      ∧ (∃ e, (toothed id 3).domOn domSio = true ∧ (toothed id 3).reel.active = some reel0 ∧ reel0.pinFunction 0x40 = 0
          ∧ reel0.ring.find? (fun e => e.kp == 0) = some e ∧ e.ring < 4)
      ∧ ((toothed id 2).flag RING_KPCFG_EDGE 0 = false ∧ 2 ≤ ((toothed id 2).ring 0).tooth.accepted
          ∧ 4 * ((toothed id 2).edgeTick 0 - 4990) < ((toothed id 2).ring 0).tooth.expect)
      ∧ ((toothed id 2).set1 RING_KPCFG_EDGE 0).flag RING_KPCFG_EDGE 0 ≠ false
      ∧ (let d := toothed (fun t => { t with st := .inVote }) 1
         ¬ (2 ≤ (d.ring 0).tooth.accepted ∧ 4 * (d.edgeTick 0 - (d.ring 0).tooth.lastTick.getD 0) < (d.ring 0).tooth.expect)
           ∧ d.g RING_KPCFG_TEETH 0 ≤ 1 ∧ (d.track 0 0).marks = [(0, 100)] ∧ (d.track 0 0).st ≠ .off ∧ 100 < d.edgeTick 0
           ∧ d.ringValid 0 = false ∧ d.ringReverse 0 = false ∧ d.flag RING_STATUS_UNVOTED 0 = false)
      ∧ (let d := (dev0.set1 RING_STATUS_VALID 0).putTrack 0 2 fun t => { t with st := .inVote }
         (d.track 0 2).st ≠ .off ∧ (d.ring 0).sigRevs < 16 ∧ d.ringValid 0 = true)
      ∧ ((dev0.ringDef 0).isSome = true ∧ dev0.flag RING_STATUS_UNVOTED 0 = false ∧ dev0.agreeing 0 = [])
      ∧ (resetDev.ringDef 0 = none ∧ resetDev.ringDef 3 = none) := by
  refine ⟨by decide, ⟨_, by decide, by decide, by decide, rfl, by decide⟩, by decide, by decide, by decide, by decide, by decide, by decide⟩

/-! ### Hypotheses met: tags, lanes, decoders and the census (O25 to O35) -/

/-- A tag model with plans, two banks, AUTH and a protected part. -/
def kindT : TagKind :=
  { uid := 0xE000000000000001#64, ring := 0, caps := 0xFD, channels := 4, w1 := 0xE003, wsize := 32, model := 7, plans := [0xF#64, 0x3#64],
    protFirst := 0x104, protCount := 2 }

/-- A model without a second bank and without AUTH. -/
def kindS : TagKind := { kindT with caps := 0x60 }

/-- An assigned tag with address 5. -/
def tagT : Tag :=
  { kind := kindT, mode := .assigned, powered := true, sa := 5, offset := 3, gen := 3, rate := 1, z64 := true, self := false, bank := [(0x100, 7)],
    bankNo := 0, pendingBank := some [(0x100, 9)], commits := 2, blocks := [], nextSeq := 0, sentFF := false, overflow := false }

/-- One tag in the field. -/
def withTag (t : Tag) : Dev := { dev0 with air := { dev0.air with tags := [t] } }

/-- A frame to address 5. -/
def frame5 : Down := { ring := 0, bc := false, onbeat := true, sa := 5, ok := true }

/-- A frame to every tag of the ring. -/
def frameAll : Down := { frame5 with bc := true }

theorem witness_InventoryCommandsMoveTheTag_tree :
    (withTag { tagT with mode := .ready }).OneTag { tagT with mode := .ready } ∧ Reaches frameAll { tagT with mode := .ready } true
      ∧ tagT.uid >>> (64 - (8 : BitVec 6).toNat) = (0xE000000000000000 : BitVec 64).toNat >>> (64 - (8 : BitVec 6).toNat)
      ∧ tagT.uid >>> (64 - (63 : BitVec 6).toNat) = (0xE000000000000001 : BitVec 64).toNat >>> (64 - (63 : BitVec 6).toNat)
      ∧ tagT.uid >>> (64 - (0 : BitVec 6).toNat) = (0 : BitVec 64).toNat >>> (64 - (0 : BitVec 6).toNat)
      ∧ tagT.uid >>> (64 - (1 : BitVec 6).toNat) ≠ (0 : BitVec 64).toNat >>> (64 - (1 : BitVec 6).toNat)
      ∧ tagT.mode ≠ .ready := by
  unfold Dev.OneTag Reaches; decide

theorem witness_InventoryCommandsMoveTheTag_rest :
    (withTag tagT).OneTag tagT ∧ Reaches frameAll tagT true ∧ Reaches frame5 tagT false ∧ tagT.assigned = true
      ∧ (2 ≤ (2 : BitVec 2).toNat ∧ tagT.kind.selfClk = true ∧ (2 : BitVec 2) ≠ 3 ∧ tagT.kind.offers 3 2 true = true)
      ∧ ({ kindT with w1 := 0 }.offers 2 0 true = false)
      ∧ (let t := { tagT with mode := .quiet }; (withTag t).OneTag t ∧ Reaches frameAll t true ∧ t.mode = .quiet)
      ∧ (let t := { tagT with mode := .ready }; Reaches frame5 t false ∧ t.mode = .ready) ∧ { frame5 with ok := false }.ok = false := by
  unfold Dev.OneTag Reaches; decide

/-- No word of a tag's memory above 0xFFFF can be read. -/
theorem tagT_notReadable : tagT.readable 0xFFFF 2 = false := by
  have h : tagT.kind.writable 65536 1 = false := by decide
  simp [Tag.readable, List.range, List.range.loop, h]

/-- A CRC-16 has 16 bits. -/
theorem crc16_lt (l : List Bool) : crc16 l < 2 ^ 16 := by
  have step : ∀ (l : List Bool) (c : Nat), c < 2 ^ 16 → l.foldl (crcBit 16 0x1021) c < 2 ^ 16 := by
    intro l
    induction l with
    | nil => exact fun _ h => h
    | cons b l ih =>
      intro c _
      refine ih _ ?_
      have hm : c * 2 % 2 ^ 16 < 2 ^ 16 := Nat.mod_lt _ (by decide)
      unfold crcBit
      dsimp only
      split
      · exact hm
      · exact Nat.xor_lt_two_pow hm (by decide)
  exact step l _ (by decide)

/-- Its answer to READ with the whole of plan 0. -/
theorem tagT_read : ∃ t' a tm, tagT.read frame5 (withTag tagT).replyPick (withTag tagT).now 0 0 12 0 8 [[1, 2, 3, 4]] 0 0 0 = (t', some (a, tm)) ∧ a.ty ≠ tyUid := by
  have h : ((tagT.read frame5 (withTag tagT).replyPick (withTag tagT).now 0 0 12 0 8 [[1, 2, 3, 4]] 0 0 0).2.map fun r => r.1.ty) = some 0 := by decide
  generalize tagT.read frame5 (withTag tagT).replyPick (withTag tagT).now 0 0 12 0 8 [[1, 2, 3, 4]] 0 0 0 = x at h ⊢
  obtain ⟨t', o⟩ := x
  cases o with
  | none => cases h
  | some r => exact ⟨t', r.1, r.2, rfl, by have : r.1.ty = 0 := by simpa using h
                                           rw [this]; decide⟩

theorem witness_MemoryCommandsReadAndWriteTheTag :
    (withTag tagT).OneTag tagT ∧ Reaches frame5 tagT false ∧ tagT.assigned = true
      ∧ (∃ t' a tm, tagT.read frame5 (withTag tagT).replyPick (withTag tagT).now 0 0 12 0 8 [[1, 2, 3, 4]] 0 0 0 = (t', some (a, tm)) ∧ a.ty ≠ tyUid)
      ∧ tagT.kind.planMask (2 : BitVec 4).toNat = 0
      ∧ ((if (0 : Byte) = 0 then 128 else (0 : Byte).toNat) ≤ 128 ∧ (tagT.uplOf 12).isSome = true ∧ tagT.readable 0x47 1 = true)
      ∧ tagT.readable (0xFFFF : Half).toNat (2 : Byte).toNat = false
      ∧ ((List.replicate 16 (5 : Half)).length = (if (0 : BitVec 4) = 0 then 16 else (0 : BitVec 4).toNat) ∧ ([5] : List Half).length = (1 : BitVec 4).toNat ∧ tagT.kind.dualBank = true ∧ tagT.kind.writable 0x103 1 = true
          ∧ tagT.kind.protects 0x103 1 = false ∧ tagT.kind.protects 0x104 1 = true ∧ { tagT with mode := .secure }.assigned = true)
      ∧ kindS.dualBank = false
      ∧ (tagT.pendingBank = some [(0x100, 9)] ∧ bankToken kindT [(0x100, 9)] = (BitVec.ofNat 16 (bankToken kindT [(0x100, 9)])).toNat
          ∧ bankToken kindT [(0x100, 9)] ≠ (BitVec.ofNat 16 (bankToken kindT [(0x100, 9)] + 1)).toNat)
      ∧ (1 ≤ ([1] : List Byte).length ∧ (List.replicate 64 (1 : Byte)).length ≤ 64 ∧ kindS.canAuth = false ∧ kindT.canAuth = true) := by
  refine ⟨by unfold Dev.OneTag; decide, by unfold Reaches; decide, by decide, tagT_read, by decide, by decide, tagT_notReadable, by decide, by decide,
    ?_, by decide⟩
  have h : bankToken kindT [(0x100, 9)] < 65536 := crc16_lt _
  refine ⟨by decide, ?_, ?_⟩ <;> simp only [BitVec.toNat_ofNat] <;> omega

/-- Slot 5 kept for the unresolved write of address 5, `p` passes on. -/
def keptSlot (p : Nat) : Dev := dev0.putSlot 5 (some { newSlot .write none none 5 0 0 with kept := some { sa := 5, passes := p } })

/-- A write whose step `k` was sent last. -/
def openWrite (k : WriteStep) : WriteRec := { sa := 5, step := k, token := 3, last := none, retry := false, passes := 0, outcome := none }

theorem witness_TagsComeAndGoWithTheField :
    (∀ t ∈ dev0.air.tags, t.kind.uid ≠ kindT.uid) ∧ ((withTag tagT).air.tags = [tagT] ∧ tagT.kind = kindT)
      ∧ ((openWrite .prepare).outcome = none ∧ (openWrite .commit).step = .commit ∧ (openWrite .confirm).step = .confirm)
      ∧ ((keptSlot 16).keptFor (5 : BitVec 12).toNat = some 5 ∧ 16 ≤ ((((keptSlot 16).slot 5).bind (·.kept)).map (·.passes)).getD 0)
      ∧ ((keptSlot 15).keptFor (5 : BitVec 12).toNat = some 5
          ∧ max (((((keptSlot 15).slot 5).bind (·.kept)).map (·.passes)).getD 0) ((keptSlot 15).unknownPasses 5) < 16)
      ∧ (let d := { keptSlot 0 with air := { dev0.air with writes := [{ openWrite .confirm with retry := true, passes := 16, outcome := some .unknown }] } }
         d.keptFor (5 : BitVec 12).toNat = some 5 ∧ 16 ≤ d.unknownPasses 5) := by
  decide

/-- A J2 window for address 5 after a command that ends at tick 1,000. -/
def win2 : RxWindow :=
  { slot := 5, first := 0, gen := 2, anyGen := false, onbeat := true, offset := 3, hold := 0, rate := 0, z64 := false, cmdEnd := 1000, tree := none,
    sa := some 5 }

/-- A J1 window for any tag. -/
def win1 : RxWindow := { win2 with gen := 1, sa := none }

/-- Lane 0 searching channels 0 and 1 in window `w` at tick `now`. -/
def listening (w : RxWindow) (now : Nat) (f : LaneState → LaneState) : Dev :=
  ((atTick dev0 now).p LN_STATE_STATE 0 1).putLane 0 fun x => f { x with win := some w, chans := [0, 1] }

/-- The samples of some symbols, one sign a symbol, in the tag's square wave at amplitude `amp`. -/
def wave (fc16 : Bool) (amp : Int) (signs : List Int) : List Cplx :=
  let p := subPeriod fc16
  signs.flatMap fun s => (List.range (symCycles fc16)).map fun k => ⟨amp * s * (if k % p < p / 2 then 1 else -1), 0⟩

/-- Two branches, the second at a tenth, behind `n` silent carrier cycles. -/
def pickup (n : Nat) (amp : Int) (signs : List Int) : Pickup :=
  let quiet : List Cplx := List.replicate n ⟨0, 0⟩
  { offsetHz := 0, branches := [quiet ++ wave false amp signs, quiet ++ wave false (amp / 10) signs] }

/-- No sample. -/
def silence : Pickup := { offsetHz := 0, branches := [] }

/-- The signs of a J2 preamble's 24 symbols and of its sync word's 16 (R112). -/
def preamble2 : List Int := (List.range 24).map fun i => if i % 2 = 0 then 1 else -1
def sync2 : List Int := [-1, 1, 1, 1, -1, -1, 1, -1, -1, 1, -1, -1, 1, 1, 1, -1]

/-- Lane 0 once searcher 0 has heard the first 8 symbols of a J2 preamble, noise 10 on each channel. -/
def heard8 : Dev := (listening win2 3000 id).takeCandidate 0 0 false (pickup 64 100 (preamble2.take 8)) [10, 10]

def cand0 : Cand := { tick := 1500, fc16 := false, strength := 60, run := [], hold := false, behind := false, captor := false }
def packet2 : Packet := { searcher := 0, gen := 2, first := 1500, strength := 60, holds := 0, flags := 0 }

/-- A J1 packet that begins on its beat. -/
def packet1 : Packet := { packet2 with gen := 1, first := 1000 + 2 * (1024 + 16 * 3) }

/-- With a candidate in searcher 0. -/
def held0 (x : LaneState) : LaneState := { x with cands := #v[some cand0, none] }

/-- E / W of the first run of lane 0 of `d`, whether it is above the threshold, and its symbols' count (O30). -/
def firstRun (d : Dev) (rx : Pickup) (noise : List Nat) : (Nat × Nat) × Bool × Nat :=
  let xss := d.samples [0, 1] rx
  let c := runChain [0, 1] (d.windowNoise 0 win2 noise) xss
  let run := symbolsOf false rx.offsetHz 0 (c.branches.map (·.resid)) (xss.map (·.drop 64))
  let e := c.strength run
  (e, aboveDb e.1 e.2 (d.g LN_DET_THRESH 0), run.length)

theorem witness_SearchersFindPackets_candidates :
    (let d := listening win2 3000 id
     (d.lane 0).win = some win2 ∧ (d.lane 0).chans = [0, 1] ∧ (∀ k ∈ (d.lane 0).chans, k < 24) ∧ (d.lane 0).pkt = none
       ∧ (∀ k < 2, vget (d.lane 0).cands k none = none) ∧ d.runTick false ≤ win2.limit
       ∧ (firstRun d (pickup 64 100 (preamble2.take 8)) [10, 10]).2 = (true, 8) ∧ (firstRun d (pickup 64 0 (preamble2.take 8)) [10, 10]).2 = (false, 8))
      ∧ (win2.limit < (listening win2 (win2.limit + 8 * 32 + 1) id).runTick false ∧ (listening win2 (win2.limit + 8 * 32) id).runTick false ≤ win2.limit)
      ∧ (let d := listening win2 3000 fun x => { held0 x with pkt := some packet2 }
         (d.lane 0).pkt ≠ none ∧ ∃ k < 2, vget (d.lane 0).cands k none ≠ none) := by
  refine ⟨by decide +kernel, by decide, ⟨by decide, 0, by decide, by decide⟩⟩

/-- The generation that the candidate of `heard8` qualifies in with some further symbols. -/
def qualifiedIn (signs : List Int) : Option Nat :=
  let x := heard8.lane 0
  (vget x.cands 0 none).bind fun c =>
    let rx := pickup 0 100 signs
    (heard8.qualifies 0 c 0 (c.run ++ symbolsOf false 0 c.run.length (x.chain.branches.map (·.resid)) (heard8.samples x.chans rx))).map (·.1)

/-- The rest of the preamble and the sync word qualify the candidate as J2; the preamble alone does not. -/
theorem witness_SearchersFindPackets_qualified :
    (heard8.lane 0).win = some win2 ∧ (vget (heard8.lane 0).cands 0 none).isSome = true ∧ (heard8.lane 0).pkt = none
      ∧ vget (heard8.lane 0).cands 1 none = none ∧ qualifiedIn (preamble2.drop 8 ++ sync2) = some 2 ∧ qualifiedIn (preamble2.drop 8) = none := by
  decide +kernel

/-- Its strength and whether an arrival of 8 symbols of amplitude `amp` is above the threshold, as strong as the candidate by the
margin, and weaker. -/
def arriving (amp : Int) : Bool × Bool × Nat :=
  let x := heard8.lane 0
  let run := symbolsOf false 0 0 (x.chain.branches.map (·.resid)) (heard8.samples x.chans (pickup 0 amp (preamble2.take 8)))
  let e := x.chain.strength run
  (aboveDb e.1 e.2 (heard8.g LN_DET_THRESH 0),
   ((vget x.cands 0 none).map fun c => decide (c.strength + heard8.g LN_DET_CAPTURE 0 ≤ quarterDb e.1 e.2)).getD false, run.length)

theorem witness_SearchersFindPackets_arrivals :
    arriving 1000 = (true, true, 8) ∧ arriving 100 = (true, false, 8) ∧ arriving 0 = (false, false, 8)
      ∧ ((vget (heard8.lane 0).cands 0 none).map (·.fc16)) = some false ∧ (2 ≤ 2 % 8 ∧ 2 % 8 ≤ 6) ∧ ¬ (2 ≤ 9 % 8 ∧ 9 % 8 ≤ 6)
      ∧ (let d := heard8.putLane 0 fun x => { x with pkt := some packet2 }
         (d.lane 0).pkt = some packet2 ∧ d.runTick false ≤ packet2.headerEnd)
      ∧ (let d := listening win2 3000 held0
         vget (d.lane 0).cands 0 none = some cand0 ∧ (d.lane 0).pkt = none ∧ vget (d.lane 0).cands 1 none = none ∧ regsRising 0 d.regs = true) := by
  decide +kernel

/-- A chain of two branches with gains `a` and `b` and noise 1. -/
def twoBranches (a b : Int) : Chain := { newChain with branches := [⟨0, ⟨a, 0⟩, 1, ⟨0, 0⟩⟩, ⟨1, ⟨b, 0⟩, 1, ⟨0, 0⟩⟩] }

/-- Lane 0 with that chain, which stood at `was`, its trailing share low for `low` symbols. -/
def seaming (a b : Int) (was : List Nat) (low : Nat) : Dev :=
  listening win2 3000 fun x => { x with chain := { twoBranches a b with was := was, low := low } }

theorem witness_WindowsFollowTheirTag_seams :
    (let d := (seaming 1 3 [4, 1] 0).feedLane 0 silence
     let v := (d.lane 0).chain.crossing 0
     ((seaming 1 3 [4, 1] 0).lane 0).win = some win2 ∧ (d.lane 0).win = some win2 ∧ (d.lane 0).chans[(0 : Fin 2).val]? = some 0
       ∧ (d.lane 0).chans[(0 : Fin 2).val + 1]? = some 1 ∧ 0 < v.1 ∧ v.2 ≤ 0)
      ∧ (let v := (((seaming 3 1 [1, 4] 0).feedLane 0 silence).lane 0).chain.crossing 0; v.1 < 0 ∧ 0 ≤ v.2)
      ∧ (let v := (((seaming 3 1 [4, 1] 0).feedLane 0 silence).lane 0).chain.crossing 0; (v.1 ≤ 0 ∨ 0 < v.2) ∧ (0 ≤ v.1 ∨ v.2 < 0)) := by
  decide

theorem witness_WindowsFollowTheirTag_slides :
    (let d := (seaming 1 9 [] 8).feedLane 0 silence
     let x := d.lane 0
     regsRising 0 (seaming 1 9 [] 8).regs = true ∧ x.win = some win2 ∧ x.chans = [0, 1] ∧ 8 ≤ x.chain.low ∧ x.chain.leadHalf false = true
       ∧ 2 ≤ x.chans.length ∧ ∃ e, d.ringFor 5 0 = some e ∧ d.slideTo e false x.chans = some 2 ∧ d.ringReverse e.ring = false ∧ 2 < e.segCount)
      ∧ ((((seaming 9 1 [] 7).feedLane 0 silence).lane 0).chain.low < 8 ∧ (((seaming 9 1 [] 8).feedLane 0 silence).lane 0).chain.leadHalf false = false)
      ∧ (let d := ((seaming 9 1 [] 8).set1 RING_STATUS_REVERSE 0).feedLane 0 silence
         (d.lane 0).chain.leadHalf true = true ∧ ∃ e, d.ringFor 5 0 = some e ∧ d.slideTo e true (d.lane 0).chans = some 3 ∧ d.ringReverse e.ring = true) := by
  refine ⟨⟨by decide, by decide, by decide, by decide, by decide, by decide, _, rfl, by decide, by decide, by decide⟩, by decide,
    by decide, _, rfl, by decide, by decide⟩

theorem witness_WindowsFollowTheirTag_rest :
    ((listening win2 (win2.close - 1) id).now < win2.close)
      ∧ (let d := listening win2 win2.close id
         win2.close ≤ d.now ∧ (d.lane 0).pkt = none ∧ (∀ k < 2, vget (d.lane 0).cands k none = none) ∧ win2.sa = some 5
           ∧ (d.cen.job.bind (·.slot)) ≠ some win2.slot ∧ win1.sa = none)
      ∧ (let d := ((listening win2 500 id).p SEG_STATUS_STATE 23 segDrive).set1 SNS_CFG_CANCEL_EN 23
         d.segState 23 = segDrive ∧ (1 : Int) ≠ 0 ∧ d.flag SNS_CFG_CANCEL_EN 23 = true ∧ (d.seg 23).driveCycles % 64 = 0
           ∧ (∀ m < 20, 23 ∈ (d.lane m).chans → (d.lane m).win.isSome = true → (d.lane m).pkt = none)
           ∧ d.segState 0 ≠ segDrive ∧ (d.p SNS_CFG_CANCEL_EN 23 0).flag SNS_CFG_CANCEL_EN 23 = false
           ∧ ((d.putSeg 23 fun x => { x with driveCycles := 63 }).seg 23).driveCycles % 64 ≠ 0)
      ∧ (let d := listening win2 3000 fun x => { x with pkt := some packet2 }; (d.lane 0).pkt.isSome = true ∧ (0 : Seg).val ∈ (d.lane 0).chans) := by
  refine ⟨by decide, by decide, by decide +kernel, by decide⟩

/-- A codeword of 512 soft values, as the lane keeps it. -/
def word0 : LaneWord :=
  { llr := List.replicate 512 20, sent := true, info := none, iters := 0, failed := false, dispute := false, checking := false }

/-- Core 0 with `n` codewords of lane 0 waiting. -/
def queued (n : Nat) (d : Dev) : Dev := d.putCore 0 fun x => { x with queue := List.replicate n { lane := 0, word := 0, first := none } }

/-- The bits of a J1 reply of three words. -/
def replyBits : List Bool := (⟨5, 0, 5, 3, [1, 2, 3], 1, 0, false, false, 0, 0, 0⟩ : Reply).j1Bits

/-- Lane 0 with packet `p`, soft bits `soft`, and `n` codewords stored. -/
def softened (w : RxWindow) (p : Packet) (soft : List Int) (n : Nat) : Dev :=
  listening w 3000 fun x => { x with pkt := some p, chain := { twoBranches 1 1 with soft := soft }, words := List.replicate n word0 }

theorem witness_CodewordsAreDecodedInTurn_words :
    (let f := (softened win2 packet2 (List.replicate 512 20) 0).feedLane 0 silence
     let x := f.lane 0
     x.win = some win2 ∧ x.pkt = some packet2 ∧ packet2.gen ≠ 1 ∧ (x.chain.soft.take 512).length = 512 ∧ x.words = []
       ∧ 512 * (x.words.length + 1) ≤ 5461 ∧ f.decLost = false ∧ (f.core (f.routeOf 0)).queue.length < 4)
      ∧ (let x := ((softened win2 packet2 (List.replicate 512 20) 10).feedLane 0 silence).lane 0
         5461 < 512 * (x.words.length + 1) ∧ headerLen (msbNat ((x.hard packet2.gen).take 32)) ≤ 128)
      ∧ (let f := queued 4 ((softened win2 packet2 (List.replicate 512 20) 1).feedLane 0 silence)
         4 ≤ (f.core (f.routeOf 0)).queue.length ∧ headerLen (msbNat (((f.lane 0).hard packet2.gen).take 32)) ≤ 128)
      ∧ packet1.gen = 1 ∧ (((softened win2 packet2 [] 0).feedLane 0 silence).lane 0).chain.soft.length ≠ 512
      ∧ (dev0.core 3).queue = []
      ∧ (let d := queued 1 (softened win2 packet2 [] 1)
         (d.core 0).queue = [{ lane := 0, word := 0, first := none }] ∧ d.laneWord 0 0 = some word0) := by
  refine ⟨by decide +kernel, by decide +kernel, by decide +kernel, by decide, by decide, by decide, by decide +kernel⟩

/-- The checker, with a codeword to decode again whose first result is its own. -/
theorem witness_CodewordsAreDecodedInTurn_checked (r1 : DecodeRun) :
    let d := (softened win2 packet2 [] 1).putCore 3 fun x => { x with queue := [{ lane := 0, word := 0, first := some (0, r1) }] }
    (d.core 3).queue = [{ lane := 0, word := 0, first := some (0, r1) }] ∧ d.laneWord 0 0 = some word0
      ∧ (let r := decodeWord 0 32 d.maxIter word0.llr; ∃ r1 : DecodeRun, r1.bits = r.1 ∧ r1.iters = r.2.1) := by
  refine ⟨rfl, rfl, ⟨_, _, true⟩, rfl, rfl⟩

theorem witness_CodewordsAreDecodedInTurn_frames :
    (let w := { win1 with sa := some 5 }
     let f := (softened w packet1 (replyBits.map fun b => if b then -20 else 20) 0).feedLane 0 silence
     let x := f.lane 0
     x.win = some w ∧ x.pkt = some packet1 ∧ packet1.gen = 1 ∧ packet1.searcher < 2 ∧ vget x.cands (1 - packet1.searcher) none = none
       ∧ timingFlag w packet1 = none ∧ packet1.flags.testBit stCollided = false ∧ x.bufFull = false ∧ (checkJ1 (hardOf x.chain.soft)).fail = none
       ∧ (f.cen.job.bind (·.slot)) ≠ some win1.slot ∧ x.next = [] ∧ (f.slot win1.slot).bind (·.caller) = none)
      ∧ timingFlag win1 { packet1 with first := packet1.first + 2 } = none ∧ timingFlag win1 { packet1 with first := packet1.first + 3 } = some stOffbeat
      ∧ (checkJ1 []).fail ≠ none := by
  decide +kernel

theorem witness_FailedLanesAndCoresArePassedOn :
    (dev0.setBit LANE_FAILED_LANE 0 19).g LANE_FAILED_LANE = 2 ^ 19
      ∧ ((dev0.g LANE_FAILED_LANE).testBit 0 = false ∧ dev0.laneMode 0 ≠ 2 ∧ (dev0.lane 0).win = none ∧ (dev0.lane 0).failing = false)
      ∧ (let d := listening win2 3000 id; (d.lane 0).win = some win2 ∧ d.g LN_STATE_STATE 0 ≠ 7)
      ∧ ((dev0.g LANE_FAILED_LANE).testBit 4 = false ∧ dev0.laneMode 4 = 2 ∧ (dev0.lane 4).win = none)
      ∧ (let d := dev0.putLane 0 fun x => { x with failing := true }
         (d.lane 0).failing = true ∧ ((List.range 20).find? fun k => d.laneMode k == 2) = some 4)
      ∧ (dev0.setBit DEC_STATUS_FAILED 0 3).coreFailed 3 = true
      ∧ (dev0.coreFailed 3 = false ∧ dev0.flag DEC_STATUS_SPARED = false ∧ dev0.g DEC_STATUS_CHECKER = 3 ∧ dev0.coreFailed 0 = false
          ∧ (0 : Core).val ≠ 3) := by
  decide

/-- A census of four entries. -/
def census4 : Dev := entryAt 0 5 stActive (entryAt 1 7 stRetired (entryAt 2 8 stDuplicate (entryAt 3 9 stCandidate dev0)))

theorem census4_slot (i : Nat) : census4.slot i = none := by
  have h : census4.fig = dev0.fig := rfl
  simp only [Dev.slot, h]
  exact dev0_slot i

theorem witness_CensusEntriesFollowCommands :
    (census4.tenantPresent 0 = true ∧ census4.admits 0 0x1100 ∧ census4.admits 0 (0x1109 + 0) ∧ census4.admits 0 (0x1109 + 3) ∧ census4.admits 0 0x1110)
      ∧ (entries.find? (fun i => (census4.entState i == stCandidate || census4.entState i == stActive || census4.entState i == stLost)
            && census4.entSa i == (5 : BitVec 12).toNat) = some 0 ∧ census4.keptFor 5 = none ∧ census4.boundFor 5 = none
          ∧ census4.assigning 0 = false ∧ census4.entSa 0 = 5)
      ∧ (census4.entState (1 : BitVec 13).toNat = stRetired ∧ census4.entState (2 : BitVec 13).toNat = stDuplicate
          ∧ census4.entState (8191 : BitVec 13).toNat ≤ stLost ∧ census4.entState (3 : BitVec 13).toNat ≤ stLost
          ∧ census4.assigning 1 = false ∧ census4.assigning 2 = false ∧ (entryAt 4 9 stRetiring census4).entState (4 : BitVec 13).toNat = stRetiring)
      ∧ ((4 : BitVec 12).toNat < (5 : BitVec 12).toNat
          ∧ ∀ y < 4, y ≠ (0 : Ring).val → (5 : BitVec 12).toNat < census4.g CENSUS_RING_SA_FIRST y ∨ census4.g CENSUS_RING_SA_LAST y < (5 : BitVec 12).toNat)
      ∧ (census4.holder (5 : BitVec 12).toNat = some 0) := by
  refine ⟨⟨by decide, by unfold Dev.admits; decide, by unfold Dev.admits; decide, by unfold Dev.admits; decide, by unfold Dev.admits; decide⟩,
    ⟨List.find?_range_eq_some.2 ⟨by decide, by decide, fun j h => absurd h (Nat.not_lt_zero j)⟩,
      by simp only [Dev.keptFor, Dev.slotsWhere, census4_slot]; decide,
      by simp only [Dev.boundFor, Dev.slotsWhere, census4_slot]; decide, by decide, by decide⟩, by decide, by decide,
    List.find?_range_eq_some.2 ⟨by decide, by decide, fun j h => absurd h (Nat.not_lt_zero j)⟩⟩

/-- A slot bound to the entry's address, and none kept for it. -/
theorem witness_CensusEntriesFollowCommands_bound :
    let d := census4.putSlot 5 (some { newSlot .write (some 0) none 5 0 0 with bound := some 5 })
    (d.boundFor (d.entSa 0)).isSome = true ∧ d.keptFor (d.entSa 0) = none := by
  have h : ∀ i, (census4.putSlot 5 (some { newSlot .write (some 0) none 5 0 0 with bound := some 5 })).slot i
      = if i = 5 then some { newSlot .write (some 0) none 5 0 0 with bound := some 5 } else none := by
    intro i; rw [slot_of_put _ _ _ _ (by decide), census4_slot]
  refine ⟨?_, ?_⟩
  · simp only [Dev.boundFor, Dev.slotsWhere, h]; decide
  · simp only [Dev.keptFor, Dev.slotsWhere, h]; decide

/-- An empty census. -/
def census0 : Dev := { dev0 with sram := [] }

theorem census0_free (i : Nat) : census0.entState i = 0 := by
  simp [Dev.entState, Dev.ce, Dev.rf, Dev.rw, census0, memLe, memGet, bitsOf]

/-- In it no entry is refused a command by mistake: none is live, and none holds an address. -/
theorem witness_CensusEntriesFollowCommands_none :
    census0.tenantPresent 0 = true ∧ census0.admits 0 0x1100 ∧ census0.admits 0 0x1110
      ∧ (∀ i < 8192, census0.entSa i = (0 : BitVec 12).toNat →
          census0.entState i ≠ stCandidate ∧ census0.entState i ≠ stActive ∧ census0.entState i ≠ stLost)
      ∧ census0.holder (5 : BitVec 12).toNat = none := by
  refine ⟨by decide, by unfold Dev.admits; decide, by unfold Dev.admits; decide, fun i _ _ => by rw [census0_free i]; decide, ?_⟩
  simp only [Dev.holder, census0_free]
  exact List.find?_eq_none.2 fun _ _ => by simp [holdsSa]

/-- A walk of ring 0. -/
def walkJob : Job := { newJob .walk 0 0 0 with stack := [(0, 0)] }

/-- Both rings still, and the job's queue and Caller chosen. -/
def stillRings (d : Dev) : Dev :=
  ((((d.set1 RING_STATUS_STILL 0).set1 RING_STATUS_STILL 1).p CENSUS_JOB_QUEUE 0 2).p CENSUS_JOB_CALLER 0 1).p CENSUS_MISS_DISC_RPM 0 300

/-- Ring `x` at 1,000 rpm. -/
def spinning (x : Nat) (d : Dev) : Dev := d.putRing x fun r => { r with inc := 2 ^ 40 * 1000 / (27120000 * 60) + 1 }

theorem witness_CensusJobsStartAndAdvance :
    (let d := stillRings dev0
     d.admits 0 0x1100 ∧ d.cen.job = none ∧ (d.ringDef 0).isSome = true ∧ d.ringStill 0 = true ∧ d.atSpeed 0 d.discRpm = false
       ∧ (d.ringDef 1).isSome = true ∧ d.ringStill 1 = true ∧ d.atSpeed 1 60 = false ∧ regsRising 0 d.regs = true
       ∧ (∀ e, d.ringDef 1 = some e → e.service = true ∧ e.segs.contains (6 : Seg).val = true)
       ∧ d.queueUsed (d.g CENSUS_JOB_QUEUE) = true ∧ d.queueOwner (d.g CENSUS_JOB_QUEUE) = 0 ∧ d.queueSource (d.g CENSUS_JOB_QUEUE) = 2
       ∧ d.serviceOut.isSome = true ∧ d.cen.serve = false)
      ∧ ((spinning 0 dev0).atSpeed 0 (spinning 0 dev0).discRpm = true ∧ (spinning 1 dev0).atSpeed 1 60 = true)
      ∧ (let d := (stillRings dev0).putJob walkJob
         d.admits 0 0x1100 ∧ d.cen.job.isSome = true ∧ d.cen.job = some walkJob ∧ walkJob.kind = .walk ∧ walkJob.phase = .place ∧ walkJob.todo = []
           ∧ walkJob.stack = [(0, 0)] ∧ walkJob.stop = false ∧ (d.ringDef walkJob.ring).isSome = true
           ∧ d.atSpeed walkJob.ring d.discRpm = false
           ∧ (spinning 0 d).atSpeed walkJob.ring (spinning 0 d).discRpm = true
           ∧ (d.caller d.jobCaller).queue.length < 4 ∧ d.jobCaller < 8)
      ∧ (let d := { census4 with cen := { census4.cen with serve := true, waits := [⟨0, none, true⟩] } }
         d.cen.job = none ∧ d.cen.serve = true ∧ d.cen.waits ≠ []) := by
  unfold Dev.admits; decide +kernel


/-! ### Hypotheses met: Callers, slots, the Figure, the hub and the queues (O36 to O47) -/

theorem witness_CallerWordsSpellTheirInstructions :
    definedOp (0x15 : BitVec 6).toNat = false ∧ definedOp (0x3E : BitVec 6).toNat = false ∧ definedOp (0x14 : BitVec 6).toNat = true
      ∧ definedOp (0x18 : BitVec 6).toNat = true := by decide

/-- A Step's firing for the tag of address 5 on ring 0. -/
def fire0 : Fire :=
  { job := false, step := 3, words := [0, 0, 0, 5], tenant := 0, ring := 0, prio := 1, tick := 900, rev := 5, late := false, reverse := false, way := 0,
    frac := 100, mask := 0, g4 := 0 }

/-- The firing's slot, its last command sent at tick 1,200. -/
def slotF : Slot := { newSlot .air (some 0) (some 3) 5 1 0 with sent := some 1200 }

/-- Caller 0 of `d` in wait `w` at word `pc`, with `a` in g5 and `b` in g6, current slot 5. -/
def program (d : Dev) (w : CallerWait) (pc : Nat) (a b : Word) : Dev :=
  (d.putSlot 5 (some slotF)).putCaller 0 fun c =>
    { c with st := w, fire := some fire0, pc := pc, cur := some 5, regs := Vector.ofFn fun i => if i = 5 then a else if i = 6 then b else 0 }

/-- The fixture at tick 1,000. -/
def base : Dev := atTick dev0 1000

theorem witness_CallersCompute :
    ((program base .run 16382 1 2).Runs 0 ∧ (program base .run 0 1 2).Runs 0) ∧ (0 : GReg).val = 0
      ∧ (((program base .run 16383 1 2).caller 0).st = .run ∧ ((program base .run 16383 1 2).caller 0).pc = 16383) ∧ (base.caller 0).st ≠ .run := by
  unfold Dev.Runs; decide

theorem witness_CallersLoadStoreAndBranch :
    ((program base .run 0 1791 0).Runs 0 ∧ (((program base .run 0 1791 0).reg 0 5).toNat + (0 : BitVec 14).toNat) % 2 ^ 32 ≤ 1791
        ∧ 1791 < (((program base .run 0 1791 0).reg 0 5).toNat + (1 : BitVec 14).toNat) % 2 ^ 32
        ∧ (((program base .run 0 0xFFFFFFFF 0).reg 0 5).toNat + (1 : BitVec 14).toNat) % 2 ^ 32 ≤ 1791)
      ∧ ((((program base .run 0 16383 0).reg 0 5).toNat + (0 : BitVec 14).toNat) % 2 ^ 32 ≤ 16383
          ∧ 16383 < (((program base .run 0 16383 0).reg 0 5).toNat + (1 : BitVec 14).toNat) % 2 ^ 32)
      ∧ (((program base .run 0 0 0).caller 0).fire = some fire0 ∧ fire0.job = false) ∧ 10 < (11 : BitVec 14).toNat ∧ (7 : BitVec 14) ≠ 8
      ∧ ((0 : Int) ≤ 0 + 1 + (-1 : BitVec 18).toInt ∧ (0 : Int) + 1 + (-2 : BitVec 18).toInt < 0 ∧ (16382 : Int) + 1 + (0 : BitVec 18).toInt ≤ 16383
          ∧ 16383 < (16383 : Int) + 1 + (0 : BitVec 18).toInt)
      ∧ base.cen.held = [] ∧ (0 : CallerId) ≠ 7 ∧ 1791 ≤ 1791 := by
  unfold Dev.Runs; decide

theorem base_slot (i : Nat) : base.slot i = none := dev0_slot i

theorem program_slot (w : CallerWait) (pc : Nat) (a b : Word) (i : Nat) :
    (program base w pc a b).slot i = if i = 5 then some slotF else none := by
  have h : ∀ (d : Dev) (f : CallerState → CallerState), (d.putCaller 0 f).slot i = d.slot i := fun _ _ => rfl
  rw [program, h, slot_of_put _ _ _ _ (by decide), base_slot]

theorem program_busy (w : CallerWait) (pc : Nat) (a b : Word) : (program base w pc a b).busySlots = 1 := by
  simp only [Dev.busySlots, Dev.slotsWhere, program_slot]; decide

/-- With every slot taken. -/
def taken (d : Dev) : Dev := d.inFig fun f => { f with slots := Vector.ofFn fun _ => some slotF }

theorem taken_busy (d : Dev) : (taken d).busySlots = 256 := by
  have h : ∀ i, (taken d).slot i = if i < 256 then some slotF else none := by
    intro i; by_cases hi : i < 256 <;> simp [Dev.slot, vget, taken, Dev.inFig, hi]
  simp only [Dev.busySlots, Dev.slotsWhere, h]; decide

theorem program_free (w : CallerWait) (pc : Nat) (a b : Word) : (program base w pc a b).freeSlots = 255 := by rw [Dev.freeSlots, program_busy]

theorem taken_free (d : Dev) : (taken d).freeSlots = 0 := by rw [Dev.freeSlots, taken_busy]

/-- Whether a slot is there for a kind, by what is free. -/
theorem slotFor_of (d : Dev) (k : SlotKind) (n : Nat) (h : d.freeSlots = n) : d.slotFor k = decide ((if k = .bus ∨ k = .job then 0 else d.sbReserve) < n) := by
  subst h; rfl

theorem witness_SlotsAreClaimedAndReleased_claims :
    (let d := program base .run 100 5 9
     d.Runs 0 ∧ d.slotWaits = [] ∧ d.slotFor .air = true ∧ d.owns 0 5 = true ∧ d.slotHeld 5 = false ∧ d.owns 0 9 = false
       ∧ (d.slotsWhere fun x => x.caller == none && (x.kept.map (·.sa)) == some (5 % 4096)) = [])
      ∧ (let d := taken (program base .run 100 5 9)
         d.Runs 0 ∧ d.slotWaits = [] ∧ d.slotFor .job = false ∧ d.slotFor .air = false ∧ (0x2000 : BitVec 14).toNat.testBit 13 = true
           ∧ (0 : BitVec 14).toNat.testBit 13 = false ∧ d.freeSlots ≤ d.sbReserve)
      ∧ (let d := (program base .run 100 5 9).updSlot 5 fun x => { x with bus := true }; d.owns 0 5 = true ∧ d.slotHeld 5 = true)
      ∧ (let x : Slot := { slotF with caller := none, kept := some { sa := 5, passes := 0 } }
         ((program base .run 100 5 9).putSlot 5 (some x)).slotsWhere (fun x => x.caller == none && (x.kept.map (·.sa)) == some (5 % 4096)) = [5]) := by
  refine ⟨⟨by unfold Dev.Runs; decide, by decide, ?_, by decide, by decide, by decide, ?_⟩,
    ⟨by unfold Dev.Runs; decide, by decide, ?_, ?_, by decide, by decide, ?_⟩, by decide, ?_⟩
  · rw [slotFor_of _ _ _ (program_free ..)]; decide
  · simp only [Dev.slotsWhere, program_slot]; decide
  · rw [slotFor_of _ _ _ (taken_free ..)]; decide
  · rw [slotFor_of _ _ _ (taken_free ..)]; decide
  · rw [taken_free]; exact Nat.zero_le _
  · simp only [Dev.slotsWhere, slot_of_put _ _ _ _ (show 5 < 256 by decide), program_slot]; decide

theorem witness_SlotsAreClaimedAndReleased_releases :
    base.slotWinner = none
      ∧ (let d := program base (.slot 6 0 900) 100 5 9
         d.slotWinner = some (1, 900, 0, .air) ∧ (d.caller 0).st = .slot 6 0 900 ∧ (d.caller 0).pc < 16383)
      ∧ (let x : Slot := { slotF with rel := true, caller := none }
         let d := base.putSlot 255 (some x); d.slot 255 = some x ∧ x.rel = true ∧ d.slotHeld 255 = false)
      ∧ (base.putSlot 0 (some slotF)).slot 0 = some slotF ∧ slotF.rel = false
      ∧ (base.putSlot 0 (some { slotF with kept := some ⟨5, 15⟩ })).slot 0 = some { slotF with kept := some ⟨5, 15⟩ } ∧ 15 < 16 ∧ 16 ≤ 16
      ∧ base.cen.held = [] := by
  refine ⟨?_, ⟨?_, by decide, by decide⟩, ⟨slot_of_put _ _ _ _ (by decide), by decide, ?_⟩, slot_of_put _ _ _ _ (by decide), by decide,
    slot_of_put _ _ _ _ (by decide), by decide, by decide, by decide⟩
  · have h : base.slotWaits = [] := by decide
    rw [Dev.slotWinner, h]; rfl
  · have h : (program base (.slot 6 0 900) 100 5 9).slotWaits = [(1, 900, 0, .air)] := by decide
    have hf : (program base (.slot 6 0 900) 100 5 9).slotFor .air = true := by
      rw [slotFor_of _ _ _ (program_free ..)]; decide
    have hw : ([(1, 900, 0, SlotKind.air)].filter fun w => (program base (.slot 6 0 900) 100 5 9).slotFor w.2.2.2) = [(1, 900, 0, SlotKind.air)] :=
      List.filter_eq_self.2 fun w hm => by rw [List.mem_singleton.1 hm]; exact hf
    rw [Dev.slotWinner, h, hw]; rfl
  · have h : ((base.putSlot 255 (some { slotF with rel := true, caller := none })).slot 255) = some { slotF with rel := true, caller := none } :=
      slot_of_put _ _ _ _ (by decide)
    simp only [Dev.slotHeld, h]; decide

/-- Segment `n` owned by slot 5, with 30 tokens, in state `st`. -/
def owned (n st : Nat) (d : Dev) : Dev := ((d.p SEG_STATUS_STATE n st).p SEG_STATUS_HELD n 30).putSeg n fun x => { x with owner := some (.slot 5) }

/-- Every segment calibrated, at tick 1,000. -/
def fieldBase : Dev := (List.range 24).foldl (fun d n => (d.p SEG_CAL_FSP n 3000).p SEG_LOAD_VDRV_CAL n 12000) base

theorem witness_ProgramsDriveTheField_claims :
    (let d := program fieldBase .run 100 23 40
     d.Runs 0 ∧ (d.caller 0).cur = some 5 ∧ (d.reg 0 5).toNat < 24 ∧ d.segIsRetired 23 = false ∧ d.domTakes (fldDom 23) = true
       ∧ d.g SEG_CAL_FSP 23 ≠ 0 ∧ d.fspEff 23 ≠ 0 ∧ d.vdrvLow = false ∧ d.tempWarn 23 = false
       ∧ 0 + d.queuedTokens 23 (.slot 5) + d.tokens 23 40 ≤ 100
       ∧ d.hasGranted 23 (.slot 5) = false ∧ d.hasQueued 23 (.slot 5) = false ∧ (d.reg 0 6).toNat ≠ 0)
      ∧ (program base .run 100 23 40).g SEG_CAL_FSP 23 = 0
      ∧ (program (owned 0 segDrive fieldBase) .run 100 0 0).hasGranted 0 (.slot 5) = true
      ∧ (program (base.inFld fun f => { f with claims := [{ seg := 0, owner := .slot 5, tokens := 20, prio := 1, cycle := 0, caller := 0 }] }) .run 100 0 40).hasQueued 0
          (.slot 5) = true
      ∧ 24 ≤ ((program base .run 100 24 0).reg 0 5).toNat
      ∧ (let d := program (owned 1 segIdle (owned 0 segDrive fieldBase)) .run 100 0 1
         d.segState 0 = segDrive ∧ d.segState 1 = segIdle ∧ d.coverPair 0 1 = true ∧ d.hasGranted 1 (.slot 5) = true)
      ∧ (let d := program ((owned 0 segDrive fieldBase).inFld fun f =>
           { f with claims := [{ seg := 1, owner := .slot 5, tokens := 20, prio := 1, cycle := 0, caller := 0 }] }) .run 100 0 1
         d.segState 0 = segDrive ∧ d.glideReady 1 (.slot 5) = true ∧ d.coverPair 0 1 = true ∧ d.hasGranted 1 (.slot 5) = false
           ∧ d.hasQueued 1 (.slot 5) = true)
      ∧ (program base .run 100 0 1).segState 0 ≠ segDrive := by
  unfold Dev.Runs; decide

theorem witness_ProgramsDriveTheField_angles :
    (let d := program census4 .run 100 0x800000 0
     (∃ e, d.progEntry 0 = some e ∧ e.segAt (d.progMask 0) (0x800000 % 2 ^ 24) = some 2 ∧ e.segs.contains 3 = true ∧ e.segs.contains 4 = false)
       ∧ d.progRing 0 = 0)
      ∧ (∃ e, (program (base.p FLD_RETIRED_SEG 0 15) .run 100 0x800000 0).progEntry 0 = some e
          ∧ e.segAt 15 (0x800000 % 2 ^ 24) = none)
      ∧ ((program base .run 100 0 0).putSlot 5 (some { slotF with mask := 15 })).progMask 0 = 15
      ∧ (census4.set1 RING_STATUS_VALID 0).ringValid 0 = true ∧ census4.ringValid 0 = false ∧ census4.holder 5 = some 0
      ∧ census4.tagPoint 0 5 = some 0 := by
  refine ⟨⟨⟨_, rfl, by decide, by decide, by decide⟩, by decide⟩, ⟨_, rfl, by decide⟩, by decide, by decide, by decide,
    List.find?_range_eq_some.2 ⟨by decide, by decide, fun j h => absurd h (Nat.not_lt_zero j)⟩, by decide⟩

/-- Data word 5 of Caller 0 announces a frame of `n` bits. -/
def frameOf (n : Nat) : Dev := (base.ww (dataWord 0 5) n).ww (dataWord 0 6) 0x01020304

/-- A record that stands at lane 1. -/
def recorded : Dev := base.putLane 1 fun x => { x with record := some (5, [1, 2, 3], [4, 5]) }

theorem witness_ProgramsSendAndListen_air :
    ((program (frameOf 1024) .run 100 5 0).Runs 0 ∧ (program (frameOf 1024) .run 100 5 0).rf (dataWord 0 5) 0 11 = 1024 ∧ 5 + ceilDiv 1024 32 ≤ 1791
        ∧ msbNat (slice ((program (frameOf 1024) .run 100 5 0).sendBits 0 5 1024) 0 8) ≠ 0x20
        ∧ (program (frameOf 1) .run 100 5 0).rf (dataWord 0 5) 0 11 = 1 ∧ 1790 + ceilDiv 1 32 ≤ 1791)
      ∧ (1791 < ((program base .run 100 1792 0).reg 0 5).toNat ∧ 1791 < 1790 + ceilDiv 33 32)
      ∧ (base.laneForSlot (some 5) 20 = none ∧ (program base .run 100 1 0).laneForSlot (some 5) 1 = some 1 ∧ ((program base .run 100 1 0).caller 0).cur = some 5)
      ∧ ((base.lane 1).record = none ∧ (recorded.lane 1).record = some (5, [1, 2, 3], [4, 5])
          ∧ ((recorded.putLane 1 fun x => { x with record := none }).storeData 0 0 ([1, 2, 3] ++ packHalves [4, 5])).1 = true) := by
  unfold Dev.Runs; decide

theorem witness_ProgramsSendAndListen_queues :
    (let d := program base .run 100 2 0
     d.mayPush 0 2 = false ∧ d.mayPush 0 1 = true ∧ (d.caller 0).cut.contains 1 = false
       ∧ ((d.putCaller 0 fun c => { c with cut := [1] }).caller 0).cut.contains 1 = true
       ∧ d.queueUsed 2 = true ∧ d.queueSource 2 = 2 ∧ d.queueOwner 2 = d.progTenant 0 ∧ d.queueUsed 63 = false ∧ d.queueSource 1 ≠ 2)
      ∧ (census4.holder (5 % 4096) = some 0 ∧ (7 : BitVec 14) ≠ 8 ∧ (base.caller 0).cur = none)
      ∧ (3 ≤ 3 ∧ base.domTakes domSio = true ∧ 3 < 4 ∧ (dark base domSio).domTakes domSio = false) := by
  refine ⟨by decide, ⟨List.find?_range_eq_some.2 ⟨by decide, by decide, fun j h => absurd h (Nat.not_lt_zero j)⟩, by decide, by decide⟩, by decide⟩

/-- An address that no entry of an empty census holds. -/
theorem witness_ProgramsSendAndListen_noEntry : census0.holder (5 % 4096) = none := by
  simp only [Dev.holder, census0_free]
  exact List.find?_eq_none.2 fun _ _ => by simp [holdsSa]

/-- Ring 0 valid, between fractions 50 and 256. -/
def turning (d : Dev) : Dev :=
  (d.set1 RING_STATUS_VALID 0).putRing 0 fun r => { r with prevFrac := 50, phase := 0x0000000005_000100_0000#80, inc := 100 }

theorem witness_WaitsAndLimitsOfPrograms_waits :
    (let d := program (turning (atTick census4 1000)) .run 100 200 5
     d.Runs 0 ∧ d.angleReached 0 200 = true ∧ d.angleReached 0 300 = false ∧ d.timeReached 0 50 = true ∧ d.timeReached 0 51 = false
       ∧ d.pointReached 0 5 200 0 = true ∧ d.pointReached 0 5 300 0 = false ∧ definedOp (0x37 : BitVec 6).toNat = false ∧ d.cen.held = [])
      ∧ (let d := program (turning (atTick census4 1000)) (.time 50) 16382 0 0; (d.caller 0).st = .time 50 ∧ (d.caller 0).pc < 16383)
      ∧ ((program (turning (atTick census4 1000)) (.angle 200) 0 0 0).caller 0).st = .angle 200
      ∧ ((program (turning (atTick census4 1000)) (.point 5 200 0) 0 0 0).caller 0).st = .point 5 200 0 := by
  unfold Dev.Runs; decide

theorem witness_WaitsAndLimitsOfPrograms_limits :
    (let d := program (atTick dev0 100000000) .run 100 0 0
     d.programLives 0 = true ∧ d.programLimit ≤ d.progNow 0 ∧ d.cen.held = [] ∧ (∀ k : CallerId, d.g CL_STATUS_PAIR k ≤ 8))
      ∧ (base.programLives 0 = false ∧ (program base .run 100 0 0).progNow 0 < (program base .run 100 0 0).programLimit)
      ∧ (base.caller 0).st = .idle
      ∧ (let d := program base (.takeOver true) 100 0 0
         (d.caller 0).st = .takeOver true ∧ (d.caller 0).fire = some fire0 ∧ fire0.job = false ∧ d.g CALL_PAIR_SPARE_FOR = 15
           ∧ (d.g CALL_PAIR_FAILED).testBit 8 = false)
      ∧ base.admits 0 0x1220 := by
  unfold Dev.admits; decide

/-- Step `i` of tenant 0 on ring 0 at `angle` for address `sa`. -/
def stepAt (i angle sa : Nat) (d : Dev) : Dev :=
  (((d.ww (4 * i) (angle + 2 ^ 26 + 2 ^ 28)).ww (4 * i + 1) (sa + 31 * 2 ^ 12)).ww (4 * i + 2) 50).ww (4 * i + 3) 1

/-- Two Steps in the index of a turning ring. -/
def figure2 : Dev := turning ((stepAt 3 100 5 (stepAt 4 7000 60 base)).inFig fun f => { f with index := [3, 4] })

/-- A firing of the first. -/
def fire3 : Fire := { fire0 with words := [100 + 2 ^ 26 + 2 ^ 28, 5 + 31 * 2 ^ 12, 50, 1] }

/-- It is due. -/
def dueOne (d : Dev) : Dev := d.inFig fun f => { f with due := [fire3] }

/-- An ENTRY at word 50 for its kind. -/
def entered (d : Dev) : Dev := d.ww (callBase + 50) (0x3F * 2 ^ 26 + 0xF)

/-- A rebuild of a Step of tenant `t` that began in cycle `c`, at tick 1,000. -/
def rebuilding (t c : Nat) : Dev := base.inFig fun f => { f with rebuild := some ⟨t, [103], c, []⟩ }

theorem witness_StepsFireOnceAndInOrder_commits :
    base.admits 0 0x1201 ∧ base.fig.rebuild = none
      ∧ ((rebuilding 1 7999).fig.rebuild = some ⟨1, [103], 7999, []⟩ ∧ (7999 : Nat) ≠ (rebuilding 1 7999).cycle)
      ∧ ((rebuilding 1 8000).fig.rebuild = some ⟨1, [103], 8000, []⟩ ∧ 8000 = (rebuilding 1 8000).cycle ∧ (0 : Tenant).val < 1
          ∧ ((rebuilding 1 8000).tenantDef 0).isSome = true)
      ∧ (∃ e, base.tenantDef 0 = some e ∧ (figure2.inFig fun f => { f with dirty := [3] }).dirtyOf e = [3] ∧ figure2.stepPasses e 3 = true
          ∧ figure2.stepPasses e 4 = false ∧ (figure2.inFig fun f => { f with dirty := [3, 4] }).dirtyOf e = [3, 4])
      ∧ base.g FIG_STATUS_PENDING = 0
      ∧ (figure2.mayFire 3 = true ∧ (base.mayFire 3 = false) ∧ (figure2.ring (figure2.stepRing 3)).reseatFrom = none
          ∧ passedAt (figure2.ringReverse (figure2.stepRing 3)) 50 256 (figure2.stepAngle 3) = some 50
          ∧ passedAt (figure2.ringReverse (figure2.stepRing 4)) 50 256 (figure2.stepAngle 4) = none) := by
  refine ⟨by unfold Dev.admits; decide, by decide, by decide, by decide, ⟨_, rfl, by decide, by decide, by decide, by decide⟩, by decide, by decide⟩

theorem witness_StepsFireOnceAndInOrder_firings :
    (let d := dueOne base
     d.fig.due = [fire3] ∧ d.domTakes domCall = true ∧ d.pairWorks 0 = true ∧ d.flag CALL_CTRL_HOLD = false
       ∧ d.entryOk (fire3) = false)
      ∧ (dark (dueOne base) domCall).domTakes domCall = false ∧ ((dueOne base).set1 CALL_CTRL_HOLD).flag CALL_CTRL_HOLD = true
      ∧ (let d := entered (dueOne base); d.entryOk (fire3) = true ∧ (d.caller (fire3).caller).queue.length < 4)
      ∧ 4 ≤ ((base.putCaller 0 fun c => { c with queue := List.replicate 4 fire0 }).caller 0).queue.length
      ∧ (let d := base.putCaller 0 fun c => { c with queue := [fire0] }
         (d.caller 0).st = .idle ∧ d.nextEntry 0 = some fire0 ∧ d.pairWorks 0 = true ∧ d.pairTaken 0 fire0 = false ∧ d.fallsBegun 0 = true)
      ∧ ((base.caller 0).queue = [] ∧ base.fig.due = [])
      ∧ (base.tokensOk = true ∧ (base.p FLD_BUDGET_FREE 0 599).tokensOk = false ∧ ∀ n ∈ base.creditBooks, base.creditsOk n = true) := by
  decide

theorem witness_StepsFireOnceAndInOrder_audit : base.admits 0 0x1218 ∧ base.slotsOk = true := by
  refine ⟨by unfold Dev.admits; decide, ?_⟩
  simp only [Dev.slotsOk, Dev.busySlots, Dev.slotsWhere, base_slot]
  decide

/-- A hub whose slot 0 is THRESH from 50 to 100, and slot 1 RATE of one message each 10 ticks. -/
def hubReel : Reel :=
  let slot : Nat → Nat → List (Nat × Nat) → SlotDef := fun i kind l => ⟨i, 0, kind, slotBytes ([(4, 0xFF), (5, 0xFF)] ++ l)⟩
  { reel0 with hub := { reel0.hub with slots := [slot 0 kindThresh [(16, 100), (18, 50)], slot 1 kindRate [(16, 1), (20, 10)]] } }

/-- That hub with intake on, at tick `t`. -/
def hubAt (t : Nat) : Dev := (atTick { dev0 with reel := { dev0.reel with active := some hubReel } } t).set1 HUB_CTRL_INTAKE_EN

/-- A message of value 75 for slot `n`. -/
def message (n : Nat) : Msg :=
  { level := false, v := 75, chan := 0x100, t := 900, a := 0, ring := 0, est := false, inv := false, sp := none, supp := 0, hops := 0, slot := n, port := 0 }

/-- With `l` in the inbox of engine 0. -/
def inbox (l : List Msg) (d : Dev) : Dev := d.putEngine 0 fun x => { x with inbox := l }

def sample0 : Sample := { chan := 0x100, raw := 5, tick := 900, entry := none }

theorem witness_HubAppliesMessagesInOrder_samples :
    (let d := (hubAt 1000).inHub fun h => { h with intake := [sample0] }
     d.hub.intake = [sample0] ∧ d.flag HUB_CTRL_INTAKE_EN = true ∧ d.fedEntries 0x150 = []
       ∧ ∃ w i, d.fedEntries 0x100 = [(w, i)] ∧ (d.engine (d.engineOf (d.sampleMsg sample0 w i))).inbox.length < 256
         ∧ 256 ≤ ((d.putEngine (d.engineOf (d.sampleMsg sample0 w i)) fun x => { x with inbox := List.replicate 256 (message 0) }).engine
             (d.engineOf (d.sampleMsg sample0 w i))).inbox.length)
      ∧ (hubAt 1000).hub.intake = [] ∧ ((hubAt 1000).p HUB_CTRL_INTAKE_EN 0 0).flag HUB_CTRL_INTAKE_EN = false := by
  refine ⟨⟨by decide, by decide, by decide, _, _, rfl, by decide, by decide⟩, by decide, by decide⟩

theorem witness_HubAppliesMessagesInOrder_messages :
    (((hubAt 1000).engine 0).out = [] ∧ ((hubAt 1000).engine 0).inbox = [] ∧ ((inbox [message 0] (hubAt 1000)).engine 0).inbox = [message 0]
        ∧ (hubAt 1000).hubSlot (message 1023).slot = none)
      ∧ (∃ k, (hubAt 1000).hubSlot 0 = some k ∧ kindAccepts k.kind true = false ∧ kindAccepts k.kind false = true ∧ k.kind = kindThresh
          ∧ k.u8 20 = 0 ∧ k.s16 18 ≤ k.s16 16 ∧ k.s16 16 ≤ 100 ∧ 99 < k.s16 16 ∧ (50 : Int) ≤ k.s16 18 ∧ k.s16 18 < 51
          ∧ (hubAt 1000).hub.slotsOff.contains k.index = false ∧ (message 0).inv = false
          ∧ ((hubAt 1000).inHub fun h => { h with slotsOff := [0] }).hub.slotsOff.contains k.index = true)
      ∧ (let d := (hubAt 510).putRun 1 fun r => { r with taken := 1, refill := 500 }
         ∃ k, d.hubSlot (1 : Fin 1024) = some k ∧ k.kind = kindRate ∧ k.u16 16 ≤ (d.runOf k.index).taken ∧ 0 < (d.runOf 1).taken
           ∧ (d.runOf 1).refill + max 1 (k.u32 20) = 510 ∧ 510 ≤ d.now ∧ (atTick d 509).now < 510)
      ∧ ((((hubAt 1000).putEngine 0 fun x => { x with out := [message 0] }).engine 0).out = [message 0] ∧ ((hubAt 1000).runOf 1).taken = 0) := by
  refine ⟨by decide, ⟨_, rfl, by decide⟩, ⟨_, rfl, by decide⟩, by decide⟩

/-- With `n` words in queue `q`. -/
def filled (q n : Nat) (d : Dev) : Dev := (List.range n).foldl (fun d i => (d.pushWord q (BitVec.ofNat 32 i)).2) d

/-- With a GAP marker pending at queue `q`. -/
def marked (q : Nat) (d : Dev) : Dev := d.inQue fun u => { u with q := vupdN u.q q fun x => { x with mark := some (markerWord markGap 0 3) } }

/-- Queue `q` at its cap. -/
def fullQueue (q : Nat) (d : Dev) : Dev :=
  (d.p Q_EVT_CELL_LIMIT q 2).inQue fun u => { u with q := vupdN u.q q fun x => { x with words := [{ w := 7, marker := false }] } }

theorem witness_QueuesKeepTheirWords_access :
    (dev0.tenantPresent 0 = true ∧ dev0.judge 0 0x1800 false = .pass ∧ dev0.judge 1 (0x1800 + 8 * 4) false = .pass)
      ∧ (dev0.queueOwner 4 ≠ 0 ∧ dev0.queueOwner 0 = 0 ∧ dev0.queueOwner 2 = 0 ∧ dev0.queueSource 2 = 2 ∧ dev0.queueSource 0 ≠ 2)
      ∧ ((filled 0 1 dev0).queue 0).words = [{ w := 0, marker := false }] ∧ (dev0.queue 0).words = []
      ∧ dev0.admits 0 (0x1800 + 8 * 2) ∧ dev0.admits 0 0x1800 ∧ (dev0.queue 2).seated = true ∧ dev0.queueFull 2 = false
      ∧ dev0.hasRoom 2 (markWords (dev0.queue 2) ++ [({ w := 7, marker := false } : QWord)]).length = true ∧ (dev0.queue 2).mark = none
      ∧ (fullQueue 2 dev0).queueFull 2 = true := by
  unfold Dev.admits; decide

theorem witness_QueuesKeepTheirWords_upkeep :
    ((marked 0 dev0).queue 0).mark = some (markerWord markGap 0 3)
      ∧ (let d := marked 0 dev0; d.queueUsed 0 = true ∧ (d.queue 0).seated = true ∧ d.queueFull 0 = false ∧ d.hasRoom 0 1 = true)
      ∧ (dev0.admits 0 (0x1805 + 8 * 0) ∧ dev0.queueUsed 0 = true ∧ ((filled 0 1 dev0).queue 0).words ≠ [])
      ∧ (dev0.admits 0 0x182F ∧ dev0.poolOk = true ∧ (dev0.inQue fun u => { u with free := 65000 }).poolOk = false)
      ∧ (dev0.flag POOL_AUDIT_BUSY = false ∧ (dev0.set1 POOL_AUDIT_BUSY).flag POOL_AUDIT_BUSY = true ∧ dev0.que.orphans = 0) := by
  unfold Dev.admits; decide

theorem witness_PoolBookBalances : ∀ n < 64, (dev0.queue n).head < 4 := by decide

/-! ### Hypotheses met: the buses, the host and the power of the block (O48 to O56) -/

/-- A transaction of Caller 0 in slot 5, its descriptor from data word `a`. -/
def txn (a : Nat) : Txn := { caller := some (0, 6, a), poll := none, slot := 5, desc := [], base := 0, tBus := 0, tries := 0, retry := false, multi := false }

/-- Waiting for bus 0 with the descriptor `ws`. -/
def busWaits (t : Txn) (ws : List Nat) : Dev := (((base.wws (dataWord 0 10) ws).putSlot 5 (some slotF)).putBusWait 0 fun _ => [t])

/-- Running on bus `b`. -/
def busRuns (b : Nat) (t : Txn) : Dev := (base.putSlot 5 (some slotF)).putBusRun b (some t)

/-- A transaction that may be retried three times. -/
def retried (n : Nat) : Txn := { txn 10 with desc := [3, 0x00300150, 5], tBus := 900, tries := n }

theorem witness_BusTransactionsRunInTurn :
    ((busWaits (txn 10) [3, 0x150, 5]).busRun 0 = none ∧ (busWaits (txn 10) [3, 0x150, 5]).busWait 0 = [txn 10]
        ∧ base.busEnabled 0 = true ∧ base.busEnabled 3 = false)
      ∧ (∃ ws, (busWaits (txn 10) [3, 0x150, 5]).readDesc (txn 10) = some ws ∧ descOk false (bitsOf (base.busOptions 0) 8 8) ws = true)
      ∧ (∃ ws, (busWaits (txn 10) [2, 0x150]).readDesc (txn 10) = some ws ∧ descOk false (bitsOf (base.busOptions 0) 8 8) ws = false)
      ∧ (base.ww (dataWord 0 1790) 3).readDesc (txn 1790) = none
      ∧ ((busRuns 0 (retried 2)).busRun 0 = some (retried 2) ∧ (retried 2).retry = false ∧ 2 < descRetry (retried 2).desc ∧ descRetry (retried 3).desc ≤ 3)
      ∧ ((busRuns 0 { retried 2 with retry := true }).busRun 0 = some { retried 2 with retry := true })
      ∧ (base.admits 0 0x1A00 ∧ base.busRun 0 = none) := by
  refine ⟨by decide, ⟨_, rfl, by decide⟩, ⟨_, rfl, by decide⟩, by decide, by decide, by decide, by unfold Dev.admits; decide⟩

theorem witness_BusTransactionsRunInTurn_polls :
    (let d := (base.set1 SBUS_CTRL_POLL_EN).set1 SBUS_POLL_CFG_EN 0
     d.domTakes domSio = true ∧ d.flag SBUS_CTRL_POLL_EN = true ∧ d.flag SBUS_POLL_CFG_EN 0 = true ∧ (vget d.sbus.pollSlot 0 none).isSome = false
       ∧ (vget (vupdN d.sbus.pollSlot 0 fun _ => some 5) 0 none).isSome = true ∧ d.g SBUS_POLL_CFG_BUS 0 < 4)
      ∧ (base.slotFor .bus = true ∧ (taken base).slotFor .bus = false ∧ base.flag SBUS_POLL_CFG_EN 0 = false)
      ∧ ((dark base domSio).domOn domSio = false ∧ base.edgePin 0 = false
          ∧ (let d := base.set1 SBUS_IN_EN 8
             d.edgePin 8 = true ∧ d.flag SBUS_IN_EN 8 = true ∧ d.flag SBUS_IN_PERIOD 8 = false ∧ d.domTakes domHub = true)) := by
  refine ⟨by decide, ⟨?_, ?_, by decide⟩, by decide⟩
  · rw [slotFor_of _ _ 256 (by simp only [Dev.freeSlots, Dev.busySlots, Dev.slotsWhere, base_slot]; decide)]; decide
  · rw [slotFor_of _ _ _ (taken_free _)]; decide

/-- Context `c` in a session of version 2.0 with RMW, queue commands and kinds. -/
def session (c : Nat) (d : Dev) : Dev := d.putCtx c fun k => { k with session := some ⟨0x20, 0xE⟩ }

/-- Room for the longest answer, and a buffer that has none for it. -/
theorem room_for_answers :
    (base.ctx 0).buf.length + 1 + 1024 ≤ 2048 ∧ (base.ctx 0).buf.length + 5 ≤ 2048 ∧ (base.ctx 0).buf.length + 1 + 992 + (992 + 31) / 32 ≤ 2048
      ∧ ((session 0 base).putCtx 0 fun k => { k with buf := List.replicate 1025 0 }).HostReady 0
      ∧ 2048 < (((session 0 base).putCtx 0 fun k => { k with buf := List.replicate 1025 0 }).ctx 0).buf.length + 1 + 1024 := by
  unfold Dev.HostReady; decide

theorem witness_DumarCommandsAreAnswered :
    (base.HostReady 0 ∧ (base.ctx 0).session = none ∧ (session 0 base).HostReady 0 ∧ ((session 0 base).ctx 0).session.isSome = true
        ∧ base.HostReady 1)
      ∧ (0x10 ≤ ([0x10, 0xF].getD 0 (0 : Word)).toNat % 256 ∧ ([0xF, 0xF].getD 0 (0 : Word)).toNat % 256 < 0x10)
      ∧ (1 ≤ bitsOf (0x00010800 : Word).toNat 16 11 ∧ bitsOf (0x04000800 : Word).toNat 16 11 = 1024)
      ∧ (((session 0 base).ctx 0).session.map Session.rmw) = some true
      ∧ (((session 0 base).admitted 0 (hostCmd opRmw 9 [0x40C, 7, 8] 0)).hostRead 0 0x40C).status = 0
      ∧ (((session 1 base).admitted 1 (hostCmd opRmw 9 [0x800, 7, 8] 0)).hostRead 1 0x800).status ≠ 0
      ∧ (0x4000 ≤ (0xFFFF : Word).toNat % 65536 ∧ (∀ i, i + 1 < ([0x40C, 7] : List Word).length → (0x40C + i) % 0x4000 ≠ 2) ∧ 0x40C % 65536 ≠ 2)
      ∧ base.admits 0 2 ∧ resetDev.ctxLives 1 = false := by
  unfold Dev.HostReady Dev.admits
  refine ⟨by decide, by decide, by decide, by decide, by decide, by decide, ⟨by decide, fun i h => ?_, by decide⟩, by decide, by decide⟩
  have : i = 0 := by simp at h; omega
  subst this; decide

theorem witness_DumarQueueAndReelCommands :
    (((session 0 base).ctx 0).session.map Session.qrw) = some true
      ∧ (1 ≤ bitsOf (0x00010000 : Word).toNat 16 10 ∧ bitsOf (0x03E00000 : Word).toNat 16 10 = 992)
      ∧ (base.queueFor 0 0 false = true ∧ base.queueFor 0 4 false = false ∧ base.queueFor 0 2 true = true ∧ base.queueFor 0 0 true = false)
      ∧ (base.admits 0 0x800 ∧ base.admits 0 0x810 ∧ base.forbids 1 0x800 ∧ base.forbids 1 0x810)
      ∧ (let a : HostAnswer := { words := [1, 2], credit := true, closes := false }
         let d := base.putCtx 0 fun k => { k with out := [a], free := 3 }
         (d.ctx 0).out = [a] ∧ (d.ctx 0).wait = [] ∧ a.credit = true ∧ a.closes = false ∧ (d.ctx 0).ending = false ∧ (d.ctx 0).debt = 0)
      ∧ (base.ctx 0).out = [] := by
  unfold Dev.admits Dev.forbids; decide

/-- A frame of port 0 with lane `l`. -/
def spiFrame (l : FrameLane) (d : Dev) : Dev := d.putSpi 0 fun x => { x with selected := true, ctx := some 0, lane := l }

theorem witness_SpiFramesCarryTheirLane :
    (base.domOn domHio = true ∧ (base.spi 0).selected = false ∧ base.spiCtx 0 = some 0 ∧ (dark base domHio).domOn domHio = false)
      ∧ (let d := spiFrame .none base
         (d.spi 0).selected = true ∧ (d.spi 0).ctx = some 0 ∧ (d.spi 0).lane = .none ∧ bitsOf (0xC1000000 : Word).toNat 24 8 = 0xC1
           ∧ bitsOf (0x5A000000 : Word).toNat 24 8 = 0x5A ∧ bitsOf (0xC0000000 : Word).toNat 24 8 ≠ 0xC1 ∧ d.streamable 0 63 = false
           ∧ (d.set1 Q_CFG_STREAM 0).streamable 0 0 = true)
      ∧ ((spiFrame (.stream 0 0) base).spi 0).lane = .stream 0 0
      ∧ (let d := spiFrame .command base
         (d.spi 0).selected = true ∧ (d.spi 0).ctx = some 0 ∧ (d.spi 0).under = false ∧ (d.spi 0).lane = .command ∧ d.quad 0 = true)
      ∧ ((spiFrame .ignored base).spi 0).lane = .ignored := by
  decide

/-- The H2 port in a transaction of tenant 1. -/
def h2At (f : H2State → H2State) : Dev := base.putH2 fun h => f { h with tenant := some 1 }

/-- A third tenant, on H2 too. -/
def twoOnH2 : Dev :=
  { base with reel := { base.reel with active := some { reel0 with tenants := reel0.tenants ++
      [{ tenant := 2, port := 2, addr := 0x11, hint := 2, chFirst := 0x600, chCount := 0x200, figFirst := 300, figCount := 100, credits := 4, flags := 0,
         dumarMax := 0x20 }] } } }

/-- Tenant `t` requests: an answer waits for it. -/
def requests (t : Nat) (d : Dev) : Dev := (d.p HOST_IRQ_EN t 0xF).putCtx t fun k => { k with buf := [5, 2] }

theorem witness_TwoWireAndWindowPorts :
    (base.domOn domHio = true ∧ base.h2Tenant (0x10 : BitVec 7).toNat = some 1 ∧ base.h2Tenant (0x11 : BitVec 7).toNat = none)
      ∧ (((h2At id).host.h2).read = false ∧ ((h2At id).host.h2).refused = false ∧ ((h2At id).host.h2).ptrBytes = 0
          ∧ ((h2At fun h => { h with ptrBytes := 1 }).host.h2).ptrBytes = 1)
      ∧ (let h := (h2At fun h => { h with ptrBytes := 2, ptr := 0x50C, bytes := [1, 2] }).host.h2
         h.ptrBytes = 2 ∧ h.page.getD (h.ptr / 64) = h.ptr / 64 ∧ h.bytes.length < 3)
      ∧ ((h2At fun h => { h with bytes := [1, 2, 3] }).host.h2).bytes.length = 3
      ∧ (let h := (h2At fun h => { h with ptrBytes := 2, ptr := 0x540, page := some 0x14 }).host.h2; h.page.getD (h.ptr / 64) ≠ h.ptr / 64)
      ∧ ((h2At fun h => { h with read := true }).host.h2).read = true ∧ base.host.h2.tenant = none ∧ ((h2At id).host.h2).bytes = []
      ∧ (base.inbandTime = 0 ∧ 0 < (requests 1 base).inbandTime ∧ ((requests 1 base).h2Tenants.filter fun e => (requests 1 base).request e.tenant).length = 1)
      ∧ twoOnH2.h2Tenants.length = 2
      ∧ (base.admits 1 (0x440 + 0x100 * (1 : Tenant).val) ∧ base.tenantPresent 1 = true
          ∧ base.judge 1 (0x480 + 0x100 * (1 : Tenant).val) false = .pass ∧ (base.ctx 1).buf = []
          ∧ ((base.putCtx 1 fun k => { k with buf := [5] }).ctx 1).buf = [5] ∧ base.admits 0 (0x404 + 0x100 * (0 : Tenant).val)) := by
  unfold Dev.admits; decide

/-- An entry under way in state `st` with its sets and what was asked. -/
def entering (st : Nat) (off ret asked : List Nat) : Dev := (base.p PWR_STATUS_ENTRY 0 st).inPwr fun u => { u with off := off, ret := ret, asked := asked }

theorem witness_DomainsEnterAndWake_entry :
    (base.admits 0 0x100 ∧ base.tap.stopped = false ∧ ¬ (1 ≤ base.entry ∧ base.entry ≤ 3) ∧ base.flag PWR_STATUS_WAKING = false
        ∧ (base.set1 PWR_STATUS_WAKING).flag PWR_STATUS_WAKING = true
        ∧ (∀ x < 8, base.wakeAsserted x = false)
        ∧ (let d := (base.p PWR_WAKE_SRC_EN 0 1).inPwr fun u => { u with wakePins := vupdN u.wakePins 0 fun _ => false }
           (d.g PWR_WAKE_SRC_EN).testBit 0 = true ∧ (d.g PWR_WAKE_POL_EDGE).testBit 0 = false
             ∧ vget d.pwr.wakePins 0 true = (d.g PWR_WAKE_POL_POL).testBit 0))
      ∧ ((entering 1 [12] [] [12]).admits 0 0x100 ∧ 1 ≤ (entering 1 [12] [] [12]).entry ∧ (entering 3 [12] [] []).entry ≤ 3)
      ∧ (([12] : List Nat) ++ [] ≠ [] ∧ (∀ m ∈ ([12] : List Nat) ++ [], (base.powerPolicy m).1 = 1)
          ∧ ∀ m ∈ allDoms, base.domOn m = true → m ∉ ([12] : List Nat) ++ [] → ∀ r ∈ requires m, r ∉ ([12] : List Nat) ++ [])
      ∧ (entering 1 [12] [] [12]).pwr.asked.contains (5 : Dom).val = false := by
  refine ⟨?_, ?_, ⟨?_, ?_, ?_⟩, ?_⟩
  · unfold Dev.admits; exact ⟨by decide, by decide, by decide, by decide, by decide, by decide⟩
  · unfold Dev.admits; exact ⟨by decide, by decide, by decide⟩
  · decide
  · decide
  · decide
  · decide

theorem witness_DomainsEnterAndWake_bow :
    (let d := entering 1 [3, 12] [] [3, 12]
     d.entry = 1 ∧ d.pwr.asked.contains (12 : Dom).val = true ∧ d.bowReason d.pwr.off 12 = none ∧ ∃ m ∈ d.pwr.asked, m ≠ (12 : Dom).val)
      ∧ (∀ m ∈ (entering 1 [12] [] [12]).pwr.asked, m = (12 : Dom).val)
      ∧ (let d := (entering 1 [26] [] [26]).inQue fun q => { q with q := vupdN q.q 0 fun x => { x with mark := some 5 } }
         d.pwr.asked.contains (26 : Dom).val = true ∧ d.bowReason d.pwr.off 26 = some 0x0C ∧ d.tap.stopped = false ∧ d.pwr.met = 0)
      ∧ (let d := entering 1 [12] [] [12]
         vget d.pwr.delays 12 0 + (d.powerPolicy 12).2 ≤ (d.powerPolicy 12).2 ∧ (d.powerPolicy 12).2 ≤ 250)
      ∧ (base.entry ≠ 2 ∧ (entering 2 [12] [24] []).entry = 2)
      ∧ (let d := (entering 2 [12] [24] []).each (switchOrder.filter [12].contains) fun d n => d.leaveOn [12] .off n
         d.pwr.met = 0 ∧ d.tap.stopped = false) := by
  refine ⟨⟨by decide, by decide, by decide, 3, by decide, by decide⟩, by decide, by decide, by decide, by decide, by decide⟩

/-- `base` at an ACLK count. -/
def later (d : Dev) (n : Nat) : Dev := { d with clock := { d.clock with aclk := BitVec.ofNat 48 n } }

/-- Every wake source is on. -/
def awaiting (d : Dev) : Dev := (d.p PWR_WAKE_SRC_EN 0 0x1FFF).p PWR_TIMER_TICKS 0 5

theorem witness_DomainsEnterAndWake_wake :
    ((base.p PWR_WAKE_SRC_EN 0 0).g PWR_WAKE_SRC_EN = 0 ∧ ((awaiting base).g PWR_WAKE_SRC_EN).testBit 0 = true
        ∧ ((awaiting base).g PWR_WAKE_SRC_EN).testBit 7 = true
        ∧ (vget (awaiting base).pwr.wakePins 7 true = !false ∧ false = ((awaiting base).g PWR_WAKE_POL_POL).testBit 7) ∧ ¬ (1 ≤ (awaiting base).entry ∧ (awaiting base).entry ≤ 3))
      ∧ (base.pwr.done = none ∧ ((awaiting base).inPwr fun u => { u with done := some 3 }).pwr.done ≠ none
          ∧ (awaiting base).g PWR_TIMER_TICKS ≠ 0 ∧ ((awaiting base).g PWR_WAKE_SRC_EN).testBit 8 = true)
      ∧ (let d := dark (awaiting base) domHio
         d.domOn domHio = false ∧ (d.g PWR_WAKE_SRC_EN).testBit 12 = true ∧ (d.g PWR_WAKE_SRC_EN).testBit 10 = true ∧ vget d.pwr.vioLow 0 false = false)
      ∧ base.pwr.groups = []
      ∧ (let d := (dark base 20).inPwr fun u => { u with groups := [[20]] }
         d.pwr.groups = [[20]] ∧ d.pwr.tries = [] ∧ (d.pwr.groups.headD []).contains (20 : Dom).val = true ∧ (assocGet 20 [(20, 3)]).getD 0 < 4
           ∧ (d.pwr.groups.headD []).contains (3 : Dom).val = false)
      ∧ base.pwr.lastSet = none
      ∧ (let d := ((later base 3277).set1 PWR_REENTER_EN).inPwr fun u => { u with lastSet := some ([12], [24]), wokenBy := 0x100, busyAt := 0 }
         d.flag PWR_REENTER_EN = true ∧ d.pwr.wokenBy = 0x100 ∧ ¬ (1 ≤ d.entry ∧ d.entry ≤ 3) ∧ d.tap.stopped = false ∧ d.flag PWR_STATUS_WAKING = false
           ∧ d.g PWR_REENTER_IDLE_MS * 32768 ≤ 1000 * ((d.clock.aclk.toNat + 2 ^ 48 - d.pwr.busyAt) % 2 ^ 48) ∧ (∀ k < 4, d.flag HOST_STATUS_REQ k = false)
           ∧ ∀ m ∈ ([12] : List Nat) ++ [24], d.domOn m = true → d.bowReason [12] m = none) := by
  decide

/-- On the RC, with what XREF and the PLL show. -/
def onRc (xref : Nat) (d : Dev) : Dev := ((d.set1 CLK_STATUS_ON_RC).p CLK_STATUS_PLL_LOCK 0 0).p CLK_STATUS_XREF_OK 0 xref

theorem onRc_canonical : (onRc 1 base).Canonical := by unfold Dev.Canonical; decide

theorem witness_ClocksFollowTheirSources :
    ((dark base 1).domOn domCore = false ∧ base.domOn domCore = true ∧ base.onRc = false ∧ (onRc 1 base).onRc = true
        ∧ (25160 ≤ 25160 ∧ 27808 ≤ 27808) ∧ (onRc 1 base).flag CLK_STATUS_XREF_OK = true
        ∧ ((onRc 0 base).p CLK_RETRY_RETRY_MS 0 10).g CLK_RETRY_RETRY_MS ≠ 0 ∧ (onRc 1 base).pwr.clkWait = [] ∧ (onRc 1 base).flag PWR_STATUS_WAKING = false)
      ∧ (let d := (dark (dark (onRc 0 base) 3) 4).inPwr fun u => { u with clkWait := [3, 4] }
         d.onRc = true ∧ d.pwr.clkWait ≠ [] ∧ ∀ n ∈ d.pwr.clkWait, d.domOn n = false)
      ∧ ((base.inPwr fun u => { u with xtalTry := false }).pwr.xtalTry = false ∧ (base.inPwr fun u => { u with xtalTry := true }).pwr.xtalTry = true)
      ∧ (base.admits 0 0x300 ∧ (base.set1 AON_ACLK_SRC).flag AON_ACLK_SRC = true ∧ (base.p AON_ACLK_SRC 0 0).flag AON_ACLK_SRC = false)
      ∧ ((base.p PWR_BIAS_BB_AUTO 0 0).flag PWR_BIAS_BB_AUTO = false ∧ (base.set1 PWR_BIAS_BB_AUTO).flag PWR_BIAS_BB_AUTO = true
          ∧ (-38 : Int) ≤ -38 ∧ (63 : Int) ≤ 63) := by
  unfold Dev.admits; decide

/-- Domain `n` in Retain. -/
def retained (n : Nat) : Dev := base.inPwr fun p => { p with dom := vupdN p.dom n fun _ => .retain }

/-- MEM00 alone On. -/
def oneBank : Dev := (List.range 23).foldl (fun d k => dark d (17 + k)) base

theorem witness_SuppliesTapsAndScrubs :
    ((∀ n ∈ allDoms, base.domState n ≠ .retain) ∧ 16 ∈ allDoms ∧ (retained 16).domState 16 = .retain ∧ isBank 16 = true ∧ (retained 39).domState 39 = .retain
        ∧ isBank 39 = true)
      ∧ ((∀ n ∈ switchOrder, (switchOrder.foldl dark base).domOn n = false) ∧ switchOrder.filter base.domOn ≠ [])
      ∧ ((dark base domHio).domOn domHio = false ∧ base.domOn domHio = true ∧ (dark base domSio).domOn domSio = false ∧ base.domOn domSio = true)
      ∧ (let d := base.set1 TAP_CTRL_EN; d.tapPings 0 = false ∧ (dark d 5).tapPings 0 = true ∧ (dark d 7).tapPings 1 = true)
      ∧ (base.admits 0 0x301 ∧ base.g TAP_CTRL_SEGS = 3 ∧ (base.p TAP_CTRL_SEGS 0 0).g TAP_CTRL_SEGS = 0)
      ∧ ((base.p HEALTH_CTRL_SCRUB_EN 0 0).flag HEALTH_CTRL_SCRUB_EN = false)
      ∧ (let d := oneBank.inHealth fun h => { h with scrubPos := vupdN h.scrubPos 0 fun _ => 0x7FFF }
         d.flag HEALTH_CTRL_SCRUB_EN = true ∧ d.domOn domCore = true ∧ (List.range 24).filter d.bankOn = [0] ∧ vget d.health.fix 0 [] = []
           ∧ vget d.health.scrubPos 0 0 = 0x7FFF ∧ d.eccOf 0 0x7FFF = 0 ∧ vget oneBank.health.scrubPos 0 0 ≠ 0x7FFF)
      ∧ base.fuses.lifeCycle = 0 := by
  unfold Dev.admits; decide

/-- In life-cycle state `n`. -/
def cycleState (n : Nat) : Dev :=
  { base with fuses := { base.fuses with make := if 1 ≤ n then 3 else 0, field := if 2 ≤ n then 3 else 0, ret := if 3 ≤ n then 3 else 0 } }

theorem witness_SuppliesTapsAndScrubs_tamper :
    (base.tamperStands (.vcore 679 10) = true ∧ base.tamperStands (.vcore 921 10) = true ∧ base.tamperStands (.vcore 679 9) = false
        ∧ base.tamperStands (.vcore 680 10) = false ∧ base.tamperStands (.vcore 920 10) = false)
      ∧ (base.tamperStands (.vaon 1619) = true ∧ base.tamperStands (.vaon 3801) = true ∧ base.tamperStands (.vaon 1620) = false
          ∧ base.tamperStands (.vaon 3800) = false)
      ∧ (base.tamperStands (.clock 1899 30000) = true ∧ base.tamperStands (.clock 1900 29999) = true ∧ base.tamperStands (.clock 1900 30000) = false)
      ∧ (base.fuses.orderE = true ∧ base.tamperStands (.temperature (-41)) = true ∧ base.tamperStands (.temperature 126) = true
          ∧ base.tamperStands (.temperature (-40)) = false ∧ base.tamperStands (.temperature 125) = false
          ∧ (let d := { base with fuses := { base.fuses with orderE := false } }
             d.tamperStands (.temperature 106) = true ∧ d.tamperStands (.temperature 105) = false))
      ∧ (let r : TamperReading := .mesh true
         base.tamperStands r = true ∧ (base.g TAMPER_STATUS_ACTIVE).testBit r.bit = false ∧ base.fuses.lifeCycle = 0
           ∧ (cycleState 3).tamperStands r = true ∧ (cycleState 3).fuses.lifeCycle = 3
           ∧ (cycleState 1).tamperStands r = true ∧ (cycleState 1).fuses.lifeCycle = 1
           ∧ (cycleState 2).fuses.lifeCycle = 2 ∧ ((cycleState 2).g TAMPER_STATUS_ACTIVE).testBit r.bit = false
           ∧ ((base.setBit TAMPER_STATUS_ACTIVE 0 r.bit).g TAMPER_STATUS_ACTIVE).testBit r.bit = true) := by
  decide

/-- A slot with an active and a staged key. -/
def keys : KeySlot := { active := some 7, staged := some 5, tenants := 3, tam := true, mam := false, uses := 2, intact := true }

theorem witness_KeysFusesAndTheLifeCycle :
    (base.admits 0 0x1E06 ∧ base.vaultEnabled = false ∧ (cycleState 1).vaultEnabled = true ∧ (cycleState 2).vaultEnabled = true
        ∧ (cycleState 3).vaultEnabled = false ∧ (cycleState 1).flag VAULT_KEY_SEL_STAGED = false
        ∧ ((cycleState 1).set1 VAULT_KEY_SEL_STAGED).flag VAULT_KEY_SEL_STAGED = true ∧ (cycleState 1).admits 0 0x1E06)
      ∧ (((cycleState 1).inVault fun v => { v with slots := [(0, keys)] }).keySlot 0).staged = some 5 ∧ ((cycleState 1).keySlot 0).staged = none
      ∧ (base.admits 0 0x1E00 ∧ base.domOn domVault = true ∧ base.admits 0 0x1E11)
      ∧ (let d := { cycleState 1 with lc := { base.lc with armed := some (2, 1000, 0) } }
         d.lc.armed = some ((2 : Fin 4).val, 1000, 0) ∧ (2 : Fin 4).val = d.fuses.lifeCycle + 1 ∧ d.now ≤ 1000 + 27120
           ∧ (atTick d 28120).now ≤ 1000 + 27120 ∧ d.clock.aclk.toNat ≤ 0 + 33 ∧ 2500 ≤ 2500 ∧ 2499 < 2500 ∧ (3 : Fin 4).val ≠ d.fuses.lifeCycle + 1)
      ∧ (base.lc.armed = none ∧ base.lc.programming = none)
      ∧ (let d := { cycleState 2 with lc := { base.lc with programming := some 3 } }
         d.lc.programming = some (3 : Fin 4).val ∧ 1 ≤ (3 : Fin 4).val ∧ d.fuses.lifeCycle + 1 = (3 : Fin 4).val)
      ∧ (base.admits 0 0x1C0A ∧ (23 : BitVec 12).toNat < 24 ∧ (23 : BitVec 12).toNat ∉ base.health.rebase) ∧ base.fuses.halfDone = false := by
  unfold Dev.admits; decide

/-- With instruction `i` in the TAP. -/
def tapIn (i : TapInstr) (d : Dev) : Dev := d.inTap fun t => { t with ir := i }

theorem witness_TapInstructionsTakeHold :
    (base.tap.ir.stops = false ∧ (cycleState 2).tap.ir.stops = false ∧ (cycleState 2).fuses.lifeCycle = 2 ∧ base.fuses.lifeCycle ≠ 2
        ∧ ¬ (1 ≤ base.entry ∧ base.entry ≤ 3) ∧ 1 ≤ (entering 2 [12] [] []).entry ∧ (entering 2 [12] [] []).entry ≤ 3)
      ∧ ((tapIn .extest base).tap.ir.stops = true ∧ base.tap.ir ≠ .segloop ∧ base.tap.ir ≠ .testacc)
      ∧ ((0x4000 : Half).toNat.testBit 14 = true ∧ (0x3FFF : Half).toNat.testBit 14 = false)
      ∧ (let d := tapIn .segloop base
         d.tap.ir = .segloop ∧ d.tap.loop = none ∧ d.flag CLK_STATUS_PLL_LOCK = true ∧ (d.p CLK_STATUS_PLL_LOCK 0 0).flag CLK_STATUS_PLL_LOCK = false
           ∧ d.vdrvLow = false ∧ (0x4017 : Half).toNat % 32 < 24 ∧ (0x4017 : Half).toNat.testBit 5 = false ∧ d.segIsRetired 23 = false
           ∧ d.domTakes (fldDom 23) = true ∧ d.hasGranted 23 .loop = false ∧ d.queuedTokens 23 .loop = 0)
      ∧ (let r : LoopRun := { seg := 23, ext := true, amp := 8, tokens := 1, got := none }
         let driven := fun (lvl cycles : Nat) =>
           (base.inTap fun t => { t with loop := some r }).putSeg 23 fun s => { s with owner := some .loop, level := lvl, driveCycles := cycles }
         (driven 8 256).tap.loop = some r ∧ r.ext = true ∧ (driven 8 256).loopDriven r = true ∧ (driven 8 255).loopDriven r = false
           ∧ ((driven 8 256).seg r.seg).level ≠ 0 ∧ ((driven 0 256).seg r.seg).level = 0 ∧ (driven 0 256).loopDriven r = true
           ∧ decide (72 * r.amp ≤ 32 * 18) = true ∧ decide (72 * r.amp ≤ 32 * 17) = false)
      ∧ (let g : LoopGot := { pass := true, opened := false, shorted := false, mag := 18, phase := 0 }
         let r : LoopRun := { seg := (23 : Seg).val, ext := true, amp := 8, tokens := 1, got := some g }
         let d := ((base.inTap fun t => { t with loop := some r }).putSeg 23 fun s => { s with owner := some .loop, level := 8 }).startRamp 23 0 32 segRampDown
         d.tap.loop = some r ∧ r.seg = (23 : Seg).val ∧ r.got = some g ∧ (d.seg (23 : Seg)).ramp.isSome = true ∧ d.segState (23 : Seg) = segRampDown
           ∧ d.cen.job = none)
      ∧ (let d := tapIn .testacc base
         d.tap.ir = .testacc ∧ (0x46550018 : Word).toNat.testBit 4 = true ∧ (0x46550008 : Word).toNat.testBit 4 = false ∧ d.fuses.lifeCycle < 2
           ∧ 2500 ≤ 2500 ∧ (0x46550018 : Word).toNat % 16 ≤ 8 ∧ (0x46550018 : Word).toNat / 65536 = 0x4655 ∧ d.tap.fusing = none
           ∧ ¬ ((0x46550019 : Word).toNat % 16 ≤ 8))
      ∧ (base.inTap fun t => { t with fusing := some (8, 3) }).tap.fusing = some (8, 3)
      ∧ (base.p HOST_IRQ_EN 0 0).hintLevel 0 = some true ∧ vget base.pwr.vioLow 0 false = false
      ∧ ∀ p < 4, (dark base domHio).hintLevel p = none := by
  decide

theorem segloop_canonical : (tapIn .segloop base).Canonical := by unfold Dev.Canonical; decide

/-! ### Terms that WellFormed refuses, one for each of its checks -/

theorem test_prepare_length_refused :
    (Instr.prepare frame5 0x100 2 0 [1] true).wf = false ∧ (Instr.prepare frame5 0x100 0 0 [1] true).wf = false
      ∧ (Instr.prepare frame5 0x100 2 0 [1, 2] true).wf = true ∧ (Instr.prepare frame5 0x100 0 0 (List.replicate 16 0) true).wf = true := by decide

theorem test_auth_length_refused :
    (Instr.auth frame5 0 0 []).wf = false ∧ (Instr.auth frame5 0 0 (List.replicate 65 0)).wf = false
      ∧ (Instr.auth frame5 0 0 (List.replicate 64 0)).wf = true := by decide

theorem test_candidate_shape_refused :
    let level := fun n => List.replicate n (⟨1, 0⟩ : Cplx)
    let rx := fun bs : List (List Cplx) => ({ offsetHz := 0, branches := bs } : Pickup)
    (Instr.candidate 0 0 false (rx [level 191]) [1]).wf = false ∧ (Instr.candidate 0 0 false (rx []) [1]).wf = false
      ∧ (Instr.candidate 0 0 false (rx [level 192, level 191]) [1, 1]).wf = false ∧ (Instr.candidate 0 0 true (rx [level 192]) [1]).wf = false
      ∧ (Instr.candidate 0 0 false (rx [level 192]) [1]).wf = true ∧ (Instr.candidate 0 0 true (rx [level 320]) [1]).wf = true
      ∧ (Instr.arrival 0 false 8 (rx [level 127])).wf = false ∧ (Instr.arrival 0 false 8 (rx [level 128])).wf = true := by decide +kernel

theorem test_uneven_pickup_refused :
    let bad : Pickup := { offsetHz := 0, branches := [[⟨1, 0⟩], []] }
    let four : Pickup := { offsetHz := 0, branches := [[], [], [], []] }
    let good : Pickup := { offsetHz := 0, branches := [[⟨1, 0⟩], [⟨2, 0⟩]] }
    [Instr.syncQualify 0 0, .seamCrossing 0 0, .windowSlide 0, .codewordQueued 0, .frameDelivery 0].all
      (fun f => !(f bad).wf && !(f four).wf && (f good).wf) = true := by decide

theorem test_defined_opcode_is_no_undefined_one :
    (Instr.undefinedOpcode 0 0x14).wf = false ∧ (Instr.undefinedOpcode 0 0x3F).wf = false ∧ (Instr.undefinedOpcode 0 0x15).wf = true
      ∧ (Instr.undefinedOpcode 0 0x33).wf = true := by decide

theorem test_partial_word_refused :
    (Instr.selectRelease 0 [] (some (0, 0)) 0 none).wf = false ∧ (Instr.selectRelease 0 [] (some (32, 0)) 0 none).wf = false
      ∧ (Instr.selectRelease 0 [] (some (31, 0)) 0 none).wf = true ∧ (Instr.selectRelease 0 [] none 0 none).wf = true := by decide

theorem test_command_length_refused :
    [Instr.dumarNop, .hello, .bye, .rd, .wr, .rmw, .qread, .qwrite, .reelStart, .dumarReelData, .reelArm].all
      (fun f => !(f 0 1 (List.replicate 2048 0) 0).wf && (f 0 1 [5] 0).wf) = true := by decide +kernel

theorem test_other_domains_refused :
    (Instr.bowAnswer 0 none).wf = false ∧ (Instr.bowDelayExpiry 13).wf = false ∧ (Instr.switchAttemptFail 15).wf = false
      ∧ (Instr.entrySwitch [16, 12]).wf = false ∧ (Instr.bowAnswer 12 none).wf = true ∧ (Instr.entrySwitch [16, 39]).wf = true := by decide

theorem test_bus_and_source_refused :
    (Instr.twoWireTimeout 2 .sclLow).wf = false ∧ (Instr.twoWireTimeout 1 .sclLow).wf = true ∧ (Instr.portWake 9).wf = false
      ∧ (Instr.portWake 10).wf = true := by decide

theorem test_scrub_hits_refused :
    (Instr.scrubRead [(24, 1)]).wf = false ∧ (Instr.scrubRead [(0, 0)]).wf = false ∧ (Instr.scrubRead [(0, 3)]).wf = false
      ∧ (Instr.scrubRead [(23, 2), (0, 1)]).wf = true := by decide

theorem test_tag_kind_refused :
    (Instr.tagPowerUp { kindT with channels := 65 }).wf = false ∧ (Instr.tagPowerUp { kindT with plans := List.replicate 17 1 }).wf = false
      ∧ (Instr.tagPowerUp kindT).wf = true := by decide

/-! ### Caller instructions written out bit by bit from R212 and R213: OP, then four, four and four bits, then 14 -/

theorem test_word_register :
    instrOf 2 0b000001_0001_0010_0011_00000000000000#32 = .add 2 1 2 3 ∧ instrOf 2 0b001000_1111_0000_0001_00000000000000#32 = .sar 2 15 0 1
      ∧ instrOf 2 0b001001_0100_0101_0110_00000000000000#32 = .mul 2 4 5 6 ∧ instrOf 2 0 = .nop 2 := by decide

theorem test_word_immediate :
    instrOf 2 0b001010_0001_0010_111111111111111110#32 = .addi 2 1 2 (-2) ∧ instrOf 2 0b001101_0111_0000_000000000000000011#32 = .lui 2 7 3
      ∧ instrOf 2 0b001111_0001_0010_000000000000011111#32 = .shri 2 1 2 31 := by decide

theorem test_word_memory :
    instrOf 2 0b010000_0001_0010_0000_00000000000101#32 = .ld 2 1 2 5 ∧ instrOf 2 0b010001_0001_0010_0000_11111111111111#32 = .st 2 1 2 16383
      ∧ instrOf 2 0b010011_0011_0000_0000_00000000001000#32 = .rds 2 3 8 ∧ instrOf 2 0b010100_0000_0011_0000_00000000001000#32 = .wrs 2 3 8 := by decide

theorem test_word_branch :
    instrOf 2 0b011010_0001_0010_111111111111111111#32 = .blt 2 1 2 (-1) ∧ instrOf 2 0b011101_0000_0000_0000_10000000000001#32 = .call 2 8193
      ∧ instrOf 2 0b011110_0000_0000_0000_00000000000000#32 = .ret 2 ∧ instrOf 2 0b011111_0000_0000_0000_00000000000000#32 = .endProgram 2 := by decide

theorem test_word_slot :
    instrOf 2 0b100000_0001_0000_0000_10000000000010#32 = .slot 2 1 0x2002 ∧ instrOf 2 0b100010_0000_0001_0010_00000000000000#32 = .keep 2 1 2
      ∧ instrOf 2 0b100100_0000_0001_0000_00000000000000#32 = .useSlot 2 1 := by decide

theorem test_word_field :
    instrOf 2 0b101000_0001_0010_0011_00000000000000#32 = .claim 2 1 2 3 ∧ instrOf 2 0b101001_0000_0010_0011_00000000000000#32 = .field 2 2 3
      ∧ instrOf 2 0b101010_0001_0010_0011_00000000000000#32 = .glide 2 1 2 3 := by decide

theorem test_word_air :
    instrOf 2 0b110000_0001_0010_0000_00000000001010#32 = .send 2 1 2 10 ∧ instrOf 2 0b110001_0000_0010_0011_00000000000000#32 = .listen 2 2 3
      ∧ instrOf 2 0b110010_0001_0010_0000_00000001000000#32 = .recv 2 1 2 64 ∧ instrOf 2 0b111100_0001_0010_0000_00000000001000#32 = .cen 2 1 2 8 := by decide

theorem test_word_wait :
    instrOf 2 0b111000_0000_0010_0000_00000001100100#32 = .waitc 2 2 100 ∧ instrOf 2 0b111010_0000_0010_0011_00000001100100#32 = .waitp 2 2 3 100
      ∧ instrOf 2 0b111111_0000_0000_0000_00000000001111#32 = .entry 2 15 ∧ instrOf 2 0b111110_0000_0000_0000_00000000000000#32 = .undefinedOpcode 2 0x3E := by decide

/-! ### Values that the spec works out -/

/-- The ASCII bytes of "123456789". -/
def nine : List Byte := (List.range 9).map fun i => BitVec.ofNat 8 (49 + i)

/-- The check values of R32, R115 and R116. -/
theorem test_crc_check_values :
    crc32c nine = 0xE3069283 ∧ crc16 (nine.flatMap fun b => msbBits 8 b.toNat) = 0x29B1 ∧ crc8 (nine.flatMap fun b => msbBits 8 b.toNat) = 0xF4 := by
  decide +kernel

/-- 03_field_segments.md, tuning SEG3: RLOAD 20 Ω and ROUT 1 Ω at 5.0 V give 1,470. -/
theorem test_fsp_of_seg3 : fspOf 1000000 5000 20000000 = 1470 := by decide +kernel

/-- 03_field_segments.md, claims on two coils. -/
theorem test_claims_on_two_coils :
    tokensAt 1470 133 = 25 ∧ tokensAt 1470 255 = 92 ∧ tokensAt 1651 133 = 29 ∧ tokensAt 2302 212 = 100 ∧ tokensAt 2302 213 = 101
      ∧ tokensAt 1470 200 = 57 := by decide +kernel

theorem test_largest_codes : largestCode 1470 100 = 255 ∧ largestCode 2302 100 = 212 ∧ largestCode 1651 25 = 125 := by decide +kernel

/-- FSP_eff of SEG3 at 5.3 V (03_field_segments.md, claims on two coils). -/
theorem test_fsp_at_other_vdrv :
    (((base.p SEG_CAL_FSP 3 1470).p SEG_LOAD_VDRV_CAL 3 5000).p FLD_VDRV_VDRV 0 5300).fspEff 3 = 1651 := by decide +kernel

/-- The Glide table of R61: outgoing 133 and incoming 200 at each k of N = 8, and the same codes at each fourth k of N = 32. -/
theorem test_glide_codes :
    (List.range 9).map (fun k => rampCode 0 133 k 8) = [0, 5, 19, 41, 67, 92, 114, 128, 133]
      ∧ (List.range 9).map (fun k => rampCode 133 0 k 8) = [133, 128, 114, 92, 66, 41, 19, 5, 0]
      ∧ (List.range 9).map (fun k => rampCode 0 200 (4 * k) 32) = [0, 8, 29, 62, 100, 138, 171, 192, 200]
      ∧ (List.range 9).map (fun k => rampCode 200 0 (4 * k) 32) = [200, 192, 171, 138, 100, 62, 29, 8, 0] := by decide +kernel

/-- 04_tempo_angle.md, a keyphasor ring accelerating: INC over 135,600 and 135,300 ticks, and their speeds. -/
theorem test_inc_of_a_revolution :
    speedOf false (2 ^ 40) 135600 = 8108493 ∧ speedOf false (2 ^ 40) 135300 = 8126472 ∧ rpmOf 8108493 = 12000 ∧ rpmOf 8126472 = 12027 := by
  decide +kernel

/-- 04_tempo_angle.md: 60 s on the crystal are 33,372 ticks of uncertainty (R97). -/
theorem test_sync_error : ((base.p AON_ACLK_SRC 0 0).syncErr 1627200000).1 = 33372 ∧ (base.roundOpen (1966080 * 54240000) 65536).1 = 1627200000 := by decide +kernel

/-- 06_receive_decode.md, first parity bits at rate 7/8, Z = 32. -/
theorem test_first_checks_of_rate_7_8 :
    sortBy (fun a b : Nat => decide (a < b)) (checkBits 32 0 ((checkRows 2).getD 0 [])) = [17, 42, 73, 119, 159, 166, 208, 247, 256, 288, 384, 448]
      ∧ sortBy (fun a b : Nat => decide (a < b)) (checkBits 32 0 ((checkRows 2).getD 1 []))
          = [20, 37, 70, 122, 139, 175, 211, 252, 268, 301, 320, 352, 387, 416, 475, 480] := by decide +kernel

/-- The ring of 09_sensor_hub.md, stamping a J3 DATA block, at tick 1,210,000. -/
def ring12000 : Dev :=
  ((atTick dev0 1210000).set1 RING_STATUS_VALID 0).putRing 0 fun r =>
    { r with inc := 8108493, phase := BitVec.ofNat 80 (4800 * 2 ^ 40 + (1210000 - 1135600) * 8108493), disturbed := none }

/-- The angle stamps of that example's two sets. -/
theorem test_stamps_of_a_data_block :
    (ring12000.angleStamp (some 0) 1198670).a = 0x00000012C07711F9 ∧ (ring12000.angleStamp (some 0) 1185870).a = 0x00000012C05EE7AF := by
  decide +kernel

/-- 14_dependability_longevity.md, a driver at full field: metric 0.24, slope 0.0006 a day. -/
theorem test_days_of_a_driver :
    daysLeft (2 ^ 60 * 24 / 100) (2 ^ 60 * 6 / 10000) 1 = 1266 ∧ metricField (2 ^ 60 * 24 / 100) = 15728
      ∧ (base.roundOpen (2 ^ 60 * 6 / 10000) (2 ^ 38)).1 = 2517 := by decide +kernel

/-- 10_queues_pool.md, a queue at its limit: C of CELL_LIMIT 5, and the markers of that example. -/
theorem test_queue_at_its_limit :
    capacityOf 5 = some 13 ∧ belowCap 5 12 = true ∧ belowCap 5 13 = false ∧ recordHeader 0x11 7 0x068C0 = 0x113868C0 := by decide +kernel

/-! ### One step on a small state -/

theorem test_add_wraps : after (exec (.add 0 7 5 6) (blk (program base .run 0 0xFFFFFFFF 2))) (fun d => d.reg 0 7 == 1) = true := by decide +kernel

theorem test_sar_keeps_the_sign : after (exec (.sar 0 5 5 6) (blk (program base .run 0 0x80000000 4))) (fun d => d.reg 0 5 == 0xF8000000) = true := by
  decide +kernel

theorem test_g0_stays_zero : after (exec (.addi 0 0 5 (-1)) (blk (program base .run 0 9 2))) (fun d => d.reg 0 0 == 0 && (d.caller 0).pc == 1) = true := by
  decide +kernel

theorem test_branches_differ_in_sign :
    after (exec (.blt 0 5 6 9) (blk (program base .run 4 0xFFFFFFFF 1))) (fun d => (d.caller 0).pc == 14) = true
      ∧ after (exec (.bltu 0 5 6 9) (blk (program base .run 4 0xFFFFFFFF 1))) (fun d => (d.caller 0).pc == 5) = true := by decide +kernel

theorem test_call_links : after (exec (.call 0 100) (blk (program base .run 4 0 0))) (fun d => d.reg 0 15 == 5 && (d.caller 0).pc == 100) = true := by
  decide +kernel

theorem test_step_takes_the_front :
    (match step { pending := [.nop 0, .ret 0], dev := program base .run 4 0 0 } with
      | .next s => s.pending == [.ret 0] && (s.dev.caller 0).pc == 5
      | _ => false) = true := by decide +kernel

/-- A dark domain answers 0xD0FF_0000 plus its ID (R378): FLD1 reads 0xD0FF_0006. -/
theorem test_dark_answer : darkWord 6 = 0xD0FF0006 := by decide +kernel

/-- R360: 2^((TEMP − 105) / 10) is 4 at 125 °C (the worked example of 14_dependability_longevity.md), 1 at 105 °C, and 2 at 115 °C. -/
theorem test_stress_factor : stressFactor 125 = 4 * 2 ^ 40 ∧ stressFactor 105 = 2 ^ 40 ∧ stressFactor 115 = 2 * 2 ^ 40 := by decide +kernel

end Sys2Proof.Tests
end

section
/-!
The statements of 00_scope.md: steps and meanings, the block after power-on reset, register accesses by their types, and REBASE.
-/

namespace Sys2Proof.Machine

/-! ### Steps and meanings (00_scope.md R1) -/

/-- Settles O1, by the two arms of `step`. -/
theorem stepRunsTheFrontCommand : Obligations.StepRunsTheFrontCommand := fun _ _ _ => ⟨rfl, rfl⟩

/-- Settles O2, command by command: the meaning of each row of the table is an effect on the block, which keeps the queue. -/
theorem everyCommandCompletes : Obligations.EveryCommandCompletes := by
  intro c s
  cases c <;> exact ⟨_, rfl⟩

/-! ### The block after power-on reset (00_scope.md R7) -/

/-- With an empty register store a field reads its reset value, where that fits the field. -/
theorem g_of_regs_nil (d : Dev) (h : d.regs = []) (r : Row) (n : Nat) (hfit : r.resetOf n < 2 ^ r.width) : d.g r n = r.resetOf n := by
  simp only [Dev.g, h, sparseGet]
  exact Nat.mod_eq_of_lt hfit

/-- No segment holds a token after reset. -/
theorem claimed_reset : resetDev.claimed = 0 := by decide

theorem domOn_reset (n : Nat) (h : 1 ≤ n ∧ n ≤ 12 ∨ 16 ≤ n ∧ n < 40) : resetDev.domOn n = true := by
  have all : ∀ n < 40, (1 ≤ n ∧ n ≤ 12 ∨ 16 ≤ n ∧ n < 40) → resetDev.domOn n = true := by decide
  exact all n (by omega) h

theorem busySlots_reset : resetDev.busySlots = 0 := by
  have free : ∀ i, resetDev.slot i = none := fun i => by simp [Dev.slot, vget, resetDev]
  simp [Dev.busySlots, Dev.slotsWhere, free]

theorem reset_canonical : resetDev.Canonical := ⟨rfl, rfl, rfl⟩

/-- Settles O4: every register reads as an empty store gives it, and the rest stands in `resetDev`. -/
theorem resetLeaves : Obligations.ResetLeaves := by
  have reads : ∀ r n, r.resetOf n < 2 ^ r.width → resetDev.g r n = r.resetOf n := g_of_regs_nil resetDev rfl
  exact ⟨rfl, reset_canonical, reads, rfl, reads REEL_STATUS_STATE 0 (by decide), rfl, reads FLD_BUDGET_FREE 0 (by decide),
    claimed_reset, rfl, domOn_reset, rfl, rfl, busySlots_reset, rfl⟩

/-! ### A register access that is performed (R388) -/

theorem settleStreams_noCmd (d : Dev) (h : ∀ c, (d.ctx c).cmd = []) : d.settleStreams = d := by
  have stream : ∀ c n, runStream c n d = d := by
    intro c n
    cases n with
    | zero => rfl
    | succ n => simp only [runStream, h c]
  have each : ∀ l : List Nat, d.each l (fun d c => runStream c ((d.ctx c).cmd.length + 1024) d) = d := by
    intro l
    induction l with
    | nil => rfl
    | cons c l ih => rw [Dev.each, List.foldl_cons, stream]; exact ih
  exact each _

/-- With no word of a command waiting in a stream, a host's access is settled as any other command's work is. -/
theorem settleHost_noCmd (d : Dev) (h : ∀ c, (d.ctx c).cmd = []) : d.settleHost = d.settlePool := by
  rw [Dev.settleHost, settleStreams_noCmd d h]

theorem hostRead_pass (d : Dev) (t a : Nat) (ht : d.tenantPresent t = true) (ha : a < 0x4000) (hj : d.judge t a false = .pass) :
    d.hostRead t a = ⟨(d.touched.readRegister t a).1, 0, (d.touched.readRegister t a).2⟩ := by
  simp only [Dev.hostRead, ht, ha, hj, Dev.readGate]
  rfl

theorem hostStore_admits (d : Dev) (t a : Nat) (w : Word) (h : d.admits t a) (ha : a < 0x4000) :
    (d.hostStore t a w).dev = d.touched.writeRegister t a w := by
  obtain ⟨ht, hj, hacc⟩ := h
  simp only [Dev.hostStore, ht, ha, Dev.judgeWrite, hj, hacc]
  rfl

/-! ### Fields by their types (00_scope.md R5) -/

theorem readRegister_reelRefusals (d : Dev) (t : Nat) (h : assocGet (latchKey t 0x80A) d.host.latches = none) :
    d.readRegister t 0x80A = (BitVec.ofNat 32 (d.g REEL_REFUSALS_COUNT), d.p REEL_REFUSALS_COUNT 0 0) := by
  have fields : fieldsAt 0x80A = [(REEL_REFUSALS_COUNT, 0)] := by decide
  have value : d.fieldValue REEL_REFUSALS_COUNT 0 = (d.g REEL_REFUSALS_COUNT, d) := rfl
  have read : d.readFields 0x80A = (BitVec.ofNat 32 (d.g REEL_REFUSALS_COUNT), d.p REEL_REFUSALS_COUNT 0 0) := by
    simp only [Dev.readFields, fields, List.foldl_cons, List.foldl_nil, readField, value]
    have whole : inField REEL_REFUSALS_COUNT.lo REEL_REFUSALS_COUNT.width (d.g REEL_REFUSALS_COUNT) = d.g REEL_REFUSALS_COUNT := by
      simp only [inField, Nat.mod_eq_of_lt (g_lt d REEL_REFUSALS_COUNT 0)]
      rfl
    rw [whole, Nat.zero_add]
    rfl
  have single : pairOf 0x80A = none := by decide
  simp only [Dev.readRegister, h, single, read]
  rfl

theorem writeField_rw (w : Nat) (d : Dev) (r : Row) (n : Nat) (hty : r.ty = .rw) (hr : r ≠ REEL_CARRY_LIMIT) :
    writeField w d (r, n) = d.p r n (bitsOf w r.lo r.width) := by
  simp only [writeField, hty, if_neg hr]

theorem writeField_reelCarry (w : Nat) (d : Dev) (n : Nat) :
    writeField w d (REEL_CARRY_LIMIT, n) = d.p REEL_CARRY_LIMIT n (max 256 (bitsOf w REEL_CARRY_LIMIT.lo REEL_CARRY_LIMIT.width)) := rfl

theorem writeField_w1c (w : Nat) (d : Dev) (r : Row) (n : Nat) (hty : r.ty = .w1c) :
    writeField w d (r, n) = d.p r n (d.g r n - (d.g r n &&& bitsOf w r.lo r.width)) := by
  have hr : r ≠ REEL_CARRY_LIMIT := by rintro rfl; cases hty
  simp only [writeField, hty, if_neg hr]

theorem writeField_other (w : Nat) (d : Dev) (r : Row) (n : Nat) (hrw : r.ty ≠ .rw) (hw1c : r.ty ≠ .w1c) :
    writeField w d (r, n) = d := by
  simp only [writeField]

theorem writeField_host (w : Nat) (d : Dev) (f : Row × Nat) : (writeField w d f).host = d.host := by
  simp only [writeField]
  split <;> rfl

theorem writeFields_host (d : Dev) (a w : Nat) : (d.writeFields a w).host = d.host := by
  unfold Dev.writeFields
  generalize fieldsAt a = l
  induction l generalizing d with
  | nil => rfl
  | cons f l ih => rw [List.foldl_cons, ih, writeField_host]

/-- A word without an action of its own: its fields take their types' part of the write, and nothing else happens. -/
theorem writeRegister_plain (d : Dev) (t a : Nat) (w : Word)
    (h : 0x900 ≤ a ∧ a < 0x906 ∨ 0x908 ≤ a ∧ a < 0xA00 ∨ 0xD00 ≤ a ∧ a < 0x1100) :
    d.writeRegister t a w = d.writeFields a w.toNat := by
  have field : ∀ e : Dev, e.actField a w.toNat = e := fun e => by simp (disch := omega) only [Dev.actField, if_neg]
  have work : ∀ e : Dev, e.actWork t a w.toNat = e := fun e => by simp (disch := omega) only [Dev.actWork, if_neg]
  have keep : ∀ e : Dev, e.actKeep a w.toNat = e := fun e => by simp (disch := omega) only [Dev.actKeep, if_neg]
  simp (disch := omega) only [Dev.writeRegister, if_neg, field, work, keep]

/-- SYS_RESET resets where GO is written with its key, and does nothing else (R391). -/
theorem writeRegister_sysReset (d : Dev) (t : Nat) (w : Word) :
    d.writeRegister t 2 w = if w.getLsbD 0 = true ∧ w.toNat / 65536 = 0x5253 then d.powerOn else d := by
  have go : w.toNat.testBit 0 = w.getLsbD 0 := rfl
  have key : bitsOf w.toNat 16 16 = w.toNat / 65536 := by
    rw [bitsOf, Nat.shiftRight_eq_div_pow]
    omega
  have word : d.writeRegister t 2 w = d.sysReset w.toNat := rfl
  simp only [word, Dev.sysReset, go, key, Bool.and_eq_true, beq_iff_eq]

/-- A permitted read of REEL_REFUSALS. -/
theorem settles_rcRead_reelRefusals (s : State) (t : Tenant) (ht : s.dev.tenantPresent t = true)
    (hj : s.dev.judge t 0x80A false = .pass) (hl : assocGet (latchKey t 0x80A) s.dev.host.latches = none) :
    Settles (.rcRead t 0x80A) s ((s.dev.touched.p REEL_REFUSALS_COUNT 0 0).putRead t (BitVec.ofNat 32 (s.dev.g REEL_REFUSALS_COUNT))) := by
  have read := hostRead_pass s.dev t 0x80A ht (by decide) hj
  rw [readRegister_reelRefusals s.dev.touched t hl] at read
  have run : exec (.rcRead t 0x80A) s =
      effect s fun d => ((d.hostRead t 0x80A).dev.putRead t (d.hostRead t 0x80A).word).settlePool := rfl
  rw [Settles, Answers, run, effect_next, read]
  rfl

/-- A permitted write of a word without an action of its own. -/
theorem settles_registerWrite_plain (s : State) (t : Tenant) (a : BitVec 16) (w : Word) (hcmd : ∀ c, (s.dev.ctx c).cmd = [])
    (hadm : s.dev.admits t a.toNat)
    (ha : 0x900 ≤ a.toNat ∧ a.toNat < 0x906 ∨ 0x908 ≤ a.toNat ∧ a.toNat < 0xA00 ∨ 0xD00 ≤ a.toNat ∧ a.toNat < 0x1100) :
    Settles (.registerWrite t a w) s (s.dev.touched.writeFields a.toNat w.toNat) := by
  have quiet : ∀ c, ((s.dev.touched.writeFields a.toNat w.toNat).ctx c).cmd = [] := fun c => by
    rw [Dev.ctx, writeFields_host]
    exact hcmd c
  have run : exec (.registerWrite t a w) s = effect s fun d => (d.hostStore t a.toNat w).dev.settleHost := rfl
  rw [Settles, Answers, run, effect_next, hostStore_admits _ _ _ _ hadm (by omega), writeRegister_plain _ _ _ _ ha,
    settleHost_noCmd _ quiet]

/-- A permitted write of SYS_RESET. -/
theorem answers_sysReset (s : State) (t : Tenant) (w : Word) (hadm : s.dev.admits t 2) :
    Answers (.sysReset t w) s
      (if w.getLsbD 0 = true ∧ w.toNat / 65536 = 0x5253 then s.dev.touched.powerOn else s.dev.touched) := by
  have run : exec (.sysReset t w) s = effect s fun d => (d.hostStore t 2 w).dev := rfl
  rw [Answers, run, effect_next, hostStore_admits _ _ _ _ hadm (by decide), writeRegister_sysReset]

/-- Settles O12: the judged access performs the word's action, and the fields of a word without one follow their types. -/
theorem registerAccessesFollowTheirTypes : Obligations.RegisterAccessesFollowTheirTypes := by
  refine ⟨settles_rcRead_reelRefusals, settles_registerWrite_plain, fun d r n w => ?_, fun s t w hadm => ?_⟩
  · exact ⟨writeField_rw w d r n, fun hr => hr ▸ writeField_reelCarry w d n, writeField_w1c w d r n, writeField_other w d r n⟩
  · have reset := answers_sysReset s t w hadm
    constructor
    · intro hgo hkey
      rwa [if_pos ⟨hgo, hkey⟩] at reset
    · intro hno
      have shut : ¬ (w.getLsbD 0 = true ∧ w.toNat / 65536 = 0x5253) := fun ⟨hgo, hkey⟩ =>
        hno.elim (fun h => Bool.false_ne_true (h.symm.trans hgo)) (fun h => h hkey)
      rwa [if_neg shut] at reset

/-! ### REBASE and what LONG_RESULT shows (R360, R373) -/

/-- A permitted REBASE of a coil writes LONG_QUERY, so that LONG_RESULT shows what it names from then on. -/
theorem rebase_notes_query (s : State) (t : Tenant) (idx : BitVec 12) (d : Dev) (hadm : s.dev.admits t 0x1C0A)
    (h : Answers (.rebase t idx) s d) : d.health.queried = true := by
  have run : exec (.rebase t idx) s = effect s fun d => d.hostWrite t 0x1C0A fun d =>
      (((d.p LONG_QUERY_CLASS 0 1).p LONG_QUERY_INDEX 0 idx.toNat).noteQuery).rebaseCoil idx.toNat := rfl
  rw [Answers, run, effect_next, hostWrite_admits _ _ _ _ hadm] at h
  injection h with h
  injection h with _ h
  rw [← h, Dev.rebaseCoil, Dev.when]
  split <;> rfl

/-- A Reel that configures nothing. -/
def bareReel : Reel :=
  { format := 2, signed := false, serial := 0, ringCrc := 0, ring := [], xbar := [], dec := [],
    hub := { periodMs := 100, mask := 0, watch := [], slots := [] }, qmap := [], tenants := [], tapMs := 100, power := [], pins := [] }

/-- The block after reset with that Reel active. -/
def bareBlock : Dev := { resetDev with reel := { resetDev.reel with active := some bareReel } }

theorem bareBlock_admits_longQuery : bareBlock.admits 0 0x1C0A := by unfold Dev.admits; decide

/-- Refutes O56: its clause of REBASE leaves out that the command writes LONG_QUERY (R373). In `bareBlock`, where LONG_QUERY has not
been written, REBASE of coil 0 leaves `health.queried` true, and the statement's block keeps it false. -/
theorem not_keysFusesAndTheLifeCycle : ¬ Obligations.KeysFusesAndTheLifeCycle := by
  intro h
  obtain ⟨-, -, -, -, -, -, -, rebase, -⟩ := h { pending := [], dev := bareBlock } 0 0 0
  have stated := rebase 0 bareBlock_admits_longQuery (by decide) (by decide)
  have queried := rebase_notes_query _ _ _ _ bareBlock_admits_longQuery stated
  exact Bool.false_ne_true queried

end Sys2Proof.Machine
end

section
/-!
The statements of 02_reel.md: what START, a word, ARM and DISARM do to the loader, and what the end of a check and the carry limit
decide.
-/

namespace Sys2Proof.Machine

/-! ### The loader's commands, case by case (02_reel.md R36 to R38, R42, R43) -/

theorem reelDisarm_of_not_armed (d : Dev) (h : d.reelState ≠ reelArmed) : d.reelDisarm = d := by
  simp only [Dev.reelDisarm, if_neg h, ite_self]

section Loader

variable (d : Dev) (boot : d.reel.boot = none)
include boot

theorem reelStart_of_not_armed (h : d.reelState ≠ reelArmed) :
    d.reelStart =
      ((((d.inReel fun r => { r with irq := false }).inReel fun r => { r with bytes := [], total := none, staged := none }).p
        REEL_COUNT_BYTES 0 0).forceStaging).p REEL_STATUS_STATE 0 reelLoading := by
  have state : (d.inReel fun r => { r with irq := false }).reelState ≠ reelArmed := h
  simp only [Dev.reelStart, boot, Option.isSome_none, Bool.false_eq_true, if_false, if_neg state, Dev.putReelState]

theorem reelStart_of_armed (h : d.reelState = reelArmed) :
    d.reelStart = (d.inReel fun r => { r with irq := false }).p REEL_STATUS_SEQ_ERR 0 1 := by
  have state : (d.inReel fun r => { r with irq := false }).reelState = reelArmed := h
  simp only [Dev.reelStart, boot, Option.isSome_none, Bool.false_eq_true, if_false, if_pos state, Dev.reelSeqErr, Dev.set1]

theorem reelArm_of_staged (x : Nat) (any : Bool) (h : d.reelState = reelStaged) (ring : any = true ∨ (d.ringDef x).isSome = true) :
    d.reelArm x any =
      (d.inReel fun r => { r with armed := some (if any then .any else .ring x) }).p REEL_STATUS_STATE 0 reelArmed := by
  have ready : ¬ (d.reelState ≠ reelStaged ∨ (any = false ∧ (d.ringDef x).isNone = true)) := by
    rintro (other | ⟨one, absent⟩)
    · exact other h
    · rcases ring with all | present
      · exact Bool.false_ne_true (one.symm.trans all)
      · rw [Option.isNone_iff_eq_none.mp absent] at present
        cases present
  simp only [Dev.reelArm, boot, Option.isSome_none, Bool.false_eq_true, if_false, if_neg ready, Dev.putReelState]

theorem reelArm_of_not_staged (x : Nat) (any : Bool) (h : d.reelState ≠ reelStaged) :
    d.reelArm x any = d.p REEL_STATUS_SEQ_ERR 0 1 := by
  simp only [Dev.reelArm, boot, Option.isSome_none, Bool.false_eq_true, if_false, if_pos (Or.inl h), Dev.reelSeqErr, Dev.set1]

theorem reelDisarm_of_armed (h : d.reelState = reelArmed) :
    d.reelDisarm = (d.inReel fun r => { r with armed := none }).p REEL_STATUS_STATE 0 reelStaged := by
  simp only [Dev.reelDisarm, boot, Option.isSome_none, Bool.false_eq_true, if_false, if_pos h, Dev.putReelState]

theorem reelWord_of_not_loading (w : Word) (h : d.reelState ≠ reelLoading) : d.reelWord w = d.p REEL_STATUS_SEQ_ERR 0 1 := by
  simp only [Dev.reelWord, boot, Option.isSome_none, Bool.false_eq_true, if_false, if_pos h, Dev.reelSeqErr, Dev.set1]

/-- Past the header, a word is counted, and CHECKING begins with the word that completes TOTAL_LEN (R37). -/
theorem reelWord_past_header (w : Word) (n : Nat) (h : d.reelState = reelLoading) (total : d.reel.total = some n) :
    d.reelWord w =
      let e := (d.inReel fun r => { r with bytes := r.bytes ++ leBytes 4 w.toNat }).p REEL_COUNT_BYTES 0 (d.reel.bytes.length + 4)
      if n = d.reel.bytes.length + 4 then e.p REEL_STATUS_STATE 0 reelChecking else e := by
  have count : (d.reel.bytes ++ leBytes 4 w.toNat).length = d.reel.bytes.length + 4 := List.length_append
  have state : ∀ f k, ((d.inReel f).p REEL_COUNT_BYTES 0 k).reelState = reelLoading := fun f k =>
    (g_p_ne (d.inReel f) REEL_COUNT_BYTES REEL_STATUS_STATE 0 0 k (by decide)).trans h
  simp only [Dev.reelWord, boot, Option.isSome_none, Bool.false_eq_true, if_false, h, ne_eq, not_true_eq_false, inReel_reel, p_reel,
    count, state, total, Option.isNone_some, true_and, Option.some.injEq, Dev.putReelState]

end Loader

/-! ### The loader's commands as a host gives them -/

/-- A command that is a host's write of one word, where that write is performed (R388): its action on the block that the access has
touched. -/
theorem settles_of_hostWrite {c : Instr} {s : State} {t a : Nat} {f : Dev → Dev} (hadm : s.dev.admits t a)
    (run : exec c s = effect s fun d => (d.hostWrite t a f).settlePool) : Settles c s (f s.dev.touched) := by
  rw [Settles, Answers, run, effect_next, hostWrite_admits _ _ _ _ hadm]

theorem settles_start (s : State) (t : Tenant) (hadm : s.dev.admits t 0x800) : Settles (.start t) s s.dev.touched.reelStart :=
  settles_of_hostWrite hadm rfl

theorem settles_arm (s : State) (t : Tenant) (x : Ring) (any : Bool) (hadm : s.dev.admits t 0x800) :
    Settles (.arm t x any) s (s.dev.touched.reelArm x any) :=
  settles_of_hostWrite (f := fun d => d.reelArm x any) hadm rfl

theorem settles_reelData (s : State) (t : Tenant) (w : Word) (hadm : s.dev.admits t 0x810) :
    Settles (.reelData t w) s (s.dev.touched.reelWord w) :=
  settles_of_hostWrite (f := fun d => d.reelWord w) hadm rfl

theorem answers_disarm (s : State) (t : Tenant) (hadm : s.dev.admits t 0x800) : Answers (.disarm t) s s.dev.touched.reelDisarm := by
  have run : exec (.disarm t) s = effect s fun d => d.hostWrite t 0x800 Dev.reelDisarm := rfl
  rw [Answers, run, effect_next, hostWrite_admits _ _ _ _ hadm]

/-- Settles O13: each command is performed on the block that the access has touched, whose loader stands as before, and its loader's
state says which case it is. -/
theorem reelLoaderObeysItsCommands : Obligations.ReelLoaderObeysItsCommands := by
  intro s t noBoot
  have boot : s.dev.touched.reel.boot = none := noBoot
  refine ⟨fun hadm => ⟨fun st => ?_, fun st => ?_, fun x any st ring => ?_, fun x any st => ?_, fun st => ?_, fun st => ?_⟩,
    fun hadm w n => ⟨fun st => ?_, fun st total more => ?_, fun st total => ?_⟩⟩
  · exact reelStart_of_not_armed _ boot st ▸ settles_start s t hadm
  · exact reelStart_of_armed _ boot st ▸ settles_start s t hadm
  · exact reelArm_of_staged _ boot x any st ring ▸ settles_arm s t x any hadm
  · exact reelArm_of_not_staged _ boot x any st ▸ settles_arm s t x any hadm
  · exact reelDisarm_of_armed _ boot st ▸ answers_disarm s t hadm
  · have disarmed := answers_disarm s t hadm
    rwa [reelDisarm_of_not_armed s.dev.touched st] at disarmed
  · exact reelWord_of_not_loading _ boot w st ▸ settles_reelData s t w hadm
  · have word := reelWord_past_header s.dev.touched boot w n st total
    exact (word.trans (if_neg more)) ▸ settles_reelData s t w hadm
  · have word := reelWord_past_header s.dev.touched boot w _ st total
    exact (word.trans (if_pos rfl)) ▸ settles_reelData s t w hadm

/-! ### The end of a check (02_reel.md R37, R39, R42) -/

theorem settles_reelCheckDone (s : State) : Settles .reelCheckDone s s.dev.checkDone := rfl

/-- A verdict recorded changes nothing of whether a Reel is active. -/
theorem reelOn_verdict (d : Dev) (e : ReelErr) (n : Nat) :
    (((d.reelVerdict e).p REEL_STAGED_SERIAL_SERIAL 0 n).inReel fun x => { x with irq := true }).reelOn = d.reelOn := rfl

section CheckDone

variable (d : Dev) (checking : d.reelState = reelChecking)
include checking

theorem checkDone_of_refused (e : ReelErr) (h : checkReel d.reelFuses d.reel.active d.reel.bytes = .error e) :
    d.checkDone = d.refuseReel e := by
  simp only [Dev.checkDone, checking, ne_eq, not_true_eq_false, if_false, h]

theorem checkDone_of_passed_active (r : Reel) (active : d.reelOn = true)
    (h : checkReel d.reelFuses d.reel.active d.reel.bytes = .ok r) :
    d.checkDone =
      (((d.reelVerdict ⟨0, 0, 0⟩).p REEL_STAGED_SERIAL_SERIAL 0 r.serial).inReel fun x => { x with irq := true, staged := some r }).p
        REEL_STATUS_STATE 0 reelStaged := by
  simp only [Dev.checkDone, checking, ne_eq, not_true_eq_false, if_false, h, reelOn_verdict, active, if_true]
  rfl

theorem checkDone_of_passed_first (r : Reel) (first : d.reel.active = none)
    (h : checkReel d.reelFuses none d.reel.bytes = .ok r) :
    d.checkDone =
      ((((d.reelVerdict ⟨0, 0, 0⟩).p REEL_STAGED_SERIAL_SERIAL 0 r.serial).inReel fun x => { x with irq := true }).p
        REEL_STATUS_STATE 0 reelEmpty).applyReel none r false := by
  have inactive : d.reelOn = false := congrArg Option.isSome first
  simp only [Dev.checkDone, checking, ne_eq, not_true_eq_false, if_false, first, h, reelOn_verdict, inactive, Bool.false_eq_true,
    Dev.putReelState]

end CheckDone

/-! ### A boot image (02_reel.md R40) -/

theorem settles_flashBootImageRead (s : State) (image : List Byte) :
    Settles (.flashBootImageRead image) s (s.dev.bootImage image) := rfl

theorem bootImage_of_refused_primary (d : Dev) (image : List Byte) (n : Nat) (e : ReelErr) (primary : d.reel.boot = some false)
    (h : checkFlash d.reelFuses image = (n, .error e)) :
    d.bootImage image =
      (((d.p REEL_COUNT_BYTES 0 n).noteRefusal e).p REEL_BOOT_ALT_TRIED 0 1).inReel fun x => { x with boot := some true } := by
  simp only [Dev.bootImage, primary, h, Bool.false_eq_true, if_false, Dev.set1]

theorem bootImage_of_refused_alternate (d : Dev) (image : List Byte) (n : Nat) (e : ReelErr) (alternate : d.reel.boot = some true)
    (h : checkFlash d.reelFuses image = (n, .error e)) :
    d.bootImage image = ((d.p REEL_COUNT_BYTES 0 n).inReel fun x => { x with boot := none }).refuseReel e := by
  simp only [Dev.bootImage, alternate, h, if_true]

theorem bootImage_of_passed (d : Dev) (image : List Byte) (n : Nat) (r : Reel) (alt : Bool) (boot : d.reel.boot = some alt)
    (h : checkFlash d.reelFuses image = (n, .ok r)) :
    d.bootImage image =
      ((((((d.p REEL_COUNT_BYTES 0 n).reelVerdict ⟨0, 0, 0⟩).p REEL_STAGED_SERIAL_SERIAL 0 r.serial).inReel fun x =>
        { x with boot := none }).pf REEL_BOOT_ALT_USED 0 alt).p REEL_STATUS_STATE 0 reelEmpty).applyReel none r true := by
  simp only [Dev.bootImage, boot, h, Dev.putReelState]

/-! ### What a refusal leaves in the registers (02_reel.md R37, R41) -/

section Refusal

variable (e : ReelErr) (d : Dev) (rising : regsRising 0 d.regs = true)

/-- Beside what the verdict writes, a refusal writes the count and the loader's state alone. -/
theorem refuseReel_g_ne (r : Row) (state : r.key 0 ≠ REEL_STATUS_STATE.key 0) (count : r.key 0 ≠ REEL_REFUSALS_COUNT.key 0) :
    (d.refuseReel e).g r = (d.reelVerdict e).g r :=
  (g_p_ne (d.noteRefusal e) _ r 0 0 _ state).trans (g_p_ne (d.reelVerdict e) _ r 0 0 _ count)

theorem reelVerdict_g_ne (r : Row) (err : r.key 0 ≠ REEL_STATUS_ERR.key 0) (sec : r.key 0 ≠ REEL_STATUS_ERR_SEC.key 0)
    (off : r.key 0 ≠ REEL_ERR_OFFSET_OFFSET.key 0) : (d.reelVerdict e).g r = d.g r :=
  (g_p_ne _ _ r 0 0 _ off).trans ((g_p_ne _ _ r 0 0 _ sec).trans (g_p_ne d _ r 0 0 _ err))

include rising

theorem reelVerdict_rising : regsRising 0 (d.reelVerdict e).regs = true := p_rising _ _ _ _ (p_rising _ _ _ _ (p_rising _ _ _ _ rising))

theorem refuseReel_state : (d.refuseReel e).reelState = reelRefused :=
  g_p_same (d.noteRefusal e) REEL_STATUS_STATE 0 reelRefused (p_rising _ _ _ _ (reelVerdict_rising e d rising))

theorem refuseReel_count : (d.refuseReel e).g REEL_REFUSALS_COUNT = min (d.g REEL_REFUSALS_COUNT + 1) 0xFFFF := by
  calc (d.refuseReel e).g REEL_REFUSALS_COUNT
      = (d.noteRefusal e).g REEL_REFUSALS_COUNT := g_p_ne (d.noteRefusal e) _ _ 0 0 _ (by decide)
    _ = min ((d.reelVerdict e).g REEL_REFUSALS_COUNT + 1) 0xFFFF % 2 ^ 16 :=
        g_p_same (d.reelVerdict e) REEL_REFUSALS_COUNT 0 _ (reelVerdict_rising e d rising)
    _ = min (d.g REEL_REFUSALS_COUNT + 1) 0xFFFF := by
        rw [reelVerdict_g_ne e d _ (by decide) (by decide) (by decide)]
        omega

theorem refuseReel_err (h : e.code < 256) : (d.refuseReel e).g REEL_STATUS_ERR = e.code := by
  calc (d.refuseReel e).g REEL_STATUS_ERR
      = (d.reelVerdict e).g REEL_STATUS_ERR := refuseReel_g_ne e d _ (by decide) (by decide)
    _ = (d.p REEL_STATUS_ERR 0 e.code).g REEL_STATUS_ERR :=
        (g_p_ne _ REEL_ERR_OFFSET_OFFSET _ 0 0 _ (by decide)).trans (g_p_ne _ REEL_STATUS_ERR_SEC _ 0 0 _ (by decide))
    _ = e.code % 2 ^ 8 := g_p_same d REEL_STATUS_ERR 0 _ rising
    _ = e.code := Nat.mod_eq_of_lt h

theorem refuseReel_errSec (h : e.sec < 256) : (d.refuseReel e).g REEL_STATUS_ERR_SEC = e.sec := by
  calc (d.refuseReel e).g REEL_STATUS_ERR_SEC
      = (d.reelVerdict e).g REEL_STATUS_ERR_SEC := refuseReel_g_ne e d _ (by decide) (by decide)
    _ = ((d.p REEL_STATUS_ERR 0 e.code).p REEL_STATUS_ERR_SEC 0 e.sec).g REEL_STATUS_ERR_SEC :=
        g_p_ne _ REEL_ERR_OFFSET_OFFSET _ 0 0 _ (by decide)
    _ = e.sec % 2 ^ 8 := g_p_same _ REEL_STATUS_ERR_SEC 0 _ (p_rising _ _ _ _ rising)
    _ = e.sec := Nat.mod_eq_of_lt h

theorem refuseReel_errOffset (h : e.off < 2 ^ 19) : (d.refuseReel e).g REEL_ERR_OFFSET_OFFSET = e.off := by
  calc (d.refuseReel e).g REEL_ERR_OFFSET_OFFSET
      = (d.reelVerdict e).g REEL_ERR_OFFSET_OFFSET := refuseReel_g_ne e d _ (by decide) (by decide)
    _ = e.off % 2 ^ 19 := g_p_same _ REEL_ERR_OFFSET_OFFSET 0 _ (p_rising _ _ _ _ (p_rising _ _ _ _ rising))
    _ = e.off := Nat.mod_eq_of_lt h

end Refusal

/-! ### A slot that is given up (02_reel.md R44, 08_figures_callers.md R214) -/

theorem each_fig {α : Type} (l : List α) (f : Dev → α → Dev) (h : ∀ d x, (f d x).fig = d.fig) (d : Dev) : (d.each l f).fig = d.fig := by
  induction l generalizing d with
  | nil => rfl
  | cons x l ih => exact (ih (f d x)).trans (h d x)

@[simp] theorem wws_fig (d : Dev) (w : Nat) (vs : List Nat) : (d.wws w vs).fig = d.fig :=
  each_fig vs.zipIdx (fun d p => d.ww (w + p.2) p.1) (fun d p => ww_fig d (w + p.2) p.1) d

@[simp] theorem freeEntry_fig (d : Dev) (i : Nat) : (d.freeEntry i).fig = d.fig := wws_fig _ _ _

@[simp] theorem retireNow_fig (d : Dev) (i : Nat) : (d.retireNow i).fig = d.fig := ww_fig _ _ _

@[simp] theorem settleHeld_fig (d : Dev) : d.settleHeld.fig = d.fig := by
  refine each_fig _ _ (fun d h => ?_) _
  split
  · exact freeEntry_fig d h.1
  · exact retireNow_fig d h.1

@[simp] theorem settleCarry_fig (d : Dev) : d.settleCarry.fig = d.fig := by
  rw [Dev.settleCarry]
  split <;> rfl

/-- The slot that its owner leaves is free. -/
theorem freeSlot_slot (d : Dev) (i : Nat) (h : i < 256) : (d.freeSlot i).slot i = none := by
  rw [Dev.freeSlot, Dev.slot, settleHeld_fig, settleCarry_fig]
  exact vget_vupdN_same _ i (fun _ => none) none h

/-! ### The carry limit (02_reel.md R44) -/

theorem settles_carryAbort (s : State) (i : SlotId) : Settles (.carryAbort i) s (s.dev.abortCarried i) := rfl

theorem abortCarried_before_limit (d : Dev) (i : Nat) (h : d.now < d.carryEnd.getD (d.now + 1)) : d.abortCarried i = d := by
  cases limit : d.carryEnd with
  | none => simp only [Dev.abortCarried, limit, Bool.not_false, Bool.true_or, if_true]
  | some t =>
    rw [limit, Option.getD_some] at h
    simp only [Dev.abortCarried, limit, decide_eq_false (Nat.not_le.mpr h), Bool.not_false, Bool.true_or, if_true]

/-- At the limit, what a carried operation holds is given up, then its slot, and then the abort is counted and flagged. -/
theorem abortCarried_at_limit (d : Dev) (i t : Nat) (x : Slot) (limit : d.carryEnd = some t) (h : t ≤ d.now) (slot : d.slot i = some x)
    (carried : x.carried = true) :
    ∃ e : Dev, d.abortCarried i = ((e.freeSlot i).bump REEL_CARRIED_ABORTED).set1 REEL_STATUS_CARRY_ABORT := by
  simp only [Dev.abortCarried, limit, decide_eq_true h, slot, Option.map_some, Option.getD_some, carried, Bool.not_true, Bool.or_self,
    Bool.false_eq_true, if_false]
  exact ⟨_, rfl⟩

/-- A flag that is 0 at reset reads set once it is set. -/
theorem flag_set1 (d : Dev) (r : Row) (n : Nat) (width : 1 % 2 ^ r.width = 1) (reset : r.resetOf n = 0) : (d.set1 r n).flag r n = true := by
  have read : (d.set1 r n).g r n = 1 := (g_p_other d r n 1 (by omega)).trans width
  rw [Dev.flag, read]
  rfl

/-- Settles O14: each command's meaning is one of the cases above, by the verdict, the image read or the time. -/
theorem reelChecksDecide : Obligations.ReelChecksDecide := by
  intro s
  refine ⟨fun e st bad => ?_, fun r st active good => ?_, fun r st first good => ?_, fun image n e primary bad => ?_,
    fun image n e alternate bad => ?_, fun image n r alt boot good => ?_, fun e d rising code sec off => ?_, fun i early => ?_,
    fun i x t limit late slot carried => ?_⟩
  · exact checkDone_of_refused _ st e bad ▸ settles_reelCheckDone s
  · exact checkDone_of_passed_active _ st r active good ▸ settles_reelCheckDone s
  · exact checkDone_of_passed_first _ st r first good ▸ settles_reelCheckDone s
  · exact bootImage_of_refused_primary _ image n e primary bad ▸ settles_flashBootImageRead s image
  · exact bootImage_of_refused_alternate _ image n e alternate bad ▸ settles_flashBootImageRead s image
  · exact bootImage_of_passed _ image n r alt boot good ▸ settles_flashBootImageRead s image
  · exact ⟨refuseReel_state e d rising, refuseReel_err e d rising code, refuseReel_errSec e d rising sec,
      refuseReel_errOffset e d rising off, refuseReel_count e d rising, rfl, rfl⟩
  · have kept := settles_carryAbort s i
    rwa [abortCarried_before_limit _ _ early] at kept
  · obtain ⟨e, aborted⟩ := abortCarried_at_limit s.dev i t x limit late slot carried
    refine ⟨_, settles_carryAbort s i, ?_, ?_⟩ <;> rw [aborted]
    · exact freeSlot_slot e i i.isLt
    · exact flag_set1 _ REEL_STATUS_CARRY_ABORT 0 (by decide) (by decide)

end Sys2Proof.Machine
end

section
/-!
The laws of a segment's operations (03_field_segments.md): what each leaves in the segment's record and registers, and what it leaves as
it was.
-/

namespace Sys2Proof.Machine

/-! ### Where a field of a segment stands -/

/-- The place of a field in the 32 words of a segment, and of a field of the FLD words in those of segment 0. -/
def Row.seat (r : Row) : Nat := r.key 0 % 1024

/-- A field of the segments' own words. -/
def Row.ofSegment (r : Row) : Bool := 0xA00 ≤ r.base && r.base < 0xA20 && r.stride == 32 && r.lo < 32

theorem key_of_segment (r : Row) (n : Nat) (hr : r.ofSegment = true) : r.key n = r.key 0 + 1024 * n := by
  simp only [Row.ofSegment, Bool.and_eq_true, decide_eq_true_eq, beq_iff_eq] at hr
  obtain ⟨⟨-, stride⟩, -⟩ := hr
  simp only [Row.key, stride]
  omega

theorem seat_of_segment (r : Row) (n : Nat) (hr : r.ofSegment = true) : r.key n % 1024 = r.seat := by
  rw [key_of_segment r n hr, Row.seat, Nat.add_mul_mod_self_left]

/-- Records and requests do not reach the segments' words. -/
theorem asideWord_segment (r : Row) (n : Nat) (hr : r.ofSegment = true) (hn : n < 24) : asideWord (r.key n / 32) = false := by
  have place := key_of_segment r n hr
  simp only [Row.ofSegment, Bool.and_eq_true, decide_eq_true_eq, beq_iff_eq] at hr
  obtain ⟨⟨⟨low, high⟩, -⟩, bit⟩ := hr
  have first : r.key 0 = r.base * 32 + r.lo := by simp only [Row.key, Nat.mul_zero, Nat.add_zero]
  have word : 0xA00 ≤ r.key n / 32 ∧ r.key n / 32 < 0xD00 := by omega
  simp only [asideWord, Bool.or_eq_false_iff, Bool.and_eq_false_iff, decide_eq_false_iff_not, beq_eq_false_iff_ne]
  omega

theorem g_eq_of_look (d e : Dev) (r : Row) (n : Nat) (h : e.look (r.key n) = d.look (r.key n)) : e.g r n = d.g r n := by
  have found : ∀ (k dflt : Nat) (l : List (Nat × Nat)), sparseGet dflt k l = ((l.find? fun p => p.1 == k).map (·.2)).getD dflt := by
    intro k dflt l
    induction l with
    | nil => rfl
    | cons p l ih =>
      obtain ⟨j, u⟩ := p
      by_cases here : k = j
      · simp [sparseGet, here]
      · have other : ¬ j = k := fun e => here e.symm
        simp [sparseGet, here, other, ih]
  simp only [Dev.g, found]
  exact congrArg (fun v => v.getD (r.resetOf n) % 2 ^ r.width) h

/-! ### What the work of the field leaves as it was -/

/-- Between `d` and `e` the field has worked: of the registers only the fields `rows` have changed, in whichever segments, and those that
records and requests change; of the rest only the segments, the claims, the frames on the air, the health records and the counter of free
values. -/
structure Dev.FieldWork (rows : List Row) (d e : Dev) : Prop where
  parts : e = { d with regs := e.regs, sram := e.sram, freeCtr := e.freeCtr, fld := e.fld, air := e.air, que := e.que, host := e.host,
                       health := e.health }
  rebase : e.health.rebase = d.health.rebase
  rising : regsRising 0 d.regs = true → regsRising 0 e.regs = true
  regs : ∀ k, asideWord (k / 32) = false → k % 1024 ∉ rows.map Row.seat → e.look k = d.look k

namespace Dev.FieldWork

variable {rows rows' : List Row} {d e f : Dev}

theorem refl (rows : List Row) (d : Dev) : FieldWork rows d d := ⟨rfl, rfl, id, fun _ _ _ => rfl⟩

theorem trans (h : FieldWork rows d e) (k : FieldWork rows e f) : FieldWork rows d f where
  parts := by rw [k.parts, h.parts]
  rebase := k.rebase.trans h.rebase
  rising := fun x => k.rising (h.rising x)
  regs := fun i aside seat => (k.regs i aside seat).trans (h.regs i aside seat)

theorem mono (h : FieldWork rows d e) (sub : ∀ r ∈ rows, r ∈ rows') : FieldWork rows' d e where
  parts := h.parts
  rebase := h.rebase
  rising := h.rising
  regs := fun k aside seat => h.regs k aside fun within => seat (by
    obtain ⟨r, hr, place⟩ := List.mem_map.mp within
    exact List.mem_map.mpr ⟨r, sub r hr, place⟩)

theorem p (h : FieldWork rows d e) (r : Row) (n v : Nat) (seat : r.key n % 1024 ∈ rows.map Row.seat) : FieldWork rows d (e.p r n v) :=
  h.trans ⟨rfl, rfl, p_rising e r n v, fun k _ other => look_p_ne e r n v k (by rintro rfl; exact other seat)⟩

theorem inFld (h : FieldWork rows d e) (u : FieldState → FieldState) : FieldWork rows d (e.inFld u) :=
  h.trans ⟨rfl, rfl, id, fun _ _ _ => rfl⟩

theorem putSeg (h : FieldWork rows d e) (n : Nat) (u : SegState → SegState) : FieldWork rows d (e.putSeg n u) := h.inFld _

theorem when (h : FieldWork rows d e) (b : Bool) (u : Dev → Dev) (k : FieldWork rows e (u e)) : FieldWork rows d (e.when b u) := by
  cases b
  · exact h
  · exact h.trans k

theorem each {α : Type} (l : List α) (u : Dev → α → Dev) (h : ∀ (d : Dev) x, x ∈ l → FieldWork rows d (u d x)) (d : Dev) :
    FieldWork rows d (d.each l u) := by
  induction l generalizing d with
  | nil => exact .refl rows d
  | cons a l ih => exact (h d a List.mem_cons_self).trans (ih (fun d x hx => h d x (List.mem_cons_of_mem a hx)) (u d a))

theorem inHealth (h : FieldWork rows d e) (u : Health → Health) (same : ∀ x, (u x).rebase = x.rebase) : FieldWork rows d (e.inHealth u) :=
  h.trans ⟨rfl, same _, id, fun _ _ _ => rfl⟩

/-- Health records are raised. -/
theorem raise (h : FieldWork rows d e) (code elem a0 a1 : Nat) : FieldWork rows d (e.raise code elem a0 a1) := by
  have aside := aside_raise e code elem a0 a1
  exact h.trans ⟨by rw [aside.parts], by rw [aside.health], aside.rising, fun k word _ => aside.regs k word⟩

/-- A field that the work does not write reads as before. -/
theorem g (h : FieldWork rows d e) (r : Row) (n : Nat) (aside : asideWord (r.key n / 32) = false)
    (seat : r.key n % 1024 ∉ rows.map Row.seat) : e.g r n = d.g r n := g_eq_of_look d e r n (h.regs _ aside seat)

theorem segReg (h : FieldWork rows d e) (r : Row) (n : Nat) (hr : r.ofSegment = true) (hn : n < 24) (seat : r.seat ∉ rows.map Row.seat) :
    e.g r n = d.g r n := h.g r n (asideWord_segment r n hr hn) (by rwa [seat_of_segment r n hr])

theorem segP (h : FieldWork rows d e) (r : Row) (n v : Nat) (hr : r.ofSegment = true) (row : r ∈ rows) : FieldWork rows d (e.p r n v) :=
  h.p r n v (by rw [seat_of_segment r n hr]; exact List.mem_map_of_mem row)

theorem fig (h : FieldWork rows d e) : e.fig = d.fig := by rw [h.parts]
theorem cen (h : FieldWork rows d e) : e.cen = d.cen := by rw [h.parts]
theorem tap (h : FieldWork rows d e) : e.tap = d.tap := by rw [h.parts]
theorem fuses (h : FieldWork rows d e) : e.fuses = d.fuses := by rw [h.parts]
theorem reel (h : FieldWork rows d e) : e.reel = d.reel := by rw [h.parts]

end Dev.FieldWork

open Dev (FieldWork)

/-! ### Two fields of the segments -/

theorem g_p_seat_ne (d : Dev) (r r' : Row) (n m v : Nat) (h : r'.key m % 1024 ≠ r.key n % 1024) : (d.p r n v).g r' m = d.g r' m :=
  g_p_ne d r r' n m v fun same => h (by rw [same])

theorem g_p_row_ne (d : Dev) (r r' : Row) (n m v : Nat) (hr : r.ofSegment = true) (hr' : r'.ofSegment = true) (h : r'.seat ≠ r.seat) :
    (d.p r n v).g r' m = d.g r' m :=
  g_p_seat_ne d r r' n m v (by rwa [seat_of_segment r n hr, seat_of_segment r' m hr'])

theorem g_p_copy_ne (d : Dev) (r : Row) (n m v : Nat) (hr : r.ofSegment = true) (h : m ≠ n) : (d.p r n v).g r m = d.g r m := by
  refine g_p_ne d r r n m v ?_
  rw [key_of_segment r m hr, key_of_segment r n hr]
  omega

theorem segState_putSegState_ne (d : Dev) (n m v : Nat) (h : m ≠ n) : (d.putSegState n v).segState m = d.segState m :=
  g_p_copy_ne d SEG_STATUS_STATE n m v rfl h

/-- A state other than IDLE is read back from any store. -/
theorem segState_putSegState (d : Dev) (n v : Nat) (h : v < 16) (busy : v ≠ segIdle) : (d.putSegState n v).segState n = v := by
  have fits : v % 2 ^ SEG_STATUS_STATE.width = v := Nat.mod_eq_of_lt h
  have reset : SEG_STATUS_STATE.resetOf n = segIdle := by simp [Row.resetOf, SEG_STATUS_STATE]
  exact (g_p_other d SEG_STATUS_STATE n v (by rwa [fits, reset])).trans fits

theorem segState_putSegState_rising (d : Dev) (n v : Nat) (h : v < 16) (rising : regsRising 0 d.regs = true) :
    (d.putSegState n v).segState n = v := (g_p_same d SEG_STATUS_STATE n v rising).trans (Nat.mod_eq_of_lt h)

/-! ### The segments' records -/

theorem seg_putSeg (d : Dev) (n : Nat) (f : SegState → SegState) (h : n < 24) : (d.putSeg n f).seg n = f (d.seg n) :=
  vget_vupdN_same _ _ _ _ h

theorem seg_putSeg_ne (d : Dev) (n m : Nat) (f : SegState → SegState) (h : m ≠ n) : (d.putSeg n f).seg m = d.seg m :=
  vget_vupdN_ne _ _ _ _ _ h.symm

@[simp] theorem seg_p (d : Dev) (r : Row) (n v m : Nat) : (d.p r n v).seg m = d.seg m := rfl

@[simp] theorem putSeg_g (d : Dev) (n : Nat) (f : SegState → SegState) (r : Row) (m : Nat) : (d.putSeg n f).g r m = d.g r m := rfl

theorem seg_eq_of_fld {d e : Dev} (h : e.fld = d.fld) (m : Nat) : e.seg m = d.seg m := by rw [Dev.seg, h]; rfl

/-- What no step over a list changes is as it was. -/
theorem each_eq {α β : Type} (π : Dev → β) (l : List α) (f : Dev → α → Dev) (h : ∀ d x, x ∈ l → π (f d x) = π d) (d : Dev) :
    π (d.each l f) = π d := by
  induction l generalizing d with
  | nil => rfl
  | cons x l ih => exact (ih (fun d y hy => h d y (List.mem_cons_of_mem x hy)) (f d x)).trans (h d x List.mem_cons_self)

/-! ### Windows (R73, R74) -/

/-- The fields that show a segment's effective window. -/
def windowRows : List Row :=
  [SEG_WIN_START_FRACTION, SEG_WIN_END_FRACTION, SEG_FILL_FILL_PRED, SEG_FILL_FILL_SUCC, SEG_STATUS_FILLING]

theorem fieldWork_setWindow (d : Dev) (n : Nat) : FieldWork windowRows d (d.setWindow n) :=
  (((((FieldWork.refl _ d).segP SEG_WIN_START_FRACTION n _ rfl (by decide)).segP SEG_WIN_END_FRACTION n _ rfl (by decide)).segP
    SEG_FILL_FILL_PRED n _ rfl (by decide)).segP SEG_FILL_FILL_SUCC n _ rfl (by decide)).segP SEG_STATUS_FILLING n _ rfl (by decide)

theorem fieldWork_setAllWindows (d : Dev) : FieldWork windowRows d d.setAllWindows :=
  FieldWork.each _ _ (fun d n _ => fieldWork_setWindow d n) d

theorem setWindow_fld (d : Dev) (n : Nat) : (d.setWindow n).fld = d.fld := rfl

@[simp] theorem setAllWindows_fld (d : Dev) : d.setAllWindows.fld = d.fld :=
  each_eq Dev.fld (List.range 24) Dev.setWindow (fun d n _ => setWindow_fld d n) d

/-! ### The end of a DRIVE interval (R71) -/

/-- The fields of the measurement. -/
def measureRows : List Row := [SEG_MEAS_IMAG, SEG_MEAS_IPH]

theorem endDrive_fld (d : Dev) (n : Nat) : (d.endDrive n).fld = (d.putSeg n fun x => { x with driveCycles := 0 }).fld := by
  rw [Dev.endDrive]
  split <;> rfl

theorem fieldWork_endDrive (d : Dev) (n : Nat) : FieldWork measureRows d (d.endDrive n) := by
  rw [Dev.endDrive]
  split
  · exact (FieldWork.refl _ d).putSeg n _
  · have drawn : FieldWork measureRows d d.freeVal.2.freeVal.2 := ⟨rfl, rfl, id, fun _ _ _ => rfl⟩
    have measured := (drawn.segP SEG_MEAS_IMAG n d.freeVal.1 rfl (by decide)).segP SEG_MEAS_IPH n d.freeVal.2.freeVal.1 rfl (by decide)
    refine FieldWork.putSeg (FieldWork.inHealth measured _ ?_) n _
    exact fun _ => rfl

theorem seg_endDrive (d : Dev) (n : Nat) (h : n < 24) : (d.endDrive n).seg n = { d.seg n with driveCycles := 0 } :=
  (seg_eq_of_fld (endDrive_fld d n) n).trans (seg_putSeg d n _ h)

theorem seg_endDrive_ne (d : Dev) (n m : Nat) (h : m ≠ n) : (d.endDrive n).seg m = d.seg m :=
  (seg_eq_of_fld (endDrive_fld d n) m).trans (seg_putSeg_ne d n m _ h)

/-! ### The return of tokens (R68, R69) -/

theorem returnTokens_fld (d : Dev) (n : Nat) : (d.returnTokens n).fld = (d.putSeg n fun x => { x with owner := none }).fld := by
  simp only [Dev.returnTokens, Dev.when]
  split
  · exact setAllWindows_fld _
  · rfl

/-- The fields that a return of tokens writes. -/
def returnRows : List Row := FLD_BUDGET_FREE :: SEG_STATUS_HELD :: windowRows

/-- Beyond FREE and HELD, a return of tokens changes the record, and the windows where a carried operation held the segment (R44). -/
theorem fieldWork_returnTokens_windows (d : Dev) (n : Nat) :
    FieldWork windowRows ((d.p FLD_BUDGET_FREE 0 (d.g FLD_BUDGET_FREE + d.held n)).p SEG_STATUS_HELD n 0) (d.returnTokens n) :=
  ((FieldWork.refl _ _).putSeg n _).when _ _ (fieldWork_setAllWindows _)

theorem fieldWork_returnTokens (d : Dev) (n : Nat) : FieldWork returnRows d (d.returnTokens n) :=
  (((FieldWork.refl _ d).p FLD_BUDGET_FREE 0 _ (by decide)).segP SEG_STATUS_HELD n 0 rfl (by decide)).trans
    ((fieldWork_returnTokens_windows d n).mono (by decide))

theorem free_returnTokens (d : Dev) (n : Nat) (rising : regsRising 0 d.regs = true) (room : d.g FLD_BUDGET_FREE + d.held n < 1024) :
    (d.returnTokens n).g FLD_BUDGET_FREE = d.g FLD_BUDGET_FREE + d.held n := by
  calc (d.returnTokens n).g FLD_BUDGET_FREE
      = ((d.p FLD_BUDGET_FREE 0 (d.g FLD_BUDGET_FREE + d.held n)).p SEG_STATUS_HELD n 0).g FLD_BUDGET_FREE :=
        (fieldWork_returnTokens_windows d n).g FLD_BUDGET_FREE 0 (by decide) (by decide)
    _ = (d.p FLD_BUDGET_FREE 0 (d.g FLD_BUDGET_FREE + d.held n)).g FLD_BUDGET_FREE :=
        g_p_seat_ne _ _ _ n 0 0 (by rw [seat_of_segment SEG_STATUS_HELD n rfl]; decide)
    _ = (d.g FLD_BUDGET_FREE + d.held n) % 2 ^ 10 := g_p_same d FLD_BUDGET_FREE 0 _ rising
    _ = d.g FLD_BUDGET_FREE + d.held n := Nat.mod_eq_of_lt room

theorem held_returnTokens (d : Dev) (n : Nat) (h : n < 24) (rising : regsRising 0 d.regs = true) : (d.returnTokens n).held n = 0 :=
  ((fieldWork_returnTokens_windows d n).segReg SEG_STATUS_HELD n rfl h (by decide)).trans
    (g_p_same _ SEG_STATUS_HELD n 0 (p_rising d FLD_BUDGET_FREE 0 _ rising))

theorem held_returnTokens_ne (d : Dev) (n m : Nat) (hm : m < 24) (h : m ≠ n) : (d.returnTokens n).held m = d.held m := by
  calc (d.returnTokens n).held m
      = ((d.p FLD_BUDGET_FREE 0 (d.g FLD_BUDGET_FREE + d.held n)).p SEG_STATUS_HELD n 0).held m :=
        (fieldWork_returnTokens_windows d n).segReg SEG_STATUS_HELD m rfl hm (by decide)
    _ = (d.p FLD_BUDGET_FREE 0 (d.g FLD_BUDGET_FREE + d.held n)).held m := g_p_copy_ne _ SEG_STATUS_HELD n m 0 rfl h
    _ = d.held m := g_p_seat_ne d _ SEG_STATUS_HELD 0 m _ (by rw [seat_of_segment SEG_STATUS_HELD m rfl]; decide)

/-! ### A segment at 0 -/

/-- The fields that a segment's fall to 0 writes. -/
def zeroRows : List Row := SEG_AMP_TARGET :: SEG_STATUS_STATE :: (measureRows ++ returnRows)

/-- A segment's record at 0: what a level leaves there is gone. -/
def SegState.zeroed (x : SegState) : SegState :=
  { x with owner := none, want := 0, level := 0, clamped := false, ramp := none, partner := none, ext := 0, phase := none, tag := none,
           driveCycles := 0 }

/-- The return of a segment's tokens as its DRIVE interval ends: all of its way to 0 but for its record, its target and its state. -/
theorem fieldWork_endDrive_returnTokens (d : Dev) (n : Nat) :
    FieldWork (measureRows ++ returnRows) d (((d.endDrive n).returnTokens n).leaveFrames n) := by
  have driven : FieldWork (measureRows ++ returnRows) d (d.endDrive n) := (fieldWork_endDrive d n).mono (by decide)
  have returned : FieldWork (measureRows ++ returnRows) (d.endDrive n) ((d.endDrive n).returnTokens n) :=
    (fieldWork_returnTokens _ n).mono (by decide)
  exact (driven.trans returned).trans ⟨rfl, rfl, id, fun _ _ _ => rfl⟩

theorem fieldWork_segToZero (d : Dev) (n : Nat) : FieldWork zeroRows d (d.segToZero n) :=
  ((((fieldWork_endDrive_returnTokens d n).mono (by decide)).putSeg n _).segP SEG_AMP_TARGET n 0 rfl (by decide)).segP
    SEG_STATUS_STATE n _ rfl (by decide)

theorem segToZero_fld (d : Dev) (n : Nat) :
    (d.segToZero n).fld = (((d.endDrive n).returnTokens n).putSeg n fun x =>
      { x with want := 0, level := 0, clamped := false, ramp := none, partner := none, ext := 0, phase := none, tag := none,
               driveCycles := 0 }).fld := rfl

theorem seg_segToZero (d : Dev) (n : Nat) (h : n < 24) : (d.segToZero n).seg n = (d.seg n).zeroed := by
  rw [seg_eq_of_fld (segToZero_fld d n), seg_putSeg _ n _ h, seg_eq_of_fld (returnTokens_fld _ n), seg_putSeg _ n _ h, seg_endDrive d n h]
  rfl

theorem seg_segToZero_ne (d : Dev) (n m : Nat) (h : m ≠ n) : (d.segToZero n).seg m = d.seg m := by
  rw [seg_eq_of_fld (segToZero_fld d n), seg_putSeg_ne _ n m _ h, seg_eq_of_fld (returnTokens_fld _ n), seg_putSeg_ne _ n m _ h,
    seg_endDrive_ne d n m h]

/-- On the way to 0 a field that neither the return nor the end of the interval writes is as the return leaves it. -/
theorem segToZero_g (d : Dev) (n : Nat) (r : Row) (m : Nat) (target : r.key m % 1024 ≠ SEG_AMP_TARGET.seat)
    (state : r.key m % 1024 ≠ SEG_STATUS_STATE.seat) : (d.segToZero n).g r m = ((d.endDrive n).returnTokens n).g r m :=
  (g_p_seat_ne _ SEG_STATUS_STATE r n m _ (by rwa [seat_of_segment SEG_STATUS_STATE n rfl])).trans
    (g_p_seat_ne _ SEG_AMP_TARGET r n m _ (by rwa [seat_of_segment SEG_AMP_TARGET n rfl]))

theorem held_endDrive (d : Dev) (n m : Nat) (hm : m < 24) : (d.endDrive n).held m = d.held m :=
  (fieldWork_endDrive d n).segReg SEG_STATUS_HELD m rfl hm (by decide)

theorem segToZero_held (d : Dev) (n m : Nat) : (d.segToZero n).held m = ((d.endDrive n).returnTokens n).held m :=
  segToZero_g d n SEG_STATUS_HELD m (by rw [seat_of_segment SEG_STATUS_HELD m rfl]; decide)
    (by rw [seat_of_segment SEG_STATUS_HELD m rfl]; decide)

theorem held_segToZero (d : Dev) (n : Nat) (h : n < 24) (rising : regsRising 0 d.regs = true) : (d.segToZero n).held n = 0 :=
  (segToZero_held d n n).trans (held_returnTokens _ n h ((fieldWork_endDrive d n).rising rising))

theorem held_segToZero_ne (d : Dev) (n m : Nat) (hm : m < 24) (h : m ≠ n) : (d.segToZero n).held m = d.held m :=
  (segToZero_held d n m).trans ((held_returnTokens_ne _ n m hm h).trans (held_endDrive d n m hm))

theorem free_segToZero (d : Dev) (n : Nat) (h : n < 24) (rising : regsRising 0 d.regs = true)
    (room : d.g FLD_BUDGET_FREE + d.held n < 1024) : (d.segToZero n).g FLD_BUDGET_FREE = d.g FLD_BUDGET_FREE + d.held n := by
  have free : (d.endDrive n).g FLD_BUDGET_FREE = d.g FLD_BUDGET_FREE := (fieldWork_endDrive d n).g _ 0 (by decide) (by decide)
  have held := held_endDrive d n n h
  rw [segToZero_g d n FLD_BUDGET_FREE 0 (by decide) (by decide),
    free_returnTokens _ n ((fieldWork_endDrive d n).rising rising) (by rwa [free, held]), free, held]

/-- A field that the return of a segment's tokens does not write. -/
theorem segIsRetired_segToZero (d : Dev) (n m : Nat) : (d.segToZero n).segIsRetired m = d.segIsRetired m := by
  rw [Dev.segIsRetired, (fieldWork_segToZero d n).g FLD_RETIRED_SEG 0 (by decide) (by decide), Dev.segIsRetired]

theorem segState_segToZero_ne (d : Dev) (n m : Nat) (hm : m < 24) (h : m ≠ n) : (d.segToZero n).segState m = d.segState m :=
  (segState_putSegState_ne _ n m _ h).trans
    ((g_p_row_ne _ SEG_AMP_TARGET SEG_STATUS_STATE n m 0 rfl rfl (by decide)).trans
      ((fieldWork_endDrive_returnTokens d n).segReg SEG_STATUS_STATE m rfl hm (by decide)))

/-- The state at 0, by the retirement as it stands (R70). -/
theorem segState_segToZero (d : Dev) (n : Nat) (rising : regsRising 0 d.regs = true) :
    (d.segToZero n).segState n = if d.segIsRetired n then segRetired else segIdle := by
  have before := fieldWork_endDrive_returnTokens d n
  have retired : (((d.endDrive n).returnTokens n).leaveFrames n).segIsRetired n = d.segIsRetired n := by
    rw [Dev.segIsRetired, before.g FLD_RETIRED_SEG 0 (by decide) (by decide), Dev.segIsRetired]
  refine (segState_putSegState_rising _ n _ ?_ (p_rising _ _ _ _ (before.rising rising))).trans
    (congrArg (fun b => if b = true then segRetired else segIdle) retired)
  split <;> decide

/-! ### A code applied (R56) -/

theorem fieldWork_applyCode (d : Dev) (n a : Nat) : FieldWork [SEG_FAULT_CLAMP] d (d.applyCode n a) := by
  rw [Dev.applyCode]
  refine FieldWork.when ((FieldWork.refl _ d).putSeg n _) _ _ ?_
  exact (FieldWork.refl _ _).segP SEG_FAULT_CLAMP n 1 rfl (by decide)

theorem applyCode_fld (d : Dev) (n a : Nat) :
    (d.applyCode n a).fld =
      (d.putSeg n fun x => { x with want := a, level := d.covered n a, clamped := decide (d.covered n a < a) }).fld := by
  simp only [Dev.applyCode, Dev.when]
  split <;> rfl

theorem seg_applyCode (d : Dev) (n a : Nat) (h : n < 24) :
    (d.applyCode n a).seg n = { d.seg n with want := a, level := d.covered n a, clamped := decide (d.covered n a < a) } :=
  (seg_eq_of_fld (applyCode_fld d n a) n).trans (seg_putSeg d n _ h)

/-! ### The start of a ramp (R59, R60) -/

/-- The fields that the start of a ramp writes. -/
def rampRows : List Row := SEG_STATUS_STATE :: measureRows

theorem fieldWork_startRamp (d : Dev) (n goal len st : Nat) : FieldWork rampRows d (d.startRamp n goal len st) :=
  (((fieldWork_endDrive d n).mono (by decide)).putSeg n _).segP SEG_STATUS_STATE n st rfl (by decide)

theorem startRamp_fld (d : Dev) (n goal len st : Nat) :
    (d.startRamp n goal len st).fld = ((d.endDrive n).putSeg n fun x =>
      { x with ramp := some { begun := false, a0 := x.level, a1 := goal, k := 0, n := len }, clamped := false }).fld := rfl

theorem seg_startRamp (d : Dev) (n goal len st : Nat) (h : n < 24) :
    (d.startRamp n goal len st).seg n =
      { d.seg n with ramp := some { begun := false, a0 := (d.seg n).level, a1 := goal, k := 0, n := len }, clamped := false,
                     driveCycles := 0 } := by
  rw [seg_eq_of_fld (startRamp_fld d n goal len st), seg_putSeg _ n _ h, seg_endDrive d n h]

theorem seg_startRamp_ne (d : Dev) (n m goal len st : Nat) (h : m ≠ n) : (d.startRamp n goal len st).seg m = d.seg m := by
  rw [seg_eq_of_fld (startRamp_fld d n goal len st), seg_putSeg_ne _ n m _ h, seg_endDrive_ne d n m h]

theorem segState_startRamp (d : Dev) (n goal len st : Nat) (h : st < 16) (busy : st ≠ segIdle) :
    (d.startRamp n goal len st).segState n = st := segState_putSegState _ n st h busy

theorem segState_startRamp_ne (d : Dev) (n m goal len st : Nat) (hm : m < 24) (h : m ≠ n) :
    (d.startRamp n goal len st).segState m = d.segState m :=
  (segState_putSegState_ne _ n m st h).trans ((fieldWork_endDrive d n).segReg SEG_STATUS_STATE m rfl hm (by decide))

theorem held_startRamp (d : Dev) (n m goal len st : Nat) (hm : m < 24) : (d.startRamp n goal len st).held m = d.held m :=
  (fieldWork_startRamp d n goal len st).segReg SEG_STATUS_HELD m rfl hm (by decide)

/-! ### The fill amplitude (R75) -/

/-- The fill amplitude for level `a` under an extension, whatever AMAX is. -/
def Dev.fillWant (d : Dev) (n a ext : Nat) : Nat :=
  (2 * a * max 16 (if ext = 1 then d.g SEG_FILL_GAIN1 n else d.g SEG_FILL_GAIN2 n) + 16) / 32

theorem fillLevel_of_extended (d : Dev) (n a ext : Nat) (h : 0 < ext) :
    d.fillLevel n a ext =
      if d.fillWant n a ext ≤ d.amax n then (d.fillWant n a ext, d) else (d.amax n, d.set1 SEG_FAULT_FILL_SHORT n) :=
  if_neg (Nat.ne_of_gt h)

theorem fillLevel_code (d : Dev) (n a ext : Nat) (h : 0 < ext) : (d.fillLevel n a ext).1 = min (d.amax n) (d.fillWant n a ext) := by
  rw [fillLevel_of_extended d n a ext h]
  split
  · next fits => exact (Nat.min_eq_right fits).symm
  · next exceeds => exact (Nat.min_eq_left (Nat.le_of_not_le exceeds)).symm

/-- The block after a fill amplitude is formed: FILL_SHORT is set, or nothing has changed. -/
theorem fillLevel_block (d : Dev) (n a ext : Nat) : (d.fillLevel n a ext).2 = d ∨ (d.fillLevel n a ext).2 = d.set1 SEG_FAULT_FILL_SHORT n := by
  rcases Nat.eq_zero_or_pos ext with rfl | extended
  · exact .inl rfl
  · rw [fillLevel_of_extended d n a ext extended]
    split
    · exact .inl rfl
    · exact .inr rfl

theorem fieldWork_fillLevel (d : Dev) (n a ext : Nat) : FieldWork [SEG_FAULT_FILL_SHORT] d (d.fillLevel n a ext).2 := by
  rcases fillLevel_block d n a ext with same | short
  · rw [same]; exact .refl _ d
  · rw [short]; exact (FieldWork.refl _ d).segP SEG_FAULT_FILL_SHORT n 1 rfl (by decide)

theorem fillLevel_fld (d : Dev) (n a ext : Nat) : (d.fillLevel n a ext).2.fld = d.fld := by
  rcases fillLevel_block d n a ext with same | short
  · rw [same]
  · rw [short]; rfl

/-- Neither a fault flag nor a record changes N. -/
theorem rampN_of_work {rows : List Row} {d e : Dev} (h : FieldWork rows d e) (n : Nat) (hn : n < 24)
    (seat : SEG_CTRL_RAMP.seat ∉ rows.map Row.seat) : e.rampN n = d.rampN n := by
  rw [Dev.rampN, h.segReg SEG_CTRL_RAMP n rfl hn seat, Dev.rampN]

end Sys2Proof.Machine
end

section
/-!
The statements of 03_field_segments.md on tokens: the token book, the end of a Glide, claims and the ends of ramps.
-/

namespace Sys2Proof.Machine

open Dev (FieldWork)

/-! ### The token book (R66 to R69) -/

/-- A block after reset in which segment 0 takes part in a Glide whose other end, 64, is no segment. The place where SEGn_STATUS.HELD of
copy 64 would stand is FIG_EVENTS.COMMIT_REJECT's, which is set. -/
def strayGlide : Dev := (resetDev.set1 FIG_EVENTS_COMMIT_REJECT).putSeg 0 fun x => { x with partner := some 64 }

theorem strayGlide_claimsFit : strayGlide.ClaimsFit where
  named := by decide
  queued := fun _ _ _ => Nat.zero_le _
  held := by
    intro n h o owned
    have unowned : ∀ n < 24, (strayGlide.seg n).owner = none := by decide
    rw [unowned n h] at owned
    cases owned
  free := by decide

theorem strayGlide_balances : strayGlide.g FLD_BUDGET_FREE + strayGlide.claimed = 600 := by decide

/-- What stands at COMMIT_REJECT comes to FREE as a token that no segment gave. -/
theorem strayGlide_makes_a_token : (strayGlide.endGlide 0).g FLD_BUDGET_FREE + (strayGlide.endGlide 0).claimed = 601 := by decide

/-- Refutes O15: the statement leaves a Glide's partner free. In `strayGlide` segment 0 names 64, which is no segment, as its partner;
GLIDE_END returns that partner's HELD, which is another register's field, and FREE + CLAIMED is 601. -/
theorem not_tokenBookBalances : ¬ Obligations.TokenBookBalances := by
  rintro ⟨kept, -⟩
  have balanced := (kept { pending := [], dev := strayGlide } _ (.glideEnd 0) (by decide) strayGlide_balances strayGlide_claimsFit
    (.inr (.inr (.inl ⟨0, rfl⟩))) rfl).1
  exact absurd (strayGlide_makes_a_token.symm.trans balanced) (by decide)

/-! ### A command's answer by an equation of blocks -/

theorem Answers.of_eq {c : Instr} {s : State} {d e : Dev} (h : Answers c s d) (same : d = e) : Answers c s e := same ▸ h

theorem Settles.of_eq {c : Instr} {s : State} {d e : Dev} (h : Settles c s d) (same : d = e) : Settles c s e := same ▸ h

/-! ### The end of a Glide (R64) -/

/-- The incoming segment of a Glide that has come to its end: in DRIVE, at its level as far as its tokens cover it. -/
def Dev.glideIn (d : Dev) (i : Nat) : Dev :=
  ((d.applyCode i (((d.seg i).ramp.map (·.a1)).getD (d.seg i).want)).putSeg i fun x =>
    { x with ramp := none, partner := none, phase := none, driveCycles := 0 }).putSegState i segDrive

/-- Whichever of the two is named, the incoming one drives on and the outgoing one goes to 0. -/
theorem endGlide_of_pair (d : Dev) (o i n : Nat) (named : n = o ∨ n = i) (out : (d.seg o).partner = some i)
    (inn : (d.seg i).partner = some o) (oState : d.segState o = segGlideOut) (iState : d.segState i = segGlideIn) :
    d.endGlide n = (d.glideIn i).segToZero o := by
  rcases named with rfl | rfl
  · simp only [Dev.endGlide, out, oState, if_true, Dev.glideIn]
  · have notOut : d.segState n ≠ segGlideOut := by rw [iState]; decide
    simp only [Dev.endGlide, inn, if_neg notOut, Dev.glideIn]

section GlideIn

variable (d : Dev) (i : Nat)

theorem fieldWork_glideIn : FieldWork [SEG_FAULT_CLAMP, SEG_STATUS_STATE] d (d.glideIn i) :=
  (((fieldWork_applyCode d i _).mono (by decide)).putSeg i _).segP SEG_STATUS_STATE i _ rfl (by decide)

theorem segState_glideIn : (d.glideIn i).segState i = segDrive := segState_putSegState _ i segDrive (by decide) (by decide)

theorem level_glideIn (h : i < 24) :
    ((d.glideIn i).seg i).level = d.covered i (((d.seg i).ramp.map (·.a1)).getD (d.seg i).want) := by
  have put : (d.glideIn i).seg i = _ := seg_putSeg (d.applyCode i _) i _ h
  rw [put, seg_applyCode d i _ h]

end GlideIn

theorem answers_glideEnd (s : State) (n : Seg) : Answers (.glideEnd n) s (s.dev.endGlide n) := rfl

/-- Settles O16: the incoming segment is in DRIVE before the outgoing one goes to 0, which touches nothing of the incoming one. -/
theorem glideEndReturnsTokens : Obligations.GlideEndReturnsTokens := by
  intro s o i n rising apart named out inn oState iState inService room
  have ne : i.val ≠ o.val := fun same => apart (Fin.ext same.symm)
  have work := fieldWork_glideIn s.dev i
  have held : ∀ m < 24, (s.dev.glideIn i).held m = s.dev.held m := fun m hm => work.segReg SEG_STATUS_HELD m rfl hm (by decide)
  have free : (s.dev.glideIn i).g FLD_BUDGET_FREE = s.dev.g FLD_BUDGET_FREE := work.g FLD_BUDGET_FREE 0 (by decide) (by decide)
  have serving : (s.dev.glideIn i).segIsRetired o = false := by
    rw [Dev.segIsRetired, work.g FLD_RETIRED_SEG 0 (by decide) (by decide)]
    exact inService
  have rising' := work.rising rising
  have zero := seg_segToZero (s.dev.glideIn i) o o.isLt
  have ended := endGlide_of_pair s.dev o i n (named.imp (congrArg Fin.val) (congrArg Fin.val)) out inn oState iState
  refine ⟨(s.dev.glideIn i).segToZero o, (answers_glideEnd s n).of_eq ended, ?_, ?_, ?_, ?_, ?_, ?_, ?_, ?_, ?_⟩
  · rw [zero]; rfl
  · rw [zero]; rfl
  · rw [segState_segToZero _ o rising', serving]; rfl
  · exact held_segToZero _ o o.isLt rising'
  · rw [zero]; rfl
  · rw [free_segToZero _ o o.isLt rising' (by rwa [free, held o o.isLt]), free, held o o.isLt]
  · rw [segState_segToZero_ne _ o i i.isLt ne, segState_glideIn]
  · rw [held_segToZero_ne _ o i i.isLt ne, held i i.isLt]
  · rw [seg_segToZero_ne _ o i ne, level_glideIn s.dev i i.isLt]

/-! ### The grant of the head claim (R65, R67, R69) -/

/-- The block in which slot `i`'s claim `c` has been granted, before what waits for the grant starts. -/
def Dev.grantedTo (d : Dev) (c : Claim) (i : Nat) : Dev :=
  let d := d.inFld fun f => { f with claims := f.claims.erase c }
  let d := (d.p FLD_BUDGET_FREE 0 (d.g FLD_BUDGET_FREE - c.tokens)).p SEG_STATUS_HELD c.seg (d.held c.seg + c.tokens)
  let d := (d.putSeg c.seg fun x => { x with owner := some (.slot i) }).p SEG_STATUS_OWNER c.seg i
  d.high FLD_PEAK_PEAK 0 d.claimed

/-- What a grant leaves of a segment's record is all of it but the owner. -/
theorem heldStart_grantedTo (d : Dev) (c : Claim) (i n : Nat) : ((d.grantedTo c i).seg n).heldStart = (d.seg n).heldStart := by
  have granted : (d.grantedTo c i).seg n = (d.putSeg c.seg fun x => { x with owner := some (.slot i) }).seg n := rfl
  rw [granted]
  by_cases named : n = c.seg
  · subst named
    by_cases h : c.seg < 24
    · rw [seg_putSeg d c.seg _ h]
    · simp only [Dev.seg, vget, dif_neg h]
  · rw [seg_putSeg_ne d c.seg n _ named]

/-- The segment of a claim granted to a slot that is not carried is not held by a carried operation. -/
theorem segCarried_grantedTo (d : Dev) (c : Claim) (i : Nat) (h : ((d.slot i).map (·.carried)).getD false = false) :
    (d.grantedTo c i).segCarried c.seg = false := by
  by_cases hn : c.seg < 24
  · have owner : ((d.grantedTo c i).seg c.seg).owner = some (.slot i) :=
      congrArg SegState.owner (seg_putSeg d c.seg (fun x => { x with owner := some (.slot i) }) hn)
    rw [Dev.segCarried, owner]
    exact h
  · have none : ((d.grantedTo c i).seg c.seg).owner = none := by simp only [Dev.seg, vget, dif_neg hn]; rfl
    rw [Dev.segCarried, none]

theorem grantHead_of_not_grantable (d : Dev) (h : d.grantable = false) : d.grantHead = d := by
  rw [Dev.grantHead]
  split
  · rfl
  · simp only [h, Bool.not_false, if_true]

theorem grantHead_of_slot (d : Dev) (c : Claim) (i : Nat) (head : d.headClaim = some c) (owner : c.owner = .slot i)
    (covered : c.tokens ≤ d.g FLD_BUDGET_FREE) (driven : d.vdrvLow = false)
    (kept : ((d.slot i).map (·.carried)).getD false = false) : d.grantHead = (d.grantedTo c i).startHeld c.seg i := by
  have grantable : d.grantable = true := by simp only [Dev.grantable, head, driven, decide_eq_true covered, Bool.not_false, Bool.and_self]
  have still : (d.grantedTo c i).when ((d.grantedTo c i).segCarried c.seg) Dev.setAllWindows = d.grantedTo c i := by
    rw [segCarried_grantedTo d c i kept]; rfl
  have run : d.grantHead = ((d.grantedTo c i).when ((d.grantedTo c i).segCarried c.seg) Dev.setAllWindows).startHeld c.seg i := by
    simp only [Dev.grantHead, head, grantable, Bool.not_true, Bool.false_eq_true, if_false, owner]
    rfl
  rw [run, still]

theorem startHeld_of_none (d : Dev) (n i : Nat) (h : (d.seg n).heldStart = none) : d.startHeld n i = d := by
  simp only [Dev.startHeld, h]

theorem startHeld_of_ready (d : Dev) (n i : Nat) (h : HeldStart) (waits : (d.seg n).heldStart = some h)
    (ready : d.hasQueued n (.slot i) = false ∨ d.tokens n (d.heldCode n h) ≤ d.held n) : d.startHeld n i = d.lateStart n := by
  have go : ¬ (d.hasQueued n (.slot i) = true ∧ d.held n < d.tokens n (d.heldCode n h)) := fun ⟨queued, short⟩ =>
    ready.elim (fun none => Bool.false_ne_true (none.symm.trans queued)) (fun covered => Nat.not_le.mpr short covered)
  simp only [Dev.startHeld, waits, if_neg go]

theorem startHeld_of_short (d : Dev) (n i : Nat) (h : HeldStart) (waits : (d.seg n).heldStart = some h)
    (queued : d.hasQueued n (.slot i) = true) (short : d.held n < d.tokens n (d.heldCode n h)) : d.startHeld n i = d := by
  simp only [Dev.startHeld, waits, if_pos (And.intro queued short)]

theorem answers_claimGrant (s : State) : Answers .claimGrant s s.dev.grantHead := rfl

/-! ### The end of a ramp (R59, R68) -/

section EndRamp

variable (d : Dev) (n : Nat) (r : Ramp) (ramp : (d.seg n).ramp = some r)
include ramp

/-- Where a ramp leads, its segment stands. -/
def Dev.rampedTo (d : Dev) (n a : Nat) : Dev :=
  (d.applyCode n a).putSeg n fun x => { x with ramp := none, driveCycles := 0, steady := d.now }

theorem endRamp_of_rise (st : d.segState n = segRampUp ∨ d.segState n = segLevel) :
    d.endRamp n = (d.rampedTo n r.a1).p SEG_STATUS_STATE n segDrive := by
  simp only [Dev.endRamp, ramp, if_pos st]
  rfl

theorem endRamp_of_tune (st : d.segState n = segTune) : d.endRamp n = d.rampedTo n r.a1 := by
  have risen : ¬ (d.segState n = segRampUp ∨ d.segState n = segLevel) := by rw [st]; decide
  simp only [Dev.endRamp, ramp, if_neg risen, if_pos st]
  rfl

theorem endRamp_of_fall (st : d.segState n = segRampDown) (quiet : d.tap.loop = none) : d.endRamp n = d.segToZero n := by
  have risen : ¬ (d.segState n = segRampUp ∨ d.segState n = segLevel) := by rw [st]; decide
  have tuned : ¬ d.segState n = segTune := by rw [st]; decide
  have noLoop : (d.segToZero n).tap.loop = none := by rw [(fieldWork_segToZero d n).tap, quiet]
  simp only [Dev.endRamp, ramp, if_neg risen, if_neg tuned, if_pos st, Dev.loopOver, noLoop]

end EndRamp

theorem level_rampedTo (d : Dev) (n a : Nat) (h : n < 24) : ((d.rampedTo n a).seg n).level = d.covered n a := by
  have put : (d.rampedTo n a).seg n = _ := seg_putSeg (d.applyCode n a) n _ h
  rw [put, seg_applyCode d n a h]

theorem fieldWork_rampedTo (d : Dev) (n a : Nat) : FieldWork [SEG_FAULT_CLAMP] d (d.rampedTo n a) := (fieldWork_applyCode d n a).putSeg n _

/-- With no census job the end of a ramp is that of its segment alone. -/
theorem answers_rampEnd (s : State) (n : Seg) (e : Dev) (ended : s.dev.endRamp n = e) (idle : e.cen.job = none) :
    Answers (.rampEnd n) s e := by
  have run : exec (.rampEnd n) s = .next { s with dev := (s.dev.endRamp n).jobDrive } := rfl
  rw [Answers, run, ended]
  simp only [Dev.jobDrive, idle]

/-- Settles O17: the grant is whole before what waits for it starts, and the state of a segment says where its ramp ends. -/
theorem claimsAreGrantedWhole : Obligations.ClaimsAreGrantedWhole := by
  intro s
  refine ⟨fun c i head owner covered driven kept => ?_, fun blocked => ?_, fun n r noJob ramp => ?_⟩
  · have granted : Answers .claimGrant s ((s.dev.grantedTo c i).startHeld c.seg i) :=
      (answers_claimGrant s).of_eq (grantHead_of_slot s.dev c i head owner covered driven kept)
    have waits := heldStart_grantedTo s.dev c i c.seg
    exact ⟨fun none => granted.of_eq (startHeld_of_none _ c.seg i (waits.trans none)), fun h _ start =>
      ⟨fun ready => granted.of_eq (startHeld_of_ready _ c.seg i h (waits.trans start) ready),
        fun queued short => granted.of_eq (startHeld_of_short _ c.seg i h (waits.trans start) queued short)⟩⟩
  · exact (answers_claimGrant s).of_eq (grantHead_of_not_grantable s.dev blocked)
  · have there : (s.dev.rampedTo n r.a1).cen.job = none := by rw [(fieldWork_rampedTo s.dev n r.a1).cen, noJob]
    have zero : (s.dev.segToZero n).cen.job = none := by rw [(fieldWork_segToZero s.dev n).cen, noJob]
    exact ⟨fun st => ⟨answers_rampEnd s n _ (endRamp_of_rise s.dev n r ramp st) there, level_rampedTo s.dev n r.a1 n.isLt⟩,
      fun st => answers_rampEnd s n _ (endRamp_of_tune s.dev n r ramp st) there,
      fun st quiet => answers_rampEnd s n _ (endRamp_of_fall s.dev n r ramp st quiet) zero⟩

end Sys2Proof.Machine
end

section
/-!
The statements of 03_field_segments.md on ramps: fill-in, FIELD and GLIDE.
-/

namespace Sys2Proof.Machine

open Dev (FieldWork)

/-! ### The two ramps of fill-in (R75) -/

theorem rampFill_eq (d : Dev) (n ext : Nat) (h : n < 24) :
    d.rampFill n ext =
      ((d.fillLevel n (d.g SEG_AMP_TARGET n) ext).2.putSeg n fun x => { x with ext := ext, heldStart := none }).startRamp n
        (d.fillLevel n (d.g SEG_AMP_TARGET n) ext).1 (d.rampN n) segLevel := by
  have work := (fieldWork_fillLevel d n (d.g SEG_AMP_TARGET n) ext).putSeg n fun x => { x with ext := ext, heldStart := none }
  rw [← rampN_of_work work n h (by decide)]
  rfl

section FillUp

variable (d : Dev) (n : Nat)

/-- A claim of the segment's own owner on it waits. -/
def Dev.toppingUp (d : Dev) (n : Nat) : Bool := ((d.seg n).owner.map (d.hasQueued n)).getD false

theorem fillUp_of_no_extension (h : d.fillExt n = 0) : d.fillUp n = d := by
  simp only [Dev.fillUp, h, BEq.rfl, Bool.or_true, Bool.true_or, if_true]

variable (driven : d.segState n = segDrive) (level : (d.seg n).ext = 0) (extended : 0 < d.fillExt n)
include driven level extended

/-- Of a segment in DRIVE at its commanded level, the tokens and the claims decide. -/
theorem fillUp_of_drive :
    d.fillUp n =
      if d.held n < d.tokens n (d.fillLevel n (d.g SEG_AMP_TARGET n) (d.fillExt n)).1 ∧ d.toppingUp n = true then
        d.hold n (d.g SEG_STATUS_OWNER n) (d.g SEG_AMP_TARGET n) (.fill (d.fillExt n))
      else d.rampFill n (d.fillExt n) := by
  have some : (d.fillExt n == 0) = false := beq_false_of_ne (Nat.ne_of_gt extended)
  have go : (d.segState n != segDrive || d.fillExt n == 0 || (d.seg n).ext != 0) = false := by
    simp only [driven, level, some, bne_self_eq_false, Bool.or_false]
  simp only [Dev.fillUp, go, Bool.false_eq_true, if_false, Bool.and_eq_true, decide_eq_true_eq]
  rfl

theorem fillUp_of_covered
    (covered : d.tokens n (d.fillLevel n (d.g SEG_AMP_TARGET n) (d.fillExt n)).1 ≤ d.held n ∨ d.toppingUp n = false) :
    d.fillUp n = d.rampFill n (d.fillExt n) := by
  rw [fillUp_of_drive d n driven level extended]
  refine if_neg fun ⟨short, tops⟩ => ?_
  exact covered.elim (Nat.not_le.mpr short) fun none => Bool.false_ne_true (none.symm.trans tops)

end FillUp

theorem fillDown_of_commanded (d : Dev) (n : Nat) (h : (d.seg n).ext = 0) : d.fillDown n = d := by
  simp only [Dev.fillDown, h, BEq.rfl, Bool.true_or, if_true]

theorem fillDown_of_filled (d : Dev) (n : Nat) (st : d.segState n = segDrive ∨ d.segState n = segLevel) (h : 0 < (d.seg n).ext) :
    d.fillDown n =
      (d.putSeg n fun x => { x with ext := 0 }).startRamp n (d.g SEG_AMP_TARGET n) (d.rampN n) segLevel := by
  have filled : ((d.seg n).ext == 0) = false := beq_false_of_ne (Nat.ne_of_gt h)
  have on : (d.segState n != segDrive && d.segState n != segLevel) = false := by
    rcases st with st | st <;> rw [st] <;> rfl
  simp only [Dev.fillDown, filled, on, Bool.or_self, Bool.false_eq_true, if_false]

theorem answers_fillRampUp (s : State) (n : Seg) : Answers (.fillRampUp n) s (s.dev.fillUp n) := rfl

theorem answers_fillRampDown (s : State) (n : Seg) : Answers (.fillRampDown n) s (s.dev.fillDown n) := rfl

/-- Settles O18: the segment's state, its extension and its tokens choose the ramp. -/
theorem fillInRampsFollowTheTag : Obligations.FillInRampsFollowTheTag := by
  intro s n
  refine ⟨fun driven level extended covered => ?_, fun driven level extended short tops => ?_, fun none => ?_, fun st filled => ?_,
    fun none => ?_, fun e extended => fillLevel_code s.dev n _ e extended⟩
  · exact (answers_fillRampUp s n).of_eq
      ((fillUp_of_covered s.dev n driven level extended covered).trans (rampFill_eq s.dev n _ n.isLt))
  · exact (answers_fillRampUp s n).of_eq ((fillUp_of_drive s.dev n driven level extended).trans (if_pos ⟨short, tops⟩))
  · exact (answers_fillRampUp s n).of_eq (fillUp_of_no_extension s.dev n none)
  · exact (answers_fillRampDown s n).of_eq (fillDown_of_filled s.dev n st filled)
  · exact (answers_fillRampDown s n).of_eq (fillDown_of_commanded s.dev n none)

/-! ### Ramps of a segment that is in no Glide (R60) -/

theorem unlink_of_alone (d : Dev) (n : Nat) (alone : (d.seg n).partner = none) : d.unlink n = d := by
  simp only [Dev.unlink, alone]

theorem rampDown_of_zero (d : Dev) (n : Nat) (alone : (d.seg n).partner = none) (level : (d.seg n).level = 0) :
    d.rampDown n = d.segToZero n := by
  simp only [Dev.rampDown, unlink_of_alone d n alone, level, if_true]

theorem rampDown_of_level (d : Dev) (n : Nat) (alone : (d.seg n).partner = none) (level : 0 < (d.seg n).level) :
    d.rampDown n =
      ((d.putSeg n fun x => { x with ext := 0 }).startRamp n 0 (d.rampN n) segRampDown).p SEG_AMP_TARGET n 0 := by
  simp only [Dev.rampDown, unlink_of_alone d n alone, if_neg (Nat.ne_of_gt level)]

/-- Where a rise or a change of level leads while it runs. -/
def Dev.riseState (d : Dev) (n : Nat) : Nat :=
  if (d.seg n).level = 0 ∨ d.segState n = segRampDown ∨ d.segState n = segRampUp then segRampUp else segLevel

theorem riseState_cases (d : Dev) (n : Nat) : d.riseState n = segRampUp ∨ d.riseState n = segLevel := by
  rw [Dev.riseState]
  split
  · exact .inl rfl
  · exact .inr rfl

theorem rampTo_of_alone (d : Dev) (n goal : Nat) (alone : (d.seg n).partner = none) :
    d.rampTo n goal = d.startRamp n goal (d.rampN n) (d.riseState n) := by
  simp only [Dev.rampTo, unlink_of_alone d n alone]
  rfl

/-! ### What the ramps of fill-in leave (R59, R75) -/

/-- The segment is on a ramp of `len` carrier cycles, whose first boundary is still to come, from level `a` to `goal`. -/
def Dev.Goes (d : Dev) (n a goal len : Nat) : Prop := (d.seg n).ramp = some { begun := false, a0 := a, a1 := goal, k := 0, n := len }

section RampFill

variable (d : Dev) (n ext : Nat) (h : n < 24)
include h

theorem seg_fillShort (f : SegState → SegState) : ((d.fillLevel n (d.g SEG_AMP_TARGET n) ext).2.putSeg n f).seg n = f (d.seg n) := by
  rw [seg_putSeg _ n f h, seg_eq_of_fld (fillLevel_fld d n _ ext)]

theorem segState_rampFill : (d.rampFill n ext).segState n = segLevel := by
  rw [rampFill_eq d n ext h]
  exact segState_startRamp _ n _ _ segLevel (by decide) (by decide)

theorem seg_rampFill :
    (d.rampFill n ext).seg n =
      { d.seg n with ext := ext, heldStart := none, clamped := false, driveCycles := 0,
                     ramp := some { begun := false, a0 := (d.seg n).level, a1 := (d.fillLevel n (d.g SEG_AMP_TARGET n) ext).1, k := 0,
                                    n := d.rampN n } } := by
  rw [rampFill_eq d n ext h, seg_startRamp _ n _ _ _ h, seg_fillShort d n ext h]

theorem held_rampFill : (d.rampFill n ext).held n = d.held n := by
  rw [rampFill_eq d n ext h, held_startRamp _ n n _ _ _ h]
  exact (fieldWork_fillLevel d n _ ext).segReg SEG_STATUS_HELD n rfl h (by decide)

end RampFill

section FillDown

variable (d : Dev) (n : Nat) (st : d.segState n = segDrive ∨ d.segState n = segLevel) (filled : 0 < (d.seg n).ext)
include st filled

theorem seg_fillDown (h : n < 24) :
    (d.fillDown n).seg n =
      { d.seg n with ext := 0, clamped := false, driveCycles := 0,
                     ramp := some { begun := false, a0 := (d.seg n).level, a1 := d.g SEG_AMP_TARGET n, k := 0, n := d.rampN n } } := by
  rw [fillDown_of_filled d n st filled, seg_startRamp _ n _ _ _ h, seg_putSeg d n _ h]

theorem segState_fillDown : (d.fillDown n).segState n = segLevel := by
  rw [fillDown_of_filled d n st filled]
  exact segState_startRamp _ n _ _ segLevel (by decide) (by decide)

theorem held_fillDown (h : n < 24) : (d.fillDown n).held n = d.held n := by
  rw [fillDown_of_filled d n st filled]
  exact held_startRamp _ n n _ _ _ h

end FillDown

/-! ### FIELD (R65, R68, R75) -/

/-- A change that a segment's fall begins with: the starts that slot `o` waits for are given up. -/
theorem seg_dropHeld (d : Dev) (n o : Nat) (h : n < 24) :
    ((d.dropHeld n o).seg n).level = (d.seg n).level ∧ ((d.dropHeld n o).seg n).owner = (d.seg n).owner
      ∧ ((d.dropHeld n o).seg n).partner = (d.seg n).partner := by
  rw [Dev.dropHeld, seg_putSeg d n _ h]
  split <;> exact ⟨rfl, rfl, rfl⟩

section FieldTo

variable (d : Dev) (n i level : Nat) (tag : Option Nat) (own : (d.seg n).owner = some (.slot i))
include own

theorem fieldTo_zero (h : n < 24) : d.fieldTo n i 0 tag = (false, (d.dropHeld n i).rampDown n) := by
  have granted : (d.dropHeld n i).hasGranted n (.slot i) = true := by
    rw [Dev.hasGranted, (seg_dropHeld d n i h).2.1, own]
    exact BEq.rfl
  simp only [Dev.fieldTo, if_true, granted]

theorem fieldTo_level (up : level ≠ 0) (first : d.hasQueued n (.slot i) = false) :
    d.fieldTo n i level tag = (false, (d.putSeg n fun x => { x with tag := tag }).rampLevel n level) := by
  have granted : d.hasGranted n (.slot i) = true := by rw [Dev.hasGranted, own]; exact BEq.rfl
  have alone : (d.putSeg n fun x => { x with tag := tag }).hasQueued n (.slot i) = false := first
  simp only [Dev.fieldTo, if_neg up, granted, if_true, alone, Bool.false_eq_true, false_and, if_false]

end FieldTo

/-- The commanded level and its extension taken over, before the ramp to it starts. -/
def Dev.levelSet (d : Dev) (n level : Nat) : Dev :=
  ((d.fillLevel n level (d.extNow n (d.seg n).tag)).2.p SEG_AMP_TARGET n level).putSeg n fun x =>
    { x with ext := d.extNow n (d.seg n).tag, heldStart := none }

section LevelSet

variable (d : Dev) (n level : Nat)

theorem fieldWork_levelSet : FieldWork [SEG_FAULT_FILL_SHORT, SEG_AMP_TARGET] d (d.levelSet n level) :=
  (((fieldWork_fillLevel d n level _).mono (by decide)).segP SEG_AMP_TARGET n level rfl (by decide)).putSeg n _

theorem seg_levelSet (h : n < 24) :
    (d.levelSet n level).seg n = { d.seg n with ext := d.extNow n (d.seg n).tag, heldStart := none } := by
  have record : ((d.fillLevel n level (d.extNow n (d.seg n).tag)).2.p SEG_AMP_TARGET n level).seg n = d.seg n :=
    seg_eq_of_fld (fillLevel_fld d n level _) n
  rw [Dev.levelSet, seg_putSeg _ n _ h, record]

theorem rampLevel_of_alone (h : n < 24) (alone : (d.seg n).partner = none) :
    d.rampLevel n level =
      (d.levelSet n level).startRamp n (d.fillLevel n level (d.extNow n (d.seg n).tag)).1 (d.rampN n) ((d.levelSet n level).riseState n) := by
  have still : ((d.levelSet n level).seg n).partner = none := by rw [seg_levelSet d n level h]; exact alone
  rw [← rampN_of_work (fieldWork_levelSet d n level) n h (by decide)]
  exact rampTo_of_alone _ n _ still

end LevelSet

/-- FIELD that is not refused: the segment follows, and the program goes on. -/
theorem carries_field (s : State) (k : CallerId) (ra rb : GReg) (n i : Nat) (e : Dev) (runs : s.dev.Runs k)
    (cur : (s.dev.caller k).cur = some i) (named : (s.dev.reg k ra).toNat = n) (h : n < 24)
    (done : s.dev.fieldTo n i (s.dev.reg k rb).toNat (s.dev.progTag k) = (false, e)) (fig : e.fig = s.dev.fig) :
    Carries (.field k ra rb) s k e := by
  obtain ⟨run, pc⟩ := runs
  have same : e.caller k = s.dev.caller k := by rw [Dev.caller, fig]; rfl
  have act : exec (.field k ra rb) s = .next { s with dev := e.advance k } := by
    have arm : exec (.field k ra rb) s = execField k ra rb s := rfl
    simp only [arm, execField, effect_next, instr_run _ _ _ run, cur, named, if_neg (Nat.not_le.mpr h), done]
  rw [Carries, Answers, act, advance_next e k (by rw [same]; exact pc), same]
  rfl

/-- GLIDE that is not refused. -/
theorem carries_glide (s : State) (k : CallerId) (rd ra rb : GReg) (o m i : Nat) (e : Dev) (runs : s.dev.Runs k)
    (cur : (s.dev.caller k).cur = some i) (out : (s.dev.reg k ra).toNat = o) (inn : (s.dev.reg k rb).toNat = m)
    (done : s.dev.glideTo o m i (s.dev.reg k rd).toNat = (false, e)) (fig : e.fig = s.dev.fig) :
    Carries (.glide k rd ra rb) s k e := by
  obtain ⟨run, pc⟩ := runs
  have same : e.caller k = s.dev.caller k := by rw [Dev.caller, fig]; rfl
  have act : exec (.glide k rd ra rb) s = .next { s with dev := e.advance k } := by
    have arm : exec (.glide k rd ra rb) s = execGlide k rd ra rb s := rfl
    simp only [arm, execGlide, effect_next, instr_run _ _ _ run, cur, out, inn, done]
  rw [Carries, Answers, act, advance_next e k (by rw [same]; exact pc), same]
  rfl

@[simp] theorem runAt_seg (d : Dev) (k pc n : Nat) : (d.runAt k pc).seg n = d.seg n := rfl

@[simp] theorem runAt_g (d : Dev) (k pc : Nat) (r : Row) (n : Nat) : (d.runAt k pc).g r n = d.g r n := rfl

@[simp] theorem runAt_segState (d : Dev) (k pc n : Nat) : (d.runAt k pc).segState n = d.segState n := rfl

@[simp] theorem runAt_held (d : Dev) (k pc n : Nat) : (d.runAt k pc).held n = d.held n := rfl

/-- Between `d` and `e` the program of Caller `k` has gone on by one instruction. -/
def Dev.WentOn (d e : Dev) (k : Nat) : Prop := (e.caller k).st = .run ∧ (e.caller k).pc = (d.caller k).pc + 1

theorem wentOn_runAt (d e : Dev) (k : CallerId) : d.WentOn (e.runAt k ((d.caller k).pc + 1)) k := by
  rw [Dev.WentOn, Dev.runAt, caller_putCaller e k _ k.isLt]
  exact ⟨rfl, rfl⟩

/-! ### GLIDE (R61, R62) -/

/-- The two ramps of a Glide, before the pair is joined. -/
def Dev.glideRamps (d : Dev) (o i level : Nat) : Dev :=
  ((d.fillLevel i level (d.glideExt o i)).2.startRamp i (d.fillLevel i level (d.glideExt o i)).1 (d.rampN o) segGlideIn).startRamp o 0
    (d.rampN o) segGlideOut

theorem fieldWork_joinFrames (rows : List Row) (d : Dev) (o i : Nat) : FieldWork rows d (d.joinFrames o i) :=
  ⟨rfl, rfl, id, fun _ _ _ => rfl⟩

theorem joinFrames_fld (d : Dev) (o i : Nat) : (d.joinFrames o i).fld = d.fld := rfl

@[simp] theorem joinFrames_g (d : Dev) (o i : Nat) (r : Row) (m : Nat) : (d.joinFrames o i).g r m = d.g r m := rfl

/-- The pair joined in the outgoing segment's phase, and its frames. -/
def Dev.glideJoined (d : Dev) (o i level : Nat) : Dev :=
  (((d.glideRamps o i level).putSeg i fun x =>
    { x with partner := some o, phase := some (d.effPhase o), ext := d.glideExt o i, tag := (d.seg o).tag, steady := (d.seg o).steady }).putSeg o
    fun x => { x with partner := some i, phase := some (d.effPhase o) }).joinFrames o i

section StartGlide

variable (d : Dev) (o i level : Nat)

theorem fieldWork_glideRamps : FieldWork (SEG_FAULT_FILL_SHORT :: rampRows) d (d.glideRamps o i level) :=
  (((fieldWork_fillLevel d i level _).mono (by decide)).trans ((fieldWork_startRamp _ i _ _ _).mono (by decide))).trans
    ((fieldWork_startRamp _ o _ _ _).mono (by decide))

theorem fieldWork_glideJoined : FieldWork (SEG_FAULT_FILL_SHORT :: rampRows) d (d.glideJoined o i level) :=
  (((fieldWork_glideRamps d o i level).putSeg i _).putSeg o _).trans (fieldWork_joinFrames _ _ o i)

theorem segState_glideJoined (m : Nat) : (d.glideJoined o i level).segState m = (d.glideRamps o i level).segState m := by
  rw [Dev.segState, Dev.glideJoined, joinFrames_g, putSeg_g, putSeg_g, Dev.segState]

/-- The effective phase of a segment does not depend on the fault flags. -/
theorem effPhase_fillLevel (a ext : Nat) (ho : o < 24) : (d.fillLevel i a ext).2.effPhase o = d.effPhase o := by
  have work := fieldWork_fillLevel d i a ext
  have record := seg_eq_of_fld (fillLevel_fld d i a ext) o
  have carried : (d.fillLevel i a ext).2.segCarried o = d.segCarried o := by simp only [Dev.segCarried, record, work.fig]
  have ring : (d.fillLevel i a ext).2.segRing o = d.segRing o := by rw [Dev.segRing, carried, work.reel, Dev.segRing]
  have phase : ∀ x, (d.fillLevel i a ext).2.ringPhase x = d.ringPhase x := by
    intro x
    simp only [Dev.ringPhase, work.g FLD_RING_PHASE_RING_A 0 (by decide) (by decide), work.g FLD_RING_PHASE_RING_B 0 (by decide) (by decide),
      work.g FLD_RING_PHASE_RING_C 0 (by decide) (by decide), work.g FLD_RING_PHASE_RING_D 0 (by decide) (by decide)]
  simp only [Dev.effPhase, Dev.formedPhase, record, ring, phase, work.segReg SEG_PHASE_CAL o rfl ho (by decide)]

theorem startGlide_eq (ho : o < 24) : d.startGlide o i level = (d.glideJoined o i level).p SEG_AMP_TARGET i level := by
  have len := rampN_of_work (fieldWork_fillLevel d i level (d.glideExt o i)) o ho (by decide)
  have phase := effPhase_fillLevel d o i level (d.glideExt o i) ho
  have record := seg_eq_of_fld (fillLevel_fld d i level (d.glideExt o i)) o
  rw [Dev.glideJoined, Dev.glideRamps, ← len, ← phase, ← record]
  rfl

theorem fieldWork_startGlide (ho : o < 24) :
    FieldWork (SEG_AMP_TARGET :: SEG_FAULT_FILL_SHORT :: rampRows) d (d.startGlide o i level) := by
  rw [startGlide_eq d o i level ho]
  exact ((fieldWork_glideJoined d o i level).mono (by decide)).segP SEG_AMP_TARGET i level rfl (by decide)

theorem segState_startGlide (ho : o < 24) (m : Nat) : (d.startGlide o i level).segState m = (d.glideRamps o i level).segState m := by
  rw [startGlide_eq d o i level ho]
  exact (g_p_row_ne _ SEG_AMP_TARGET SEG_STATUS_STATE i m level rfl rfl (by decide)).trans (segState_glideJoined d o i level m)

theorem segState_startGlide_out (ho : o < 24) : (d.startGlide o i level).segState o = segGlideOut :=
  (segState_startGlide d o i level ho o).trans (segState_startRamp _ o 0 _ segGlideOut (by decide) (by decide))

theorem segState_startGlide_in (ho : o < 24) (hi : i < 24) (apart : o ≠ i) : (d.startGlide o i level).segState i = segGlideIn :=
  (segState_startGlide d o i level ho i).trans
    ((segState_startRamp_ne _ o i 0 _ _ hi apart.symm).trans (segState_startRamp _ i _ _ segGlideIn (by decide) (by decide)))

theorem seg_startGlide_out (ho : o < 24) (apart : o ≠ i) :
    (d.startGlide o i level).seg o =
      { d.seg o with ramp := some { begun := false, a0 := (d.seg o).level, a1 := 0, k := 0, n := d.rampN o }, clamped := false,
                     driveCycles := 0, partner := some i, phase := some (d.effPhase o) } := by
  rw [startGlide_eq d o i level ho]
  rw [seg_p, Dev.glideJoined, seg_eq_of_fld (joinFrames_fld _ o i), seg_putSeg _ o _ ho, seg_putSeg_ne _ i o _ apart,
    Dev.glideRamps, seg_startRamp _ o _ _ _ ho, seg_startRamp_ne _ i o _ _ _ apart,
    seg_eq_of_fld (fillLevel_fld d i level _)]

theorem seg_startGlide_in (ho : o < 24) (hi : i < 24) (apart : o ≠ i) :
    (d.startGlide o i level).seg i =
      { d.seg i with ramp := some { begun := false, a0 := (d.seg i).level, a1 := (d.fillLevel i level (d.glideExt o i)).1, k := 0,
                                    n := d.rampN o }, clamped := false, driveCycles := 0, partner := some o,
                     phase := some (d.effPhase o), ext := d.glideExt o i, tag := (d.seg o).tag, steady := (d.seg o).steady } := by
  rw [startGlide_eq d o i level ho]
  rw [seg_p, Dev.glideJoined, seg_eq_of_fld (joinFrames_fld _ o i), seg_putSeg_ne _ o i _ apart.symm, seg_putSeg _ i _ hi,
    Dev.glideRamps, seg_startRamp_ne _ o i _ _ _ apart.symm, seg_startRamp _ i _ _ _ hi,
    seg_eq_of_fld (fillLevel_fld d i level _)]

end StartGlide

/-- A Glide between cover neighbours, the second idle with its claim granted, starts at once. -/
theorem glideTo_of_granted (d : Dev) (o m i level : Nat) (out : d.segState o = segDrive) (inn : d.segState m = segIdle)
    (pair : d.coverPair o m = true) (own : (d.seg m).owner = some (.slot i)) :
    d.glideTo o m i level = (false, d.startGlide o m level) := by
  have granted : d.hasGranted m (.slot i) = true := by rw [Dev.hasGranted, own]; exact BEq.rfl
  have ready : d.glideReady m (.slot i) = true := by rw [Dev.glideReady, inn]; rfl
  simp only [Dev.glideTo, out, ready, pair, granted, Bool.true_or, and_self, if_true]

/-! ### A fall to 0 (R60, R68) -/

/-- A link given up changes two segments' records and one's state. -/
theorem fieldWork_unlink (d : Dev) (n : Nat) : FieldWork [SEG_STATUS_STATE] d (d.unlink n) := by
  cases partner : (d.seg n).partner with
  | none => rw [unlink_of_alone d n partner]; exact .refl _ d
  | some m =>
    have parted : ∀ u w, FieldWork [SEG_STATUS_STATE] d ((d.putSeg n u).putSeg m w) := fun u w =>
      ((FieldWork.refl _ d).putSeg n u).putSeg m w
    simp only [Dev.unlink, partner]
    split
    · exact (parted _ _).segP SEG_STATUS_STATE m _ rfl (by decide)
    · split
      · exact (parted _ _).segP SEG_STATUS_STATE m _ rfl (by decide)
      · exact parted _ _

theorem fieldWork_rampDown (d : Dev) (n : Nat) : FieldWork zeroRows d (d.rampDown n) := by
  have parted : FieldWork zeroRows d (d.unlink n) := (fieldWork_unlink d n).mono (by decide)
  simp only [Dev.rampDown]
  split
  · exact parted.trans (fieldWork_segToZero _ n)
  · refine FieldWork.segP ?_ SEG_AMP_TARGET n 0 rfl (by decide)
    exact (parted.putSeg n _).trans ((fieldWork_startRamp _ n _ _ _).mono (by decide))

section RampDown

variable (d : Dev) (n : Nat) (alone : (d.seg n).partner = none) (level : 0 < (d.seg n).level)
include alone level

theorem segState_rampDown : (d.rampDown n).segState n = segRampDown := by
  rw [rampDown_of_level d n alone level]
  exact (g_p_row_ne _ SEG_AMP_TARGET SEG_STATUS_STATE n n 0 rfl rfl (by decide)).trans
    (segState_startRamp _ n 0 _ segRampDown (by decide) (by decide))

theorem seg_rampDown (h : n < 24) :
    (d.rampDown n).seg n =
      { d.seg n with ext := 0, ramp := some { begun := false, a0 := (d.seg n).level, a1 := 0, k := 0, n := d.rampN n }, clamped := false,
                     driveCycles := 0 } := by
  rw [rampDown_of_level d n alone level]
  exact (seg_startRamp _ n 0 _ segRampDown h).trans (by rw [seg_putSeg d n _ h])

theorem held_rampDown (h : n < 24) : (d.rampDown n).held n = d.held n := by
  rw [rampDown_of_level d n alone level]
  exact (g_p_row_ne _ SEG_AMP_TARGET SEG_STATUS_HELD n n 0 rfl rfl (by decide)).trans (held_startRamp _ n n 0 _ segRampDown h)

end RampDown

/-- The segment follows the tag of the program's Step. -/
def Dev.tagged (d : Dev) (n : Nat) (tag : Option Nat) : Dev := d.putSeg n fun x => { x with tag := tag }

section FieldTag

variable (d : Dev) (n level : Nat) (tag : Option Nat) (h : n < 24) (alone : (d.seg n).partner = none)
include h alone

theorem rampLevel_of_tagged :
    (d.tagged n tag).rampLevel n level =
      ((d.tagged n tag).levelSet n level).startRamp n ((d.tagged n tag).fillLevel n level ((d.tagged n tag).extNow n tag)).1 (d.rampN n)
        (((d.tagged n tag).levelSet n level).riseState n) := by
  have record : (d.tagged n tag).seg n = { d.seg n with tag := tag } := seg_putSeg d n _ h
  have still : ((d.tagged n tag).seg n).partner = none := by rw [record]; exact alone
  rw [rampLevel_of_alone _ n level h still, record]
  rfl

end FieldTag

section Field

variable (s : State) (k : CallerId) (ra rb : GReg) (n : Seg) (i : Nat) (runs : s.dev.Runs k) (cur : (s.dev.caller k).cur = some i)
  (named : (s.dev.reg k ra).toNat = n.val) (own : (s.dev.seg n).owner = some (.slot i)) (alone : (s.dev.seg n).partner = none)
include runs cur named own

/-- FIELD 0 of an own segment: it falls, after the starts that its slot waited for there are given up. -/
theorem carries_field_zero (zero : (s.dev.reg k rb).toNat = 0) :
    Carries (.field k ra rb) s k ((s.dev.dropHeld n i).rampDown n) := by
  refine carries_field s k ra rb n i _ runs cur named n.isLt ?_ (fieldWork_rampDown _ n).fig
  rw [zero]
  exact fieldTo_zero s.dev n i _ own n.isLt

include alone

theorem field_zero_falls (zero : (s.dev.reg k rb).toNat = 0) (level : 0 < (s.dev.seg n).level) :
    ∃ e, Answers (.field k ra rb) s e ∧ s.dev.WentOn e k ∧ e.segState n = segRampDown
      ∧ e.Goes n (s.dev.seg n).level 0 (s.dev.rampN n) ∧ e.held n = s.dev.held n := by
  obtain ⟨sameLevel, -, samePartner⟩ := seg_dropHeld s.dev n i n.isLt
  have still := samePartner.trans alone
  have above : 0 < ((s.dev.dropHeld n i).seg n).level := by rw [sameLevel]; exact level
  refine ⟨_, carries_field_zero s k ra rb n i runs cur named own zero, wentOn_runAt _ _ k, ?_, ?_, ?_⟩
  · rw [runAt_segState, segState_rampDown _ n still above]
  · rw [Dev.Goes, runAt_seg, seg_rampDown _ n still above n.isLt, sameLevel]
    rfl
  · rw [runAt_held, held_rampDown _ n still above n.isLt]
    rfl

theorem field_zero_returns (zero : (s.dev.reg k rb).toNat = 0) (level : (s.dev.seg n).level = 0) (rising : regsRising 0 s.dev.regs = true)
    (room : s.dev.g FLD_BUDGET_FREE + s.dev.held n < 1024) :
    ∃ e, Answers (.field k ra rb) s e ∧ s.dev.WentOn e k ∧ (e.seg n).owner = none ∧ (e.seg n).ramp = none ∧ e.held n = 0
      ∧ e.g FLD_BUDGET_FREE = s.dev.g FLD_BUDGET_FREE + s.dev.held n := by
  obtain ⟨sameLevel, -, samePartner⟩ := seg_dropHeld s.dev n i n.isLt
  have ended := rampDown_of_zero (s.dev.dropHeld n i) n (samePartner.trans alone) (sameLevel.trans level)
  refine ⟨_, carries_field_zero s k ra rb n i runs cur named own zero, wentOn_runAt _ _ k, ?_, ?_, ?_, ?_⟩
  · rw [runAt_seg, ended, seg_segToZero _ n n.isLt]; rfl
  · rw [runAt_seg, ended, seg_segToZero _ n n.isLt]; rfl
  · rw [runAt_held, ended]; exact held_segToZero _ n n.isLt rising
  · rw [runAt_g, ended]; exact free_segToZero (s.dev.dropHeld n i) n n.isLt rising room

theorem carries_field_level (up : (s.dev.reg k rb).toNat ≠ 0) (first : s.dev.hasQueued n (.slot i) = false) :
    Carries (.field k ra rb) s k ((s.dev.tagged n (s.dev.progTag k)).rampLevel n (s.dev.reg k rb).toNat) := by
  refine carries_field s k ra rb n i _ runs cur named n.isLt (fieldTo_level s.dev n i _ _ own up first) ?_
  rw [rampLevel_of_tagged s.dev n _ _ n.isLt alone, (fieldWork_startRamp _ n _ _ _).fig, (fieldWork_levelSet _ n _).fig]
  rfl

theorem field_level_ramps (up : (s.dev.reg k rb).toNat ≠ 0) (first : s.dev.hasQueued n (.slot i) = false) :
    ∃ e, Answers (.field k ra rb) s e ∧ s.dev.WentOn e k ∧ (e.segState n = segRampUp ∨ e.segState n = segLevel)
      ∧ e.Goes n (s.dev.seg n).level
        ((s.dev.tagged n (s.dev.progTag k)).fillLevel n (s.dev.reg k rb).toNat ((s.dev.tagged n (s.dev.progTag k)).extNow n (s.dev.progTag k))).1
        (s.dev.rampN n)
      ∧ e.held n = s.dev.held n := by
  have work := fieldWork_levelSet (s.dev.tagged n (s.dev.progTag k)) n (s.dev.reg k rb).toNat
  have ramp := rampLevel_of_tagged s.dev n (s.dev.reg k rb).toNat (s.dev.progTag k) n.isLt alone
  refine ⟨_, carries_field_level s k ra rb n i runs cur named own alone up first, wentOn_runAt _ _ k, ?_, ?_, ?_⟩
  · rw [runAt_segState, ramp]
    rcases riseState_cases ((s.dev.tagged n (s.dev.progTag k)).levelSet n (s.dev.reg k rb).toNat) n with st | st
    · rw [st]; exact .inl (segState_startRamp _ n _ _ segRampUp (by decide) (by decide))
    · rw [st]; exact .inr (segState_startRamp _ n _ _ segLevel (by decide) (by decide))
  · rw [Dev.Goes, runAt_seg, ramp, seg_startRamp _ n _ _ _ n.isLt, seg_levelSet _ n _ n.isLt, Dev.tagged, seg_putSeg s.dev n _ n.isLt]
  · rw [runAt_held, ramp, held_startRamp _ n n _ _ _ n.isLt]
    exact work.segReg SEG_STATUS_HELD n rfl n.isLt (by decide)

end Field

section Glide

variable (s : State) (k : CallerId) (rd ra rb : GReg) (n m : Seg) (i : Nat) (runs : s.dev.Runs k) (cur : (s.dev.caller k).cur = some i)
  (named : (s.dev.reg k ra).toNat = n.val) (inn : (s.dev.reg k rb).toNat = m.val) (out : s.dev.segState n = segDrive)
  (idle : s.dev.segState m = segIdle) (pair : s.dev.coverPair n m = true) (own : (s.dev.seg m).owner = some (.slot i))
include runs cur named inn out idle pair own

theorem glide_ramps :
    ∃ e, Answers (.glide k rd ra rb) s e ∧ s.dev.WentOn e k ∧ e.segState n = segGlideOut ∧ e.segState m = segGlideIn
      ∧ e.Goes n (s.dev.seg n).level 0 (s.dev.rampN n)
      ∧ e.Goes m (s.dev.seg m).level (s.dev.fillLevel m (s.dev.reg k rd).toNat (s.dev.glideExt n m)).1 (s.dev.rampN n)
      ∧ (e.seg n).partner = some m.val ∧ (e.seg m).partner = some n.val
      ∧ (e.seg n).phase = some (s.dev.effPhase n) ∧ (e.seg m).phase = some (s.dev.effPhase n)
      ∧ e.held n = s.dev.held n ∧ e.held m = s.dev.held m := by
  have apart : n.val ≠ m.val := fun same => absurd (out.symm.trans ((congrArg s.dev.segState same).trans idle)) (by decide)
  have done := glideTo_of_granted s.dev n m i (s.dev.reg k rd).toNat out idle pair own
  have work := fieldWork_startGlide s.dev n m (s.dev.reg k rd).toNat n.isLt
  have outgoing := seg_startGlide_out s.dev n m (s.dev.reg k rd).toNat n.isLt apart
  have incoming := seg_startGlide_in s.dev n m (s.dev.reg k rd).toNat n.isLt m.isLt apart
  refine ⟨_, carries_glide s k rd ra rb n m i _ runs cur named inn done work.fig, wentOn_runAt _ _ k, ?_, ?_, ?_, ?_, ?_, ?_, ?_, ?_, ?_, ?_⟩
  · rw [runAt_segState, segState_startGlide_out s.dev n m _ n.isLt]
  · rw [runAt_segState, segState_startGlide_in s.dev n m _ n.isLt m.isLt apart]
  · rw [Dev.Goes, runAt_seg, outgoing]
  · rw [Dev.Goes, runAt_seg, incoming]
  · rw [runAt_seg, outgoing]
  · rw [runAt_seg, incoming]
  · rw [runAt_seg, outgoing]
  · rw [runAt_seg, incoming]
  · rw [runAt_held]; exact work.segReg SEG_STATUS_HELD n rfl n.isLt (by decide)
  · rw [runAt_held]; exact work.segReg SEG_STATUS_HELD m rfl m.isLt (by decide)

end Glide

/-- Where no claim of the owner waits, none tops the segment up. -/
theorem toppingUp_of_none (d : Dev) (n : Nat) (h : ∀ o, (d.seg n).owner = some o → d.hasQueued n o = false) : d.toppingUp n = false := by
  cases owner : (d.seg n).owner with
  | none => rw [Dev.toppingUp, owner]; rfl
  | some o => rw [Dev.toppingUp, owner]; exact h o owner

/-- Settles O19: each command's ramps are those of its lemma above. -/
theorem rampsGoWhereTheyAreSent : Obligations.RampsGoWhereTheyAreSent := by
  intro s n
  have hn := n.isLt
  refine ⟨fun driven level extended covered => ?_, fun st filled => ?_, fun k rd ra rb i runs cur named => ⟨fun own alone =>
    ⟨field_zero_falls s k ra rb n i runs cur named own alone, field_zero_returns s k ra rb n i runs cur named own alone,
      field_level_ramps s k ra rb n i runs cur named own alone⟩,
    fun m inn out idle pair own => glide_ramps s k rd ra rb n m i runs cur named inn out idle pair own⟩⟩
  · have up := fillUp_of_covered s.dev n driven level extended (covered.imp_right (toppingUp_of_none s.dev n))
    have record := seg_rampFill s.dev n (s.dev.fillExt n) hn
    exact ⟨_, (answers_fillRampUp s n).of_eq up, segState_rampFill s.dev n _ hn, congrArg SegState.ramp record, congrArg SegState.ext record,
      held_rampFill s.dev n _ hn⟩
  · have record := seg_fillDown s.dev n st filled hn
    exact ⟨_, answers_fillRampDown s n, segState_fillDown s.dev n st filled, congrArg SegState.ramp record, congrArg SegState.ext record,
      held_fillDown s.dev n st filled hn⟩

end Sys2Proof.Machine
end

section
/-!
The statement of 03_field_segments.md on tuning runs and REINSTATE.
-/

namespace Sys2Proof.Machine

open Dev (FieldWork)

/-! ### The start of a tuning run (R51, R66, R77) -/

theorem queuedTokens_of_none (d : Dev) (n : Nat) (o : ClaimOwner) (h : d.hasQueued n o = false) : d.queuedTokens n o = 0 := by
  have empty : (d.fld.claims.filter fun c => c.seg == n && c.owner == o) = [] :=
    List.filter_eq_nil_iff.mpr fun c hc named => Bool.false_ne_true (h.symm.trans (List.any_eq_true.mpr ⟨c, hc, named⟩))
  rw [Dev.queuedTokens, empty]
  rfl

/-- A claim that needs no calibration is taken where its segment is in service and driven, and the owner's limit has room (R66). -/
theorem claimTokens_of_room (d : Dev) (c : Claim) (serving : d.segIsRetired c.seg = false) (on : d.domTakes (fldDom c.seg) = true)
    (driven : d.vdrvLow = false)
    (room : (if d.hasGranted c.seg c.owner then d.held c.seg else 0) + d.queuedTokens c.seg c.owner + c.tokens
      ≤ if d.tempWarn c.seg then 50 else 100) :
    d.claimTokens c true = (false, d.inFld fun s => { s with claims := s.claims ++ [c] }) := by
  simp only [Dev.claimTokens, serving, on, driven, decide_eq_false (Nat.not_lt.mpr room), Bool.false_and, Bool.not_true, Bool.or_self,
    Bool.false_eq_true, if_false]

/-- What a tuning run's claim asks for: 4,095 stands for a calibration that the coil does not have. -/
def Dev.tuneNeeds (d : Dev) (n : Nat) : Nat :=
  tokensAt (if d.g SEG_CAL_FSP n = 0 ∨ d.g SEG_LOAD_VDRV_CAL n = 0 then 4095 else d.fspEff n) (d.g SEG_TUNE_TUNE_AMP n)

theorem tuneStart_of_busy (d : Dev) (n : Nat) (busy : d.segState n ≠ segIdle) : d.tuneStart n = d.p SEG_TUNE_FAIL n 1 := by
  have refused : (d.segState n != segIdle || d.hasQueued n .tune) = true := by rw [bne_iff_ne.mpr busy, Bool.true_or]
  simp only [Dev.tuneStart, refused, if_true]
  rfl

theorem tuneStart_of_idle (d : Dev) (n : Nat) (idle : d.segState n = segIdle) (first : d.hasQueued n .tune = false)
    (serving : d.segIsRetired n = false) (on : d.domTakes (fldDom n) = true) (driven : d.vdrvLow = false)
    (room : (if d.hasGranted n .tune then d.held n else 0) + d.tuneNeeds n ≤ if d.tempWarn n then 50 else 100) :
    d.tuneStart n =
      ((d.inFld fun f =>
        { f with claims := f.claims ++ [{ seg := n, owner := .tune, tokens := d.tuneNeeds n, prio := 0, cycle := d.cycle, caller := 8 }] }).p
        SEG_TUNE_FAIL n 0).p SEG_TUNE_DONE n 0 := by
  have accepted : (d.segState n != segIdle || d.hasQueued n .tune) = false := by rw [idle, first]; rfl
  have asked : tokensAt (if (d.g SEG_CAL_FSP n == 0 || d.g SEG_LOAD_VDRV_CAL n == 0) = true then 4095 else d.fspEff n)
      (d.g SEG_TUNE_TUNE_AMP n) = d.tuneNeeds n := by simp only [Dev.tuneNeeds, Bool.or_eq_true, beq_iff_eq]
  have most : (if d.tempWarn n = true then 50 else 100) ≤ 100 := by split <;> decide
  have within : ¬ 100 < d.tuneNeeds n := by omega
  have taken := claimTokens_of_room d
    { seg := n, owner := .tune, tokens := d.tuneNeeds n, prio := 0, cycle := d.cycle, caller := 8 } serving on driven
    (by simpa only [queuedTokens_of_none d n .tune first, Nat.add_zero] using room)
  simp only [Dev.tuneStart, accepted, Bool.false_eq_true, if_false, asked, if_neg within, taken]

theorem answers_tune (s : State) (t : Tenant) (n : Seg) (hadm : s.dev.admits t (0xA00 + 32 * n.val)) :
    Answers (.tune t n) s (s.dev.touched.tuneStart n) := by
  have run : exec (.tune t n) s = effect s fun d => d.hostWrite t (0xA00 + 32 * n) fun d => d.tuneStart n := rfl
  rw [Answers, run, effect_next, hostWrite_admits _ _ _ _ hadm]

/-! ### REINSTATE (R72) -/

theorem settles_reinstate (s : State) (t : Tenant) (n : Seg) (hadm : s.dev.admits t (0xA00 + 32 * n.val)) :
    Settles (.reinstate t n) s (s.dev.touched.reinstateReq n) :=
  settles_of_hostWrite (f := fun d => d.reinstateReq n) hadm rfl

/-- The temperature, VDRV or a thermal fault that stands forbids the return. -/
theorem reinstateReq_of_unfit (d : Dev) (n : Nat)
    (blocked : (d.g SEG_TEMP_WARN n : Int) - 10 ≤ d.gs SEG_TEMP_TEMP n ∨ d.vdrvLow = true ∨ d.tempFault n = true) :
    d.reinstateReq n = d := by
  have ignored : (!decide (d.gs SEG_TEMP_TEMP n < (d.g SEG_TEMP_WARN n : Int) - 10) || d.vdrvLow || d.tempFault n) = true := by
    rcases blocked with hot | low | fault
    · rw [decide_eq_false (Int.not_lt.mpr hot)]; rfl
    · rw [low, Bool.or_true, Bool.true_or]
    · rw [fault, Bool.or_true]
  simp only [Dev.reinstateReq, ignored, if_true]

section Reinstate

variable (d : Dev) (n : Nat) (cool : ¬ (d.g SEG_TEMP_WARN n : Int) - 10 ≤ d.gs SEG_TEMP_TEMP n) (driven : d.vdrvLow = false)
  (below : d.tempFault n = false)
include cool driven below

/-- A return that nothing forbids is the ring's to time. -/
theorem reinstateReq_of_fit :
    (∀ x, d.ringOfSeg n = some x → d.flag RING_STATUS_VALID x = true →
        d.reinstateReq n = d.putSeg n fun y => { y with reinstate := true })
      ∧ (d.ringOfSeg n = none → d.reinstateReq n = d.returnSeg n)
      ∧ ∀ x, d.ringOfSeg n = some x → d.flag RING_STATUS_VALID x = false → d.reinstateReq n = d.returnSeg n := by
  have taken : (!decide (d.gs SEG_TEMP_TEMP n < (d.g SEG_TEMP_WARN n : Int) - 10) || d.vdrvLow || d.tempFault n) = false := by
    rw [decide_eq_true (Int.not_le.mp cool), driven, below]
    rfl
  refine ⟨fun x ring valid => ?_, fun none => ?_, fun x ring invalid => ?_⟩
  · simp only [Dev.reinstateReq, taken, Bool.false_eq_true, if_false, ring, valid, if_true]
  · simp only [Dev.reinstateReq, taken, Bool.false_eq_true, if_false, none]
  · simp only [Dev.reinstateReq, taken, Bool.false_eq_true, if_false, ring, invalid]

end Reinstate

/-! ### The end of a tuning run (R51, R52) -/

theorem settles_tuneDone (s : State) (n : Seg) (imag : Nat) (iph : Int) (trip : Bool) :
    Settles (.tuneDone n imag iph trip) s (s.dev.tuneEnd n imag iph trip).refreshRetired := rfl

theorem tuneEnd_of_trip (d : Dev) (n imag : Nat) (iph : Int) (tuning : d.segState n = segTune) :
    d.tuneEnd n imag iph true = d.shortFault n := by
  simp only [Dev.tuneEnd, if_true, tuning]

theorem tuneEnd_of_early (d : Dev) (n imag : Nat) (iph : Int) (early : d.tuneOver n = false) : d.tuneEnd n imag iph false = d := by
  simp only [Dev.tuneEnd, Bool.false_eq_true, if_false, early, Bool.not_false, if_true]

section TuneEnd

variable (d : Dev) (n imag : Nat) (iph : Int) (full : d.tuneOver n = true)

/-- The fall of a run that has ended, with what it measured. -/
def Dev.measured (d : Dev) (n imag : Nat) (iph : Int) : Dev := ((d.rampDown n).p SEG_MEAS_IMAG n imag).ps SEG_MEAS_IPH n iph

include full

theorem tuneEnd_of_open (open' : imag < 5) : d.tuneEnd n imag iph false = (d.measured n imag iph).p SEG_TUNE_FAIL n 1 := by
  simp only [Dev.tuneEnd, Bool.false_eq_true, if_false, full, Bool.not_true, if_pos open']
  rfl

/-- A run that succeeds, of a coil whose base the run does not set (R360). -/
theorem tuneEnd_of_success (closed : 5 ≤ imag) (unfused : d.fuses.field = 0) (kept : d.health.rebase.contains n = false) :
    d.tuneEnd n imag iph false =
      let ro := Config.rout n (d.gs SEG_TEMP_TEMP n)
      let r := loadMicro ro (d.seg n).level (d.g FLD_VDRV_VDRV) imag iph
      (((((d.measured n imag iph).p SEG_LOAD_RLOAD n (loadField r)).p SEG_LOAD_VDRV_CAL n (d.g FLD_VDRV_VDRV)).p SEG_CAL_FSP n
        (fspOf ro (d.g FLD_VDRV_VDRV) r)).p SEG_TUNE_DONE n 1).p SEG_TUNE_FAIL n 0 := by
  have fell := fieldWork_rampDown d n
  have take : ((d.rampDown n).health.rebase.contains n || ((d.rampDown n).fuses.field != 0 && (vget (d.rampDown n).health.coilBase n none).isNone))
      = false := by
    rw [fell.rebase, fell.fuses, kept, unfused]
    rfl
  simp only [Dev.tuneEnd, Bool.false_eq_true, if_false, full, Bool.not_true, if_neg (Nat.not_lt.mpr closed)]
  refine (congrArg (fun b => Dev.when _ b _) take).trans ?_
  rfl

end TuneEnd

/-- Settles O20: the command's conditions choose its case, and each case is the one lemma above. -/
theorem tuningMeasuresTheCoil : Obligations.TuningMeasuresTheCoil := by
  intro s t n
  refine ⟨fun hadm => ⟨fun busy => ?_, fun idle first serving on driven room => ?_, fun blocked => ?_,
    fun cool driven below => ?_⟩,
    fun imag iph tuning => ⟨?_, fun early => ?_, fun full => ⟨fun open' => ?_, fun closed unfused kept => ?_⟩⟩⟩
  · exact (answers_tune s t n hadm).of_eq (tuneStart_of_busy s.dev.touched n busy)
  · exact (answers_tune s t n hadm).of_eq (tuneStart_of_idle s.dev.touched n idle first serving on driven room)
  · exact (settles_reinstate s t n hadm).of_eq (reinstateReq_of_unfit s.dev.touched n blocked)
  · have request := settles_reinstate s t n hadm
    have fit := reinstateReq_of_fit s.dev.touched n cool driven below
    exact ⟨fun x ring valid => request.of_eq (fit.1 x ring valid), fun none => request.of_eq (fit.2.1 none),
      fun x ring invalid => request.of_eq (fit.2.2 x ring invalid)⟩
  · exact (settles_tuneDone s n imag iph true).of_eq (congrArg Dev.refreshRetired (tuneEnd_of_trip s.dev n imag iph tuning))
  · exact (settles_tuneDone s n imag iph false).of_eq (congrArg Dev.refreshRetired (tuneEnd_of_early s.dev n imag iph early))
  · exact (settles_tuneDone s n imag iph false).of_eq (congrArg Dev.refreshRetired (tuneEnd_of_open s.dev n imag iph full open'))
  · exact (settles_tuneDone s n imag iph false).of_eq
      (congrArg Dev.refreshRetired (tuneEnd_of_success s.dev n imag iph full closed unfused kept))

end Sys2Proof.Machine
end

section
/-!
The statement of 03_field_segments.md on driver faults, junction temperatures and VDRV.
-/

namespace Sys2Proof.Machine

open Dev (FieldWork)

/-! ### A Glide left (R77) -/

theorem fieldWork_glideAbort (d : Dev) (o i : Nat) : FieldWork [SEG_FAULT_GLIDE_ABORT] d (d.glideAbort o i) :=
  ((FieldWork.refl _ d).segP SEG_FAULT_GLIDE_ABORT o 1 rfl (by decide)).segP SEG_FAULT_GLIDE_ABORT i 1 rfl (by decide)

/-- Two segments' records without the link between them. -/
def Dev.parted (d : Dev) (n m : Nat) : Dev :=
  (d.putSeg n fun x => { x with partner := none, phase := none }).putSeg m fun x => { x with partner := none, phase := none }

theorem seg_parted (d : Dev) (n m : Nat) (h : n < 24) : (d.parted n m).seg n = { d.seg n with partner := none, phase := none } := by
  by_cases same : n = m
  · subst same
    rw [Dev.parted, seg_putSeg _ n _ h, seg_putSeg d n _ h]
  · rw [Dev.parted, seg_putSeg_ne _ m n _ same, seg_putSeg d n _ h]

theorem leaveGlide_of_pair (d : Dev) (n m : Nat) (pair : (d.seg n).partner = some m) :
    d.leaveGlide n =
      if d.segState n = segGlideOut then (d.parted n m).putSegState m segRampUp
      else ((d.parted n m).glideAbort m n).startRamp m (((d.seg m).ramp.map (·.a0)).getD (d.seg m).level)
        (d.rampN m) segLevel := by
  simp only [Dev.leaveGlide, pair]
  rfl

theorem leaveGlide_of_alone (d : Dev) (n : Nat) (alone : (d.seg n).partner = none) : d.leaveGlide n = d := by
  simp only [Dev.leaveGlide, alone]

/-- The fields that a segment's leaving a Glide writes. -/
def leaveRows : List Row := SEG_FAULT_GLIDE_ABORT :: rampRows

theorem fieldWork_leaveGlide (d : Dev) (n : Nat) : FieldWork leaveRows d (d.leaveGlide n) := by
  cases pair : (d.seg n).partner with
  | none => rw [leaveGlide_of_alone d n pair]; exact .refl _ d
  | some m =>
    have apart : FieldWork leaveRows d (d.parted n m) := ((FieldWork.refl _ d).putSeg n _).putSeg m _
    rw [leaveGlide_of_pair d n m pair]
    split
    · exact apart.segP SEG_STATUS_STATE m segRampUp rfl (by decide)
    · exact (apart.trans ((fieldWork_glideAbort _ m n).mono (by decide))).trans ((fieldWork_startRamp _ m _ _ _).mono (by decide))

/-- Whatever the other segment does, the one that leaves stands alone at the level that it applies. -/
theorem seg_leaveGlide (d : Dev) (n : Nat) (h : n < 24) :
    ((d.leaveGlide n).seg n).partner = none ∧ ((d.leaveGlide n).seg n).level = (d.seg n).level := by
  cases pair : (d.seg n).partner with
  | none => rw [leaveGlide_of_alone d n pair]; exact ⟨pair, rfl⟩
  | some m =>
    have apart := seg_parted d n m h
    rw [leaveGlide_of_pair d n m pair]
    split
    · show ((d.parted n m).seg n).partner = none ∧ ((d.parted n m).seg n).level = _
      rw [apart]
      exact ⟨rfl, rfl⟩
    · have aborted : ((d.parted n m).glideAbort m n).seg n = (d.parted n m).seg n := rfl
      by_cases same : n = m
      · subst same
        rw [seg_startRamp _ n _ _ _ h, aborted, apart]
        exact ⟨rfl, rfl⟩
      · rw [seg_startRamp_ne _ m n _ _ _ same, aborted, apart]
        exact ⟨rfl, rfl⟩

/-! ### Retirement (R66, R70, R73) -/

theorem raise_fld (d : Dev) (code elem a0 a1 : Nat) : (d.raise code elem a0 a1).fld = d.fld := by rw [(aside_raise d code elem a0 a1).parts]

/-- The fields that new windows and their gaps write. -/
def gapRows : List Row := FLD_EVENTS_RING_GAP :: windowRows

theorem fieldWork_rewindow (d : Dev) (e : RingDef) (before : List (Nat × Nat)) : FieldWork gapRows d (d.rewindow e before) :=
  ((fieldWork_setAllWindows d).mono (by decide)).trans (FieldWork.each _ _
    (fun d g _ => ((FieldWork.refl _ d).p FLD_EVENTS_RING_GAP 0 1 (by decide)).raise codeRingGap e.ring g.1 g.2) _)

theorem rewindow_fld (d : Dev) (e : RingDef) (before : List (Nat × Nat)) : (d.rewindow e before).fld = d.fld :=
  (each_eq Dev.fld _ _ (fun d g _ => raise_fld (d.set1 FLD_EVENTS_RING_GAP) codeRingGap e.ring g.1 g.2) _).trans (setAllWindows_fld d)

/-- The fields that a retirement writes beside FLD_RETIRED. -/
def retireRows : List Row :=
  SEG_STATUS_RETIRED :: FLD_EVENTS_RETIRE :: HEALTH_SPARES_RETIRED :: SEG_TUNE_FAIL :: FLD_EVENTS_CLAIM_REFUSED :: SEG_FAULT_GLIDE_ABORT ::
    gapRows

/-- The segment's own marks of a retirement, and what its queued claims come to. -/
def Dev.retireMarks (d : Dev) (n : Nat) : Dev :=
  let d := (((d.setBit FLD_RETIRED_SEG 0 n).set1 SEG_STATUS_RETIRED n).set1 FLD_EVENTS_RETIRE).countRetired
  let d := d.when (d.hasQueued n .tune) fun d => d.set1 SEG_TUNE_FAIL n
  d.when (d.fld.claims.any fun c => c.seg == n) fun d => (d.dropClaims fun c => c.seg == n).claimRefused

/-- A start that waited on a retired segment is given up; a Glide into it is refused. -/
def Dev.retireStart (d : Dev) (n : Nat) : Dev :=
  match (d.seg n).heldStart with
  | none => d
  | some h =>
    let d := d.putSeg n fun x => { x with heldStart := none }
    match h.kind with
    | .glide o => d.glideAbort o n
    | _ => d

/-- The record of a retirement, and the windows of its ring. -/
def Dev.retireRecord (d : Dev) (n cause : Nat) (e : Option RingDef) (before : List (Nat × Nat)) : Dev :=
  let d := (d.freezeSeg n true).raise codeSegRetired n cause ((e.map (·.ring)).getD 0)
  match e with
  | none => d
  | some e => d.rewindow e before

theorem retireSeg_eq (d : Dev) (n cause : Nat) (serving : d.segIsRetired n = false) :
    d.retireSeg n cause =
      ((d.retireMarks n).retireStart n).retireRecord n cause (d.reel.active.bind fun r => r.ringOfSeg n)
        (((d.reel.active.bind fun r => r.ringOfSeg n).map d.gaps).getD []) := by
  simp only [Dev.retireSeg, serving, Bool.false_eq_true, if_false]
  rfl

theorem fieldWork_retireMarks (d : Dev) (n : Nat) : FieldWork retireRows (d.setBit FLD_RETIRED_SEG 0 n) (d.retireMarks n) := by
  have marked : FieldWork retireRows (d.setBit FLD_RETIRED_SEG 0 n)
      (((d.setBit FLD_RETIRED_SEG 0 n).set1 SEG_STATUS_RETIRED n).set1 FLD_EVENTS_RETIRE).countRetired :=
    (((FieldWork.refl _ _).segP SEG_STATUS_RETIRED n 1 rfl (by decide)).p FLD_EVENTS_RETIRE 0 1 (by decide)).p HEALTH_SPARES_RETIRED 0 _
      (by decide)
  rw [Dev.retireMarks]
  refine FieldWork.when (FieldWork.when marked _ _ ?_) _ _ ?_
  · exact (FieldWork.refl _ _).segP SEG_TUNE_FAIL n 1 rfl (by decide)
  · exact ((FieldWork.refl _ _).inFld _).p FLD_EVENTS_CLAIM_REFUSED 0 1 (by decide)

theorem fieldWork_retireStart (d : Dev) (n : Nat) : FieldWork retireRows d (d.retireStart n) := by
  rw [Dev.retireStart]
  split
  · exact .refl _ d
  · next h _ =>
    have dropped := (FieldWork.refl retireRows d).putSeg n fun x => { x with heldStart := none }
    cases h.kind with
    | glide o => exact dropped.trans ((fieldWork_glideAbort _ o n).mono (by decide))
    | level => exact dropped
    | fill ext => exact dropped

theorem fieldWork_retireRecord (d : Dev) (n cause : Nat) (e : Option RingDef) (before : List (Nat × Nat)) :
    FieldWork retireRows d (d.retireRecord n cause e before) := by
  have frozen : FieldWork retireRows d (d.freezeSeg n true) := (FieldWork.refl _ d).inHealth _ fun _ => rfl
  have raised := frozen.raise codeSegRetired n cause ((e.map (·.ring)).getD 0)
  cases e with
  | none => exact raised
  | some e => exact raised.trans ((fieldWork_rewindow _ e before).mono (by decide))

/-- A retirement that is new writes the segment's bit of FLD_RETIRED, and no other field that a level depends on. -/
theorem fieldWork_retireSeg_marked (d : Dev) (n cause : Nat) (serving : d.segIsRetired n = false) :
    FieldWork retireRows (d.setBit FLD_RETIRED_SEG 0 n) (d.retireSeg n cause) := by
  rw [retireSeg_eq d n cause serving]
  exact ((fieldWork_retireMarks d n).trans (fieldWork_retireStart _ n)).trans (fieldWork_retireRecord _ n cause _ _)

theorem retireSeg_of_retired (d : Dev) (n cause : Nat) (retired : d.segIsRetired n = true) : d.retireSeg n cause = d := by
  simp only [Dev.retireSeg, retired, if_true]

theorem fieldWork_retireSeg (d : Dev) (n cause : Nat) : FieldWork (FLD_RETIRED_SEG :: retireRows) d (d.retireSeg n cause) := by
  cases retired : d.segIsRetired n with
  | true => rw [retireSeg_of_retired d n cause retired]; exact .refl _ d
  | false =>
    exact ((FieldWork.refl _ d).p FLD_RETIRED_SEG 0 _ (by decide)).trans ((fieldWork_retireSeg_marked d n cause retired).mono (by decide))

theorem segIsRetired_retireSeg (d : Dev) (n cause : Nat) (h : n < 24) (rising : regsRising 0 d.regs = true) :
    (d.retireSeg n cause).segIsRetired n = true := by
  cases retired : d.segIsRetired n with
  | true => rw [retireSeg_of_retired d n cause retired, retired]
  | false =>
    have bit : (d.setBit FLD_RETIRED_SEG 0 n).g FLD_RETIRED_SEG = (d.g FLD_RETIRED_SEG ||| 2 ^ n) % 2 ^ 24 := g_p_same d FLD_RETIRED_SEG 0 _ rising
    rw [Dev.segIsRetired, (fieldWork_retireSeg_marked d n cause retired).g FLD_RETIRED_SEG 0 (by decide) (by decide), bit]
    rw [Nat.testBit_mod_two_pow, Nat.testBit_or, Nat.testBit_two_pow_self, decide_eq_true h, Bool.or_true]
    rfl

/-- Of the segment's record, a retirement changes the start that waited alone. -/
theorem seg_retireSeg (d : Dev) (n cause : Nat) (h : n < 24) : ∃ start, (d.retireSeg n cause).seg n = { d.seg n with heldStart := start } := by
  cases retired : d.segIsRetired n with
  | true => rw [retireSeg_of_retired d n cause retired]; exact ⟨_, rfl⟩
  | false =>
    have marks : (d.retireMarks n).seg n = d.seg n := by
      simp only [Dev.retireMarks, Dev.when]
      split <;> split <;> rfl
    have record : ∀ (e : Dev) o b, (e.retireRecord n cause o b).seg n = e.seg n := by
      intro e o b
      cases o with
      | none => exact seg_eq_of_fld (raise_fld (e.freezeSeg n true) _ _ _ _) n
      | some o => exact seg_eq_of_fld ((rewindow_fld _ o b).trans (raise_fld (e.freezeSeg n true) _ _ _ _)) n
    have start : ∀ e : Dev, ∃ start, (e.retireStart n).seg n = { e.seg n with heldStart := start } := by
      intro e
      rw [Dev.retireStart]
      split
      · exact ⟨_, rfl⟩
      · refine ⟨none, ?_⟩
        dsimp only
        split
        · exact seg_putSeg e n _ h
        · exact seg_putSeg e n _ h
    rw [retireSeg_eq d n cause retired, record]
    exact marks ▸ start (d.retireMarks n)

/-! ### What a retirement changes beyond the field (R76, R145) -/

/-- Firings and windows have been taken anew: the segments are as they were, and of the registers only the lanes' FIRST has changed. -/
structure Dev.Refreshed (d e : Dev) : Prop where
  fld : e.fld = d.fld
  again : e.fig.again = d.fig.again
  regs : ∀ k, k % 1024 ≠ LN_CFG_FIRST.seat → e.look k = d.look k

namespace Dev.Refreshed

variable {d e f : Dev}

theorem refl (d : Dev) : Refreshed d d := ⟨rfl, rfl, fun _ _ => rfl⟩

theorem trans (h : Refreshed d e) (k : Refreshed e f) : Refreshed d f where
  fld := k.fld.trans h.fld
  again := k.again.trans h.again
  regs := fun i seat => (k.regs i seat).trans (h.regs i seat)

theorem each {α : Type} (l : List α) (u : Dev → α → Dev) (h : ∀ (d : Dev) x, Refreshed d (u d x)) (d : Dev) : Refreshed d (d.each l u) := by
  induction l generalizing d with
  | nil => exact .refl d
  | cons a l ih => exact (h d a).trans (ih (u d a))

theorem seg (h : Refreshed d e) (n : Nat) : e.seg n = d.seg n := seg_eq_of_fld h.fld n

theorem g (h : Refreshed d e) (r : Row) (n : Nat) (seat : r.key n % 1024 ≠ LN_CFG_FIRST.seat) : e.g r n = d.g r n :=
  g_eq_of_look d e r n (h.regs _ seat)

theorem segReg (h : Refreshed d e) (r : Row) (n : Nat) (hr : r.ofSegment = true) (seat : r.seat ≠ LN_CFG_FIRST.seat) : e.g r n = d.g r n :=
  h.g r n (by rwa [seat_of_segment r n hr])

end Dev.Refreshed

open Dev (Refreshed)

theorem refreshed_fireSeg (d : Dev) (f : Fire) (mask : Nat) : Refreshed d (d.fireSeg f mask).2 := by
  simp only [Dev.fireSeg]
  split
  · exact .refl d
  · split
    · exact .refl d
    · exact ⟨rfl, rfl, fun _ _ => rfl⟩

theorem refreshed_refire (l : List Fire) (d : Dev) : Refreshed d (d.refire l).2 := by
  induction l generalizing d with
  | nil => exact .refl d
  | cons f l ih =>
    simp only [Dev.refire]
    split
    · exact ih d
    · exact (refreshed_fireSeg d f _).trans (ih _)

theorem refreshed_refreshFires (d : Dev) : Refreshed d d.refreshFires := by
  have due : Refreshed d ((d.refire d.fig.due).2.inFig fun s => { s with due := (d.refire d.fig.due).1 }) :=
    (refreshed_refire d.fig.due d).trans ⟨rfl, rfl, fun _ _ => rfl⟩
  refine due.trans (Refreshed.each _ _ (fun e k => ?_) _)
  exact (refreshed_refire (e.caller k).queue e).trans ⟨rfl, rfl, fun _ _ => rfl⟩

theorem refreshed_refreshWindow (d : Dev) (l : Nat) : Refreshed d (d.refreshWindow l) := by
  have first : LN_CFG_FIRST.key l % 1024 = LN_CFG_FIRST.seat := by
    simp only [Row.seat, Row.key, LN_CFG_FIRST]
    omega
  have shown : ∀ f v, Refreshed d ((d.putLane l f).p LN_CFG_FIRST l v) := fun f v =>
    ⟨rfl, rfl, fun k seat => look_p_ne (d.putLane l f) LN_CFG_FIRST l v k (by rintro rfl; exact seat first)⟩
  simp only [Dev.refreshWindow]
  split
  · exact .refl d
  · split
    · exact .refl d
    · exact shown _ _

theorem refreshed_refreshRetired (d : Dev) : Refreshed d d.refreshRetired :=
  (refreshed_refreshFires d).trans (Refreshed.each _ _ refreshed_refreshWindow _)

/-! ### The exchange that a fault breaks (R13, R71) -/

theorem mem_again_repeatSlot (d : Dev) (i k : Nat) (x : Slot) (slot : d.slot i = some x) (step : x.step = some k) :
    k ∈ (d.repeatSlot i).fig.again := by
  have named : (d.slot i).bind (·.step) = some k := by rw [slot]; exact step
  simp only [Dev.repeatSlot, named]
  show k ∈ if d.fig.again.contains k then d.fig.again else d.fig.again ++ [k]
  split
  · next there => exact List.contains_iff_mem.mp there
  · exact List.mem_append_right _ List.mem_cons_self

theorem mem_again_repeatSeg (d : Dev) (n i k : Nat) (x : Slot) (owner : (d.seg n).owner = some (.slot i)) (slot : d.slot i = some x)
    (step : x.step = some k) : k ∈ (d.repeatSeg n).fig.again := by
  simp only [Dev.repeatSeg, owner]
  exact mem_again_repeatSlot d i k x slot step

theorem repeatSlot_regs (d : Dev) (i : Nat) : (d.repeatSlot i).regs = d.regs := by
  rw [Dev.repeatSlot]
  split <;> rfl

theorem repeatSlot_fld (d : Dev) (i : Nat) : (d.repeatSlot i).fld = d.fld := by
  rw [Dev.repeatSlot]
  split <;> rfl

theorem repeatSeg_regs (d : Dev) (n : Nat) : (d.repeatSeg n).regs = d.regs := by
  rw [Dev.repeatSeg]
  split
  · exact repeatSlot_regs d _
  · rfl

theorem repeatSeg_fld (d : Dev) (n : Nat) : (d.repeatSeg n).fld = d.fld := by
  rw [Dev.repeatSeg]
  split
  · exact repeatSlot_fld d _
  · rfl

/-! ### A fall, and the faults (R70) -/

theorem fieldWork_fall (d : Dev) (n : Nat) : FieldWork zeroRows d (d.fall n) := by
  rw [Dev.fall]
  split
  · exact .refl _ d
  · exact fieldWork_rampDown d n

/-- A segment in no Glide that applies a level falls from it. -/
theorem fall_of_level (d : Dev) (n : Nat) (h : n < 24) (alone : (d.seg n).partner = none) (level : 0 < (d.seg n).level) :
    (d.fall n).segState n = segRampDown ∧ ((d.fall n).seg n).level = (d.seg n).level := by
  rw [Dev.fall]
  split
  · next falling => exact ⟨falling, rfl⟩
  · exact ⟨segState_rampDown d n alone level, by rw [seg_rampDown d n alone level h]⟩

/-- The segment as a fault takes it out of its run and its Glide. -/
def Dev.released (d : Dev) (n : Nat) : Dev := (d.failTune n).leaveGlide n

/-- The fields that a segment's release writes. -/
def releaseRows : List Row := SEG_TUNE_FAIL :: leaveRows

theorem fieldWork_released (d : Dev) (n : Nat) : FieldWork releaseRows d (d.released n) :=
  ((FieldWork.refl _ d).when _ _ ((FieldWork.refl _ d).segP SEG_TUNE_FAIL n 1 rfl (by decide))).trans ((fieldWork_leaveGlide _ n).mono (by decide))

theorem seg_failTune (d : Dev) (n m : Nat) : (d.failTune n).seg m = d.seg m := by
  rw [Dev.failTune, Dev.when]
  split <;> rfl

theorem seg_released (d : Dev) (n : Nat) (h : n < 24) :
    ((d.released n).seg n).partner = none ∧ ((d.released n).seg n).level = (d.seg n).level := by
  have left := seg_leaveGlide (d.failTune n) n h
  rw [seg_failTune] at left
  exact left

/-- The fields that a fault may write beside its own flag. -/
def faultRows : List Row := FLD_RETIRED_SEG :: (retireRows ++ releaseRows ++ zeroRows)

section SlowFault

variable (d : Dev) (n cause : Nat)

theorem fieldWork_slowFault : FieldWork faultRows d (d.slowFault n cause) :=
  (((fieldWork_released d n).mono (by decide)).trans ((fieldWork_retireSeg _ n cause).mono (by decide))).trans
    ((fieldWork_fall _ n).mono (by decide))

variable (h : n < 24)
include h

theorem segIsRetired_slowFault (rising : regsRising 0 d.regs = true) : (d.slowFault n cause).segIsRetired n = true := by
  have retired := segIsRetired_retireSeg (d.released n) n cause h ((fieldWork_released d n).rising rising)
  exact (congrArg (Nat.testBit · n) ((fieldWork_fall ((d.released n).retireSeg n cause) n).g FLD_RETIRED_SEG 0 (by decide) (by decide))).trans
    retired

/-- A retired segment falls from the level that it applies (R70). -/
theorem slowFault_falls (level : 0 < (d.seg n).level) :
    (d.slowFault n cause).segState n = segRampDown ∧ ((d.slowFault n cause).seg n).level = (d.seg n).level := by
  obtain ⟨start, record⟩ := seg_retireSeg (d.released n) n cause h
  obtain ⟨alone, same⟩ := seg_released d n h
  have applied : (((d.released n).retireSeg n cause).seg n).level = (d.seg n).level := by rw [record]; exact same
  have falls := fall_of_level ((d.released n).retireSeg n cause) n h (by rw [record]; exact alone) (by rw [applied]; exact level)
  rw [applied] at falls
  exact falls

end SlowFault

section ShortFault

variable (d : Dev) (n : Nat)

/-- The segment of a short, retired and about to be braked. -/
def Dev.shorted (d : Dev) (n : Nat) : Dev := ((d.released n).set1 SEG_FAULT_SHORT n).retireSeg n 2

theorem fieldWork_shorted : FieldWork (SEG_FAULT_SHORT :: faultRows) d (d.shorted n) :=
  (((fieldWork_released d n).mono (by decide)).segP SEG_FAULT_SHORT n 1 rfl (by decide)).trans ((fieldWork_retireSeg _ n 2).mono (by decide))

theorem fieldWork_shortFault : FieldWork (SEG_FAULT_SHORT :: faultRows) d (d.shortFault n) :=
  (fieldWork_shorted d n).trans ((fieldWork_segToZero _ n).mono (by decide))

variable (h : n < 24) (rising : regsRising 0 d.regs = true)
include h

theorem flag_short_shortFault : (d.shortFault n).flag SEG_FAULT_SHORT n = true := by
  have after : FieldWork faultRows ((d.released n).set1 SEG_FAULT_SHORT n) (d.shortFault n) :=
    ((fieldWork_retireSeg _ n 2).mono (by decide)).trans ((fieldWork_segToZero _ n).mono (by decide))
  have kept := after.segReg SEG_FAULT_SHORT n rfl h (by decide)
  rw [Dev.flag, kept]
  exact flag_set1 (d.released n) SEG_FAULT_SHORT n (by decide) (by simp [Row.resetOf, SEG_FAULT_SHORT])

include rising

theorem segIsRetired_shorted : (d.shorted n).segIsRetired n = true :=
  segIsRetired_retireSeg _ n 2 h (p_rising _ _ _ _ ((fieldWork_released d n).rising rising))

theorem segIsRetired_shortFault : (d.shortFault n).segIsRetired n = true :=
  (segIsRetired_segToZero (d.shorted n) n n).trans (segIsRetired_shorted d n h rising)

theorem segState_shortFault : (d.shortFault n).segState n = segRetired :=
  (segState_segToZero (d.shorted n) n ((fieldWork_shorted d n).rising rising)).trans (if_pos (segIsRetired_shorted d n h rising))

theorem held_shortFault : (d.shortFault n).held n = 0 := held_segToZero (d.shorted n) n h ((fieldWork_shorted d n).rising rising)

end ShortFault

theorem settles_segShort (s : State) (n : Seg) : Settles (.segShort n) s ((s.dev.repeatSeg n).shortFault n).refreshRetired := rfl

theorem settles_segOpen (s : State) (n : Seg) :
    Settles (.segOpen n) s (((s.dev.repeatSeg n).p SEG_FAULT_OPEN n 1).slowFault n 1).refreshRetired := rfl

/-- A short: the brake, the marks of the retirement, and the exchange that runs again. -/
theorem segShort_leaves (d : Dev) (n : Nat) (h : n < 24) (rising : regsRising 0 d.regs = true) :
    let e := ((d.repeatSeg n).shortFault n).refreshRetired
    (e.seg n).level = 0 ∧ (e.seg n).ramp = none ∧ e.held n = 0 ∧ e.segIsRetired n = true ∧ e.flag SEG_FAULT_SHORT n = true
      ∧ e.segState n = segRetired
      ∧ ∀ i x k, (d.seg n).owner = some (.slot i) → d.slot i = some x → x.step = some k → k ∈ e.fig.again := by
  have after := refreshed_refreshRetired ((d.repeatSeg n).shortFault n)
  have rising' : regsRising 0 (d.repeatSeg n).regs = true := by rw [repeatSeg_regs]; exact rising
  have record := (after.seg n).trans (seg_segToZero ((d.repeatSeg n).shorted n) n h)
  refine ⟨by rw [record]; rfl, by rw [record]; rfl, ?_, ?_, ?_, ?_, fun i x k owner slot step => ?_⟩
  · exact (after.segReg SEG_STATUS_HELD n rfl (by decide)).trans (held_shortFault _ n h rising')
  · exact (congrArg (Nat.testBit · n) (after.g FLD_RETIRED_SEG 0 (by decide))).trans (segIsRetired_shortFault _ n h rising')
  · exact (congrArg (· != 0) (after.segReg SEG_FAULT_SHORT n rfl (by decide))).trans (flag_short_shortFault _ n h)
  · exact (after.segReg SEG_STATUS_STATE n rfl (by decide)).trans (segState_shortFault _ n h rising')
  · rw [after.again, (fieldWork_shortFault _ n).fig]
    exact mem_again_repeatSeg d n i k x owner slot step

/-- A fault that lets its segment fall: its flag and the retirement stand. -/
theorem flagged_slowFault (d : Dev) (r : Row) (n cause : Nat) (reset : r.resetOf n = 0) (width : 1 % 2 ^ r.width = 1)
    (own : r.seat ∉ faultRows.map Row.seat) (lane : r.seat ≠ LN_CFG_FIRST.seat) (hr : r.ofSegment = true) (h : n < 24)
    (rising : regsRising 0 d.regs = true) :
    ((d.p r n 1).slowFault n cause).refreshRetired.segIsRetired n = true
      ∧ ((d.p r n 1).slowFault n cause).refreshRetired.flag r n = true := by
  have after := refreshed_refreshRetired ((d.p r n 1).slowFault n cause)
  constructor
  · exact (congrArg (Nat.testBit · n) (after.g FLD_RETIRED_SEG 0 (by decide))).trans
      (segIsRetired_slowFault (d.p r n 1) n cause h (p_rising d r n 1 rising))
  · have kept := (after.segReg r n hr lane).trans ((fieldWork_slowFault (d.p r n 1) n cause).segReg r n hr h own)
    rw [Dev.flag, kept]
    exact flag_set1 d r n width reset

/-- A segment that a slow fault finds at a level falls from it. -/
theorem flagged_slowFault_falls (d : Dev) (r : Row) (n cause : Nat) (h : n < 24) (level : 0 < (d.seg n).level) :
    (((d.repeatSeg n).p r n 1).slowFault n cause).refreshRetired.segState n = segRampDown
      ∧ ((((d.repeatSeg n).p r n 1).slowFault n cause).refreshRetired.seg n).level = (d.seg n).level := by
  have after := refreshed_refreshRetired (((d.repeatSeg n).p r n 1).slowFault n cause)
  have same : ((d.repeatSeg n).p r n 1).seg n = d.seg n := seg_eq_of_fld (repeatSeg_fld d n) n
  obtain ⟨state, applied⟩ := slowFault_falls ((d.repeatSeg n).p r n 1) n cause h (by rw [same]; exact level)
  exact ⟨(after.segReg SEG_STATUS_STATE n rfl (by decide)).trans state, by rw [after.seg n, applied, same]⟩

/-! ### The junction sensors (R70) -/

/-- A reading in the range of its field reads back as it is. -/
theorem signedOf_fieldOf (temp : Int) (low : -256 ≤ temp) (high : temp < 256) : signedOf 9 (fieldOf 9 temp % 2 ^ 9) = temp := by
  rw [signedOf, fieldOf]
  by_cases negative : temp < 0
  · rw [if_neg (by omega)]; omega
  · rw [if_pos (by omega)]; omega

theorem tempWarn_tempRead (d : Dev) (n : Nat) (temp : Int) (rising : regsRising 0 d.regs = true) (low : -256 ≤ temp) (high : temp < 256) :
    (d.tempRead n temp).tempWarn n = decide ((d.g SEG_TEMP_WARN n : Int) ≤ temp) := by
  have warn : (d.tempRead n temp).g SEG_TEMP_WARN n = d.g SEG_TEMP_WARN n :=
    g_p_row_ne d SEG_TEMP_TEMP SEG_TEMP_WARN n n _ rfl rfl (by decide)
  have read : (d.tempRead n temp).g SEG_TEMP_TEMP n = fieldOf 9 temp % 2 ^ 9 := g_p_same d SEG_TEMP_TEMP n _ rising
  have value : (d.tempRead n temp).gs SEG_TEMP_TEMP n = temp := by
    rw [Dev.gs, read]
    exact signedOf_fieldOf temp low high
  rw [Dev.tempWarn, warn, value]

theorem warn_shown (d : Dev) (n : Nat) : (d.fieldValue SEG_STATUS_WARN n).1 = flagOf (d.tempWarn n) := rfl

theorem answers_thermalFault_of_cool (s : State) (n : Seg) (temp : Int) (cool : (s.dev.tempRead n temp).tempFault n = false) :
    Answers (.thermalFault n temp) s (s.dev.tempRead n temp) := by
  have run : exec (.thermalFault n temp) s = execThermalFault n temp s := rfl
  simp only [Answers, run, execThermalFault, effect_next, cool, Bool.false_eq_true, if_false]

theorem settles_thermalFault_of_hot (s : State) (n : Seg) (temp : Int) (hot : (s.dev.tempRead n temp).tempFault n = true) :
    Settles (.thermalFault n temp) s ((((s.dev.tempRead n temp).repeatSeg n).p SEG_FAULT_THERM n 1).slowFault n 3).refreshRetired := by
  have run : exec (.thermalFault n temp) s = execThermalFault n temp s := rfl
  simp only [Settles, Answers, run, execThermalFault, effect_next, hot, if_true]
  rfl

/-! ### VDRV low, and back (R70) -/

/-- What one step over a list establishes and the others keep stands at the list's end. -/
theorem each_establishes {α : Type} (l : List α) (f : Dev → α → Dev) (inv goal : Dev → Prop) (a : α) (ha : a ∈ l)
    (keeps : ∀ d x, inv d → inv (f d x)) (gives : ∀ d, inv d → goal (f d a)) (stays : ∀ d x, x ≠ a → goal d → goal (f d x))
    (d : Dev) (start : inv d) : goal (d.each l f) := by
  have holds : ∀ (l : List α) (d : Dev), inv d → goal d → goal (d.each l f) := by
    intro l
    induction l with
    | nil => exact fun _ _ there => there
    | cons x l ih =>
      intro d start there
      refine ih (f d x) (keeps d x start) ?_
      by_cases same : x = a
      · exact same ▸ gives d start
      · exact stays d x same there
  induction l generalizing d with
  | nil => cases ha
  | cons x l ih =>
    rcases List.mem_cons.mp ha with rfl | later
    · exact holds l (f d a) (keeps d a start) (gives d start)
    · exact ih later (f d x) (keeps d x start)

/-- The brake of one driver at a fall of VDRV. -/
def Dev.brakeOne (d : Dev) (n : Nat) : Dev :=
  if d.segIsRetired n then d.segToZero n
  else ((d.brakeSeg n).putSegState n segBraked).when (d.segState n == segTune) fun d => d.set1 SEG_TUNE_FAIL n

theorem fieldWork_brakeOne (d : Dev) (n : Nat) : FieldWork (SEG_TUNE_FAIL :: zeroRows) d (d.brakeOne n) := by
  have zero : FieldWork (SEG_TUNE_FAIL :: zeroRows) d (d.segToZero n) := (fieldWork_segToZero d n).mono (by decide)
  rw [Dev.brakeOne]
  split
  · exact zero
  · exact (zero.segP SEG_STATUS_STATE n segBraked rfl (by decide)).when _ _ ((FieldWork.refl _ _).segP SEG_TUNE_FAIL n 1 rfl (by decide))

/-- A segment braked: it applies nothing and holds nothing. -/
structure Dev.Braked (d : Dev) (m : Nat) : Prop where
  level : (d.seg m).level = 0
  ramp : (d.seg m).ramp = none
  held : d.held m = 0
  state : d.segIsRetired m = false → d.segState m = segBraked

theorem segIsRetired_brakeOne (d : Dev) (n m : Nat) : (d.brakeOne n).segIsRetired m = d.segIsRetired m :=
  congrArg (Nat.testBit · m) ((fieldWork_brakeOne d n).g FLD_RETIRED_SEG 0 (by decide) (by decide))

theorem seg_brakeOne (d : Dev) (n m : Nat) : (d.brakeOne n).seg m = (d.segToZero n).seg m := by
  rw [Dev.brakeOne]
  split
  · rfl
  · rw [Dev.when]
    split <;> rfl

theorem held_brakeOne (d : Dev) (n m : Nat) : (d.brakeOne n).held m = (d.segToZero n).held m := by
  have state : ∀ v, ((d.segToZero n).putSegState n v).held m = (d.segToZero n).held m := fun v =>
    g_p_row_ne _ SEG_STATUS_STATE SEG_STATUS_HELD n m v rfl rfl (by decide)
  rw [Dev.brakeOne]
  split
  · rfl
  · rw [Dev.when]
    split
    · exact (g_p_row_ne _ SEG_TUNE_FAIL SEG_STATUS_HELD n m 1 rfl rfl (by decide)).trans (state _)
    · exact state _

theorem segState_brakeOne (d : Dev) (n : Nat) (serving : d.segIsRetired n = false) : (d.brakeOne n).segState n = segBraked := by
  have braked := segState_putSegState (d.segToZero n) n segBraked (by decide) (by decide)
  simp only [Dev.brakeOne, serving, Bool.false_eq_true, if_false, Dev.when]
  split
  · exact (g_p_row_ne _ SEG_TUNE_FAIL SEG_STATUS_STATE n n 1 rfl rfl (by decide)).trans braked
  · exact braked

theorem segState_brakeOne_ne (d : Dev) (n m : Nat) (hm : m < 24) (h : m ≠ n) : (d.brakeOne n).segState m = d.segState m := by
  have zero := segState_segToZero_ne d n m hm h
  have braked : ((d.segToZero n).putSegState n segBraked).segState m = d.segState m := (segState_putSegState_ne _ n m _ h).trans zero
  rw [Dev.brakeOne]
  split
  · exact zero
  · rw [Dev.when]
    split
    · exact (g_p_row_ne _ SEG_TUNE_FAIL SEG_STATUS_STATE n m 1 rfl rfl (by decide)).trans braked
    · exact braked

theorem braked_brakeOne (d : Dev) (m : Nat) (hm : m < 24) (rising : regsRising 0 d.regs = true) : (d.brakeOne m).Braked m where
  level := by rw [seg_brakeOne, seg_segToZero d m hm]; rfl
  ramp := by rw [seg_brakeOne, seg_segToZero d m hm]; rfl
  held := (held_brakeOne d m m).trans (held_segToZero d m hm rising)
  state := fun serving => segState_brakeOne d m ((segIsRetired_brakeOne d m m).symm.trans serving)

theorem braked_brakeOne_ne (d : Dev) (n m : Nat) (hm : m < 24) (h : n ≠ m) (braked : d.Braked m) : (d.brakeOne n).Braked m where
  level := by rw [seg_brakeOne, seg_segToZero_ne d n m h.symm]; exact braked.level
  ramp := by rw [seg_brakeOne, seg_segToZero_ne d n m h.symm]; exact braked.ramp
  held := (held_brakeOne d n m).trans ((held_segToZero_ne d n m hm h.symm).trans braked.held)
  state := fun serving => (segState_brakeOne_ne d n m hm h.symm).trans (braked.state ((segIsRetired_brakeOne d n m).symm.trans serving))

/-- A loopback run that ends writes its result alone. -/
theorem refuseLoop_g (d : Dev) (r : Row) (n : Nat) (low : r.key n < 0x1F01 * 32) : d.refuseLoop.g r n = d.g r n := by
  rw [Dev.refuseLoop]
  split
  · have done : r.key n ≠ TEST_LOOP_RESULT_DONE.key 0 := fun same => absurd (same ▸ low) (by decide)
    have refused : r.key n ≠ TEST_LOOP_RESULT_REFUSED.key 0 := fun same => absurd (same ▸ low) (by decide)
    exact (g_p_ne _ TEST_LOOP_RESULT_REFUSED r 0 n 1 refused).trans
      ((g_p_ne _ TEST_LOOP_RESULT_DONE r 0 n 1 done).trans (g_clearRegs_out _ 0x1F01 0x1F01 r n (.inl low)))
  · rfl

theorem refuseLoop_rising (d : Dev) (rising : regsRising 0 d.regs = true) : regsRising 0 d.refuseLoop.regs = true := by
  rw [Dev.refuseLoop]
  split
  · exact p_rising _ _ _ _ (p_rising _ _ _ _ (clearRegs_rising _ _ _ rising))
  · exact rising

section BrakeAll

variable (d : Dev)

theorem fieldWork_brakeAll : FieldWork (SEG_TUNE_FAIL :: zeroRows) d.refuseLoop d.brakeAll :=
  FieldWork.each _ _ (fun d n _ => fieldWork_brakeOne d n) _

/-- A field of the FLD words that no brake writes. -/
theorem brakeAll_g (r : Row) (low : r.key 0 < 0x1F01 * 32) (aside : asideWord (r.key 0 / 32) = false)
    (seat : r.key 0 % 1024 ∉ (SEG_TUNE_FAIL :: zeroRows).map Row.seat) : d.brakeAll.g r = d.g r :=
  ((fieldWork_brakeAll d).g r 0 aside seat).trans (refuseLoop_g d r 0 low)

theorem braked_brakeAll (m : Nat) (hm : m < 24) (rising : regsRising 0 d.regs = true) : d.brakeAll.Braked m :=
  each_establishes (List.range 24) Dev.brakeOne (fun e => regsRising 0 e.regs = true) (fun e => e.Braked m) m (List.mem_range.mpr hm)
    (fun e n => (fieldWork_brakeOne e n).rising) (fun e => braked_brakeOne e m hm) (fun e n h => braked_brakeOne_ne e n m hm h) _
    (refuseLoop_rising d rising)

theorem segIsRetired_brakeAll (m : Nat) : d.brakeAll.segIsRetired m = d.segIsRetired m :=
  congrArg (Nat.testBit · m) (brakeAll_g d FLD_RETIRED_SEG (by decide) (by decide) (by decide))

end BrakeAll

/-- The registers at a fall of VDRV. -/
def Dev.drvFell (d : Dev) (mv : Nat) : Dev := ((d.p FLD_VDRV_VDRV 0 mv).set1 FLD_VDRV_LOW).set1 FLD_EVENTS_VDRV_LOW

theorem fieldWork_drvFell (d : Dev) (mv : Nat) : FieldWork [FLD_VDRV_VDRV, FLD_VDRV_LOW, FLD_EVENTS_VDRV_LOW] d (d.drvFell mv) :=
  (((FieldWork.refl _ d).p FLD_VDRV_VDRV 0 mv (by decide)).p FLD_VDRV_LOW 0 1 (by decide)).p FLD_EVENTS_VDRV_LOW 0 1 (by decide)

theorem answers_vdrvLow (s : State) (mv : Nat) : Answers (.vdrvLow mv) s (s.dev.drvFell mv).brakeAll := rfl

theorem vdrvLow_leaves (d : Dev) (mv : Nat) (rising : regsRising 0 d.regs = true) :
    (d.drvFell mv).brakeAll.flag FLD_VDRV_LOW = true ∧ (d.drvFell mv).brakeAll.flag FLD_EVENTS_VDRV_LOW = true
      ∧ (d.drvFell mv).brakeAll.g FLD_VDRV_VDRV = mv % 2 ^ FLD_VDRV_VDRV.width := by
  refine ⟨?_, ?_, ?_⟩
  · rw [Dev.flag, brakeAll_g _ FLD_VDRV_LOW (by decide) (by decide) (by decide), Dev.drvFell, Dev.set1,
      g_p_ne _ FLD_EVENTS_VDRV_LOW FLD_VDRV_LOW 0 0 1 (by decide)]
    exact flag_set1 _ FLD_VDRV_LOW 0 (by decide) (by decide)
  · rw [Dev.flag, brakeAll_g _ FLD_EVENTS_VDRV_LOW (by decide) (by decide) (by decide)]
    exact flag_set1 _ FLD_EVENTS_VDRV_LOW 0 (by decide) (by decide)
  · rw [brakeAll_g _ FLD_VDRV_VDRV (by decide) (by decide) (by decide), Dev.drvFell, Dev.set1, Dev.set1,
      g_p_ne _ FLD_EVENTS_VDRV_LOW FLD_VDRV_VDRV 0 0 1 (by decide), g_p_ne _ FLD_VDRV_LOW FLD_VDRV_VDRV 0 0 1 (by decide)]
    exact g_p_same d FLD_VDRV_VDRV 0 mv rising

/-- A brake opened: a braked segment is IDLE. -/
def Dev.openBrake (d : Dev) (n : Nat) : Dev := d.when (d.segState n == segBraked) fun d => d.putSegState n segIdle

/-- The registers at a return of VDRV. -/
def Dev.drvBack (d : Dev) (mv : Nat) : Dev := (d.p FLD_VDRV_VDRV 0 mv).p FLD_VDRV_LOW 0 0

theorem fieldWork_drvBack (d : Dev) (mv : Nat) : FieldWork [FLD_VDRV_VDRV, FLD_VDRV_LOW] d (d.drvBack mv) :=
  ((FieldWork.refl _ d).p FLD_VDRV_VDRV 0 mv (by decide)).p FLD_VDRV_LOW 0 0 (by decide)

theorem answers_vdrvRestored (s : State) (mv : Nat) :
    Answers (.vdrvRestored mv) s ((s.dev.drvBack mv).each (List.range 24) Dev.openBrake) := rfl

theorem fieldWork_openBrake (d : Dev) (n : Nat) : FieldWork [SEG_STATUS_STATE] d (d.openBrake n) :=
  (FieldWork.refl _ d).when _ _ ((FieldWork.refl _ d).segP SEG_STATUS_STATE n segIdle rfl (by decide))

theorem openBrake_fld (d : Dev) (n : Nat) : (d.openBrake n).fld = d.fld := by
  rw [Dev.openBrake, Dev.when]
  split <;> rfl

theorem segState_openBrake (d : Dev) (n : Nat) (rising : regsRising 0 d.regs = true) :
    (d.openBrake n).segState n = if d.segState n = segBraked then segIdle else d.segState n := by
  rw [Dev.openBrake, Dev.when]
  by_cases braked : d.segState n = segBraked
  · rw [if_pos (beq_iff_eq.mpr braked), if_pos braked]
    exact segState_putSegState_rising d n segIdle (by decide) rising
  · rw [if_neg (fun same => braked (beq_iff_eq.mp same)), if_neg braked]

theorem segState_openBrake_ne (d : Dev) (n m : Nat) (h : n ≠ m) : (d.openBrake n).segState m = d.segState m := by
  rw [Dev.openBrake, Dev.when]
  split
  · exact segState_putSegState_ne d n m segIdle h.symm
  · rfl

/-- A driver's state once the brakes have opened. -/
def openedState (v : Nat) : Nat := if v = segBraked then segIdle else v

theorem openedState_openedState (v : Nat) : openedState (openedState v) = openedState v := by
  by_cases braked : v = segBraked
  · rw [openedState, openedState, if_pos braked]; rfl
  · rw [openedState, openedState, if_neg braked, if_neg braked]

theorem segState_openBrakes (d : Dev) (m : Nat) (hm : m < 24) (rising : regsRising 0 d.regs = true) :
    (d.each (List.range 24) Dev.openBrake).segState m = openedState (d.segState m) := by
  refine each_establishes (List.range 24) Dev.openBrake
    (fun e => regsRising 0 e.regs = true ∧ openedState (e.segState m) = openedState (d.segState m))
    (fun e => e.segState m = openedState (d.segState m)) m (List.mem_range.mpr hm) (fun e n ⟨up, same⟩ => ?_) (fun e ⟨up, same⟩ => ?_)
    (fun e n other there => (segState_openBrake_ne e n m other).trans there) d ⟨rising, rfl⟩
  · refine ⟨(fieldWork_openBrake e n).rising up, ?_⟩
    by_cases named : n = m
    · subst named
      rw [segState_openBrake e n up]
      exact (openedState_openedState _).trans same
    · rw [segState_openBrake_ne e n m named, same]
  · exact (segState_openBrake e m up).trans same

/-- Settles O21: what each fault and each reading leaves is one of the lemmas above. -/
theorem driverFaultsAndSupply : Obligations.DriverFaultsAndSupply := by
  intro s n temp mv rising
  have hn := n.isLt
  have rising' : regsRising 0 (s.dev.repeatSeg n).regs = true := by rw [repeatSeg_regs]; exact rising
  have opened := flagged_slowFault (s.dev.repeatSeg n) SEG_FAULT_OPEN n 1 (by simp [Row.resetOf, SEG_FAULT_OPEN]) (by decide) (by decide)
    (by decide) rfl hn rising'
  refine ⟨⟨_, settles_segShort s n, segShort_leaves s.dev n hn rising⟩, ⟨_, settles_segOpen s n, rfl, opened.1, opened.2,
    flagged_slowFault_falls s.dev SEG_FAULT_OPEN n 1 hn⟩,
    ⟨fun hot => ?_, fun cool => answers_thermalFault_of_cool s n temp cool, rfl, rfl, fun low high => ?_⟩, ?_, rfl, ?_⟩
  · have read : regsRising 0 ((s.dev.tempRead n temp).repeatSeg n).regs = true := by
      rw [repeatSeg_regs]
      exact p_rising s.dev SEG_TEMP_TEMP n _ rising
    exact ⟨_, settles_thermalFault_of_hot s n temp hot, flagged_slowFault _ SEG_FAULT_THERM n 3 (by simp [Row.resetOf, SEG_FAULT_THERM])
      (by decide) (by decide) (by decide) rfl hn read⟩
  · have shown := (warn_shown (s.dev.tempRead n temp) n).trans (congrArg flagOf (tempWarn_tempRead s.dev n temp rising low high))
    refine shown.trans ?_
    simp only [flagOf, decide_eq_true_eq]
  · obtain ⟨low, event, value⟩ := vdrvLow_leaves s.dev mv rising
    refine ⟨_, answers_vdrvLow s mv, low, event, value, fun m hm => ?_⟩
    have fell := fieldWork_drvFell s.dev mv
    obtain ⟨level, ramp, held, state⟩ := braked_brakeAll (s.dev.drvFell mv) m hm (fell.rising rising)
    refine ⟨level, ramp, held, fun serving => state ?_⟩
    rw [segIsRetired_brakeAll, Dev.segIsRetired, fell.g FLD_RETIRED_SEG 0 (by decide) (by decide)]
    exact serving
  · have back := fieldWork_drvBack s.dev mv
    have work : FieldWork [SEG_STATUS_STATE] (s.dev.drvBack mv) ((s.dev.drvBack mv).each (List.range 24) Dev.openBrake) :=
      FieldWork.each _ _ (fun e m _ => fieldWork_openBrake e m) _
    refine ⟨_, answers_vdrvRestored s mv, ?_, fun m hm => ⟨?_, ?_⟩⟩
    · rw [Dev.flag, work.g FLD_VDRV_LOW 0 (by decide) (by decide), Dev.drvBack, g_p_same _ FLD_VDRV_LOW 0 0 (p_rising _ _ _ _ rising)]
      rfl
    · exact (segState_openBrakes _ m hm (back.rising rising)).trans (congrArg openedState (back.segReg SEG_STATUS_STATE m rfl hm (by decide)))
    · exact seg_eq_of_fld (each_eq Dev.fld (List.range 24) Dev.openBrake (fun e k _ => openBrake_fld e k) _) m

end Sys2Proof.Machine
end

section
/-!
The statements of 05_jenuri_air.md on the coding of the downlink and the length of a J1 frame.
-/

namespace Sys2Proof.Machine

/-! ### Coding and frame length (R106, R117) -/

/-- Settles O26: every clause is the definitions' own table, read at the two bits. -/
theorem downlinkSequencesCodeBits : Obligations.DownlinkSequencesCodeBits :=
  ⟨fun _ => rfl, rfl, rfl, rfl, rfl, rfl, fun _ _ _ => rfl⟩

@[simp] theorem length_msbBits (w v : Nat) : (msbBits w v).length = w := by rw [msbBits, List.length_map, List.length_range]

@[simp] theorem length_halfBits (ws : List Half) : (halfBits ws).length = 16 * ws.length := by
  induction ws with
  | nil => rfl
  | cons w ws ih =>
    have head : halfBits (w :: ws) = msbBits 16 w.toNat ++ halfBits ws := rfl
    rw [head, List.length_append, length_msbBits, ih, List.length_cons]
    omega

/-- The header, 16 bits a payload word, and the CRC-16. -/
theorem length_j1Bits (r : Reply) : r.j1Bits.length = 32 + 16 * r.payload.length + 16 := by
  simp only [Reply.j1Bits, List.length_append, length_msbBits, length_halfBits]

/-- Settles O27: 1,280 carrier cycles of preamble and sync word are 40 symbols, and 88 = 40 + 32 + 16. -/
theorem frameLengthOfJ1 : Obligations.FrameLengthOfJ1 := by
  refine ⟨fun _ _ _ => rfl, fun r => ⟨rfl, ?_⟩⟩
  have whole : frameCycles 1 r.rate r.z64 r.payload.length = (88 + 16 * r.payload.length) * 32 := rfl
  have sync : syncCycles 1 = 1280 := rfl
  rw [whole, sync, length_j1Bits]
  omega

end Sys2Proof.Machine
end

section
/-!
The one tag in the field: the frame that it hears, its answer and its reply; and the statement of 05_jenuri_air.md on the inventory
commands.
-/

namespace Sys2Proof.Machine

/-! ### One tag and the frame that it hears (R115, R120, R139) -/

/-- The block with `t` as the one tag in the field and no reply on the air. -/
def Dev.tagLeft (d : Dev) (t : Tag) : Dev := { d with air := { d.air with tags := [t], replies := [] } }

/-- The block after its one tag has acted: the tag after it and, where it answers, its reply. -/
def Dev.acted (d : Dev) : Tag × Option (Answer × ReplyTiming) → Dev
  | (t, none) => d.tagLeft t
  | (t, some (a, tm)) => (d.tagLeft t).sendReply t a tm

theorem acted_silent (d : Dev) (t : Tag) : d.acted (t, none) = d.tagLeft t := rfl

theorem acted_answer (d : Dev) (t : Tag) (a : Answer) (tm : ReplyTiming) : d.acted (t, some (a, tm)) = (d.tagLeft t).sendReply t a tm := rfl

theorem hears_of_reaches {d : Dev} {t : Tag} {f : Down} {bc : Bool} (one : d.OneTag t) (reached : Reaches f t bc) (n : Nat) :
    d.hears t f.ring.val n = true := by
  obtain ⟨-, still, powered⟩ := one
  obtain ⟨-, ring, -, -⟩ := reached
  simp only [Dev.hears, powered, ring, still, beq_self_eq_true, List.any_nil, Bool.not_false, Bool.and_self]

theorem Reaches.bc_eq {t : Tag} {f : Down} {bc : Bool} (reached : Reaches f t bc) : f.bc = bc := by
  obtain ⟨-, -, flag, -⟩ := reached
  exact flag

theorem Reaches.not_bc {t : Tag} {f : Down} (reached : Reaches f t false) : (!f.bc) = true := by rw [reached.bc_eq, Bool.not_false]

theorem addressed_of_reaches {t : Tag} {f : Down} {bc : Bool} (reached : Reaches f t bc) : (f.bc || t.sa == f.sa.toNat) = true := by
  obtain ⟨-, -, all, rfl | own⟩ := reached
  · rw [all, Bool.true_or]
  · rw [own, beq_self_eq_true, Bool.or_true]

/-- What the frame and the tag's answer do to the air, where the tag is alone and no reply is on it. -/
theorem tagLeft_of_alone {d : Dev} {t : Tag} (alone : d.air.tags = [t]) (still : d.air.replies = []) (p : Reply → Bool) (t' : Tag) :
    ((d.inAir fun s => { s with replies := s.replies.filter p }).inAir fun s =>
      { s with tags := s.tags.map fun x => if x.uid == t.uid then t' else x }) = d.tagLeft t' := by
  simp only [Dev.inAir, Dev.tagLeft, alone, still, List.filter_nil, List.map_cons, List.map_nil, beq_self_eq_true, if_true]

/-- The one tag in the field acts on a frame that reaches it, where BC is as the command allows. -/
theorem downlinkPick_of_reached {d : Dev} {t : Tag} {f : Down} {bc bcOk : Bool} (one : d.OneTag t) (reached : Reaches f t bc)
    (allowed : bcOk = true) (n : Nat) (act : Nat × Nat → Tag → Tag × Option (Answer × ReplyTiming)) :
    d.downlinkPick f n bcOk act = d.acted (act d.replyPick t) := by
  have hearing : d.hears t f.ring.val n = true := hears_of_reaches one reached n
  have addressed := addressed_of_reaches reached
  obtain ⟨alone, still, -⟩ := one
  obtain ⟨whole, -⟩ := reached
  have picks (p : Reply → Bool) : (d.inAir fun s => { s with replies := s.replies.filter p }).replyPick = d.replyPick := rfl
  simp only [Dev.downlinkPick, alone, hearing, whole, allowed, Dev.each, addressed, List.filter_cons, List.filter_nil, if_true,
    Bool.not_true, Bool.or_self, Bool.false_eq_true, if_false, List.map_cons, List.map_nil, List.foldl_cons, List.foldl_nil, inAir_air,
    List.find?_cons, beq_self_eq_true, tagLeft_of_alone alone still, picks]
  rcases act d.replyPick t with ⟨t', _ | ⟨a, tm⟩⟩ <;> rfl

/-- A frame whose CRC fails changes no tag. -/
theorem downlinkPick_tags_of_bad_crc (d : Dev) (f : Down) (n : Nat) (bcOk : Bool) (act : Nat × Nat → Tag → Tag × Option (Answer × ReplyTiming))
    (bad : f.ok = false) : (d.downlinkPick f n bcOk act).air.tags = d.air.tags := by
  simp only [Dev.downlinkPick, bad, Bool.not_false, Bool.true_or, if_true, inAir_air]

/-! ### The reply on the air (R129 to R131) -/

/-- The reply that tag `t` sends now with answer `a`, timed by `tm`. -/
def Dev.replyOf (d : Dev) (t : Tag) (a : Answer) (tm : ReplyTiming) : Reply :=
  let (first, hold) := tm.chosen d.replyPick
  let start := d.now + 2 * (first + hold * holdCycles a.gen)
  let locked := match tm with
    | .bounded _ => false
    | _ => true
  { uid := t.uid, ring := t.kind.ring.val, sa := if a.ty = tyUid then 0 else t.sa, ty := a.ty, payload := a.payload,
    gen := a.gen, rate := a.rate, z64 := a.z64, self := t.self && !locked, hold := hold, start := start,
    stop := start + 2 * frameCycles a.gen a.rate a.z64 a.payload.length }

theorem sendReply_eq (d : Dev) (t : Tag) (a : Answer) (tm : ReplyTiming) :
    d.sendReply t a tm = d.drawn.drawn.inAir fun s => { s with replies := s.replies ++ [d.replyOf t a tm] } := by
  cases tm <;> rfl

/-- A locked reply starts at its instant without a hold block; in the bounded window both are the tag's own within their limits. -/
theorem timed_replyOf (d : Dev) (t : Tag) (a : Answer) (tm : ReplyTiming) : (d.replyOf t a tm).Timed d.now tm := by
  refine ⟨rfl, ?_⟩
  cases tm with
  | onbeat o => exact ⟨rfl, by simp [Dev.replyOf, ReplyTiming.chosen]⟩
  | slot i => exact ⟨rfl, by simp [Dev.replyOf, ReplyTiming.chosen]⟩
  | bounded m => exact ⟨Nat.lt_succ_iff.mp (Nat.mod_lt _ m.succ_pos), d.replyPick.1 % 33, Nat.lt_succ_iff.mp (Nat.mod_lt _ (by decide)), rfl⟩

/-- The one tag's reply is on the air, and the authentications are what `g` leaves of them. -/
theorem tagReplies_of_sent {c : Instr} {s : State} {t : Tag} {a : Answer} {tm : ReplyTiming} (g : List AuthRun → List AuthRun)
    (sent : Answers c s ((s.dev.acted (t, some (a, tm))).inAir fun x => { x with auths := g x.auths })) :
    TagReplies c s t a tm (g s.dev.air.auths) := by
  rw [acted_answer, sendReply_eq] at sent
  exact ⟨_, (s.dev.tagLeft t).replyOf t a tm, sent, rfl, rfl, rfl, rfl, rfl, rfl, rfl, rfl, rfl, timed_replyOf _ t a tm⟩

section Reached
variable {c : Instr} {s : State} {t t' : Tag} {f : Down} {bc bcOk : Bool} {n : Nat}
  {act : Nat × Nat → Tag → Tag × Option (Answer × ReplyTiming)} {a : Answer} {tm : ReplyTiming}

/-- A command that is a frame, and the one tag's answer to it. -/
theorem tagReplies_of_answer (one : s.dev.OneTag t) (reached : Reaches f t bc) (frame : Answers c s (s.dev.downlinkPick f n bcOk act))
    (allowed : bcOk = true) (answer : act s.dev.replyPick t = (t', some (a, tm))) : TagReplies c s t' a tm s.dev.air.auths := by
  rw [downlinkPick_of_reached one reached allowed, answer] at frame
  exact tagReplies_of_sent id frame

/-- A command that is a frame, and the one tag's silence at it. -/
theorem tagSilent_of_answer (one : s.dev.OneTag t) (reached : Reaches f t bc) (frame : Answers c s (s.dev.downlinkPick f n bcOk act))
    (allowed : bcOk = true) (answer : act s.dev.replyPick t = (t', none)) : TagSilent c s t' := by
  rw [downlinkPick_of_reached one reached allowed, answer, acted_silent] at frame
  exact frame

end Reached

theorem forAssigned_of_assigned {t : Tag} (assigned : t.assigned = true) (g : Tag → Tag × Option (Answer × ReplyTiming)) :
    forAssigned g t = g t := if_pos assigned

/-! ### The inventory commands (R120, R124, R125, R127, R131, R137) -/

theorem setGen_accepts {t : Tag} {g rate : Nat} {z self : Bool} (two : 2 ≤ g) (clocked : self = true → g = 3 ∧ t.kind.selfClk = true)
    (known : rate ≠ 3) (offered : t.kind.offers g rate z = true) :
    t.setGen g rate z self =
      ({ t with gen := g, rate := rate, z64 := z, self := self, blocks := [], nextSeq := 0, sentFF := false, overflow := false },
        some (⟨tyAck, ackWord 0x03 0, g, rate, z⟩, .onbeat t.offset)) := by
  have clock : ¬ (self = true ∧ g ≠ 3) := fun ⟨on, other⟩ => other (clocked on).1
  have refused : ¬ (g = 0 ∨ rate = 3 ∨ t.kind.offers g rate z = false ∨ (self = true ∧ t.kind.selfClk = false)) := by
    rintro (zero | three | lacks | ⟨on, unclocked⟩)
    · omega
    · exact known three
    · exact absurd (offered.symm.trans lacks) (by decide)
    · exact absurd ((clocked on).2.symm.trans unclocked) (by decide)
  rw [Tag.setGen, if_neg clock, if_neg (show g ≠ 1 by omega), if_neg refused]
  rfl

theorem setGen_refuses {t : Tag} {g rate : Nat} {z self : Bool} (two : 2 ≤ g) (clocked : self = true → g = 3)
    (lacks : rate = 3 ∨ t.kind.offers g rate z = false) :
    t.setGen g rate z self = (t, some (⟨tyNak, ackWord 0x03 nakUnsupported, 1, 0, false⟩, .onbeat t.offset)) := by
  have clock : ¬ (self = true ∧ g ≠ 3) := fun ⟨on, other⟩ => other (clocked on)
  rw [Tag.setGen, if_neg clock, if_neg (show g ≠ 1 by omega), if_pos (.inr (lacks.imp_right .inl))]
  rfl

section Inventory
variable {s : State} {t : Tag} {f : Down}

theorem tree_of_match {l : BitVec 6} {pre : BitVec 64} (one : s.dev.OneTag t) (reached : Reaches f t true) (ready : t.mode = .ready)
    (begins : t.uid >>> (64 - l.toNat) = pre.toNat >>> (64 - l.toNat)) :
    TagReplies (.tree f l pre) s t ⟨tyUid, uidWords t.uid, 1, 0, false⟩ (.slot (bitOf t.uid (63 - l.toNat))) s.dev.air.auths :=
  tagReplies_of_answer one reached rfl reached.bc_eq (if_pos ⟨ready, begins⟩)

theorem tree_of_other {l : BitVec 6} {pre : BitVec 64} (one : s.dev.OneTag t) (reached : Reaches f t true)
    (other : t.mode ≠ .ready ∨ t.uid >>> (64 - l.toNat) ≠ pre.toNat >>> (64 - l.toNat)) : TagSilent (.tree f l pre) s t :=
  tagSilent_of_answer one reached rfl reached.bc_eq (if_neg fun ⟨ready, begins⟩ => other.elim (· ready) (· begins))

theorem assign_of_own_uid {newsa : BitVec 12} {o : BitVec 6} (one : s.dev.OneTag t) (reached : Reaches f t true) :
    TagReplies (.assign f t.kind.uid newsa o) s
      { t with mode := .assigned, sa := newsa.toNat, offset := o.toNat, gen := 1, rate := 0, z64 := false, self := false }
      ⟨tyCaps, t.kind.capsWords, 1, 0, false⟩ (.onbeat o.toNat) s.dev.air.auths :=
  tagReplies_of_answer one reached rfl reached.bc_eq (if_pos rfl)

theorem quiet_of_ready {bc : Bool} (one : s.dev.OneTag t) (reached : Reaches f t bc) (ready : t.mode = .ready) :
    TagSilent (.quiet f) s { t with mode := .quiet } :=
  tagSilent_of_answer one reached rfl rfl (congrArg (·, none) (if_pos ready))

theorem wake_of_quiet (one : s.dev.OneTag t) (reached : Reaches f t true) (quiet : t.mode = .quiet) :
    TagSilent (.wake f) s { t with mode := .ready } :=
  tagSilent_of_answer one reached rfl reached.bc_eq (congrArg (·, none) (if_pos quiet))

variable (one : s.dev.OneTag t) (reached : Reaches f t false) (assigned : t.assigned = true)
include one reached assigned

theorem setgen_of_offered {g rate : BitVec 2} {z self : Bool} (two : 2 ≤ g.toNat) (clocked : self = true → g = 3 ∧ t.kind.selfClk = true)
    (known : rate ≠ 3) (offered : t.kind.offers g.toNat rate.toNat z = true) :
    TagReplies (.setgen f g rate z self) s
      { t with gen := g.toNat, rate := rate.toNat, z64 := z, self := self, blocks := [], nextSeq := 0, sentFF := false, overflow := false }
      ⟨tyAck, ackWord 0x03 0, g.toNat, rate.toNat, z⟩ (.onbeat t.offset) s.dev.air.auths :=
  tagReplies_of_answer one reached rfl reached.not_bc ((forAssigned_of_assigned assigned _).trans
    (setGen_accepts two (fun on => ⟨congrArg BitVec.toNat (clocked on).1, (clocked on).2⟩) (fun three => known (BitVec.eq_of_toNat_eq three))
      offered))

theorem setgen_of_unoffered {g rate : BitVec 2} {z self : Bool} (two : 2 ≤ g.toNat) (clocked : self = true → g = 3 ∧ t.kind.selfClk = true)
    (lacks : rate = 3 ∨ t.kind.offers g.toNat rate.toNat z = false) :
    TagReplies (.setgen f g rate z self) s t ⟨tyNak, ackWord 0x03 nakUnsupported, 1, 0, false⟩ (.onbeat t.offset) s.dev.air.auths :=
  tagReplies_of_answer one reached rfl reached.not_bc ((forAssigned_of_assigned assigned _).trans
    (setGen_refuses two (fun on => congrArg BitVec.toNat (clocked on).1) (lacks.imp_left (congrArg BitVec.toNat))))

theorem release_of_assigned :
    TagReplies (.release f) s { t with mode := .ready } ⟨tyAck, ackWord 0x05 0, t.gen, t.rate, t.z64⟩ (.onbeat t.offset)
      (s.dev.air.auths.filter fun x => x.sa != f.sa.toNat) := by
  refine tagReplies_of_sent (List.filter fun x => x.sa != f.sa.toNat) ?_
  have ran : Answers (.release f) s ((s.dev.downlinkPick f 24 (!f.bc) fun _ => forAssigned fun t =>
      ({ t with mode := .ready }, some (t.answer tyAck (ackWord 0x05 0), .onbeat t.offset))).when (!f.bc) fun d => d.endAuth f.sa.toNat) := rfl
  rwa [downlinkPick_of_reached one reached reached.not_bc, forAssigned_of_assigned assigned, reached.not_bc] at ran

theorem ping_of_assigned :
    TagReplies (.ping f) s t ⟨tyAck, ackWord 0x07 0, t.gen, t.rate, t.z64⟩ (if f.onbeat then .onbeat t.offset else .bounded 0) s.dev.air.auths :=
  tagReplies_of_answer one reached rfl reached.not_bc (forAssigned_of_assigned assigned _)

end Inventory

theorem tags_when_endAuth (d : Dev) (b : Bool) (sa : Nat) : (d.when b fun d => d.endAuth sa).air.tags = d.air.tags := by cases b <;> rfl

/-- No inventory command changes a tag where its frame's CRC fails. -/
theorem tags_of_bad_crc {s : State} {f : Down} {c : Instr} (bad : f.ok = false)
    (named : c = .quiet f ∨ c = .wake f ∨ c = .release f ∨ c = .ping f ∨ (∃ l pre, c = .tree f l pre)
      ∨ (∃ u a o, c = .assign f u a o) ∨ ∃ g r z b, c = .setgen f g r z b) : ∃ d, Answers c s d ∧ d.air.tags = s.dev.air.tags := by
  rcases named with rfl | rfl | rfl | rfl | ⟨l, pre, rfl⟩ | ⟨u, a, o, rfl⟩ | ⟨g, r, z, b, rfl⟩
  case inr.inr.inl => exact ⟨_, rfl, (tags_when_endAuth _ _ _).trans (downlinkPick_tags_of_bad_crc s.dev f _ _ _ bad)⟩
  all_goals exact ⟨_, rfl, downlinkPick_tags_of_bad_crc s.dev f _ _ _ bad⟩

/-- Settles O28: the one tag acts as each command's lemma above says, and a frame whose CRC fails reaches no tag's state. -/
theorem inventoryCommandsMoveTheTag : Obligations.InventoryCommandsMoveTheTag := by
  intro s t f one
  refine ⟨fun l pre reached => ⟨tree_of_match one reached, tree_of_other one reached⟩, fun _ _ reached => assign_of_own_uid one reached,
    fun g rate z self reached assigned two clocked =>
      ⟨setgen_of_offered one reached assigned two clocked, setgen_of_unoffered one reached assigned two clocked⟩,
    fun bc reached => quiet_of_ready one reached, fun reached => wake_of_quiet one reached,
    fun reached assigned => ⟨release_of_assigned one reached assigned, ping_of_assigned one reached assigned⟩, fun c bad named => ?_⟩
  obtain ⟨d, answer, same⟩ := tags_of_bad_crc (s := s) bad named
  exact ⟨d, answer, same.trans one.1⟩

end Sys2Proof.Machine
end

section
/-!
The statement of 05_jenuri_air.md on the commands that read and write an assigned tag's memory, and on AUTH.
-/

namespace Sys2Proof.Machine

/-! ### READ and READ_MEM (R121 to R123, R128) -/

theorem read_of_no_plan {t : Tag} {plan : Nat} (f : Down) (pick : Nat × Nat) (now ack upl hold maxw : Nat) (sets : List (List Half))
    (age spacing stat : Nat) (no : t.kind.planMask plan = 0) :
    t.read f pick now ack plan upl hold maxw sets age spacing stat =
      (t, some (⟨tyNak, ackWord 0x10 nakBadArg, t.gen, t.rate, t.z64⟩, t.timing f hold)) := by
  rw [Tag.read, if_pos no]
  rfl

section Memory
variable {s : State} {t : Tag} {f : Down} {hold : BitVec 4} (one : s.dev.OneTag t) (reached : Reaches f t false)
  (assigned : t.assigned = true)
include one reached assigned

section Read
variable {ack : Byte} {plan upl : BitVec 4} {maxw : Byte} {samples : List (List Half)} {age spacing : Half} {stat : BitVec 2}

theorem readTag_of_answer {t' : Tag} {a : Answer} {tm : ReplyTiming}
    (got : t.read f s.dev.replyPick s.dev.now ack.toNat plan.toNat upl.toNat hold.toNat maxw.toNat samples age.toNat spacing.toNat stat.toNat
      = (t', some (a, tm))) :
    TagReplies (.readTag f ack plan upl hold maxw samples age spacing stat) s t' a tm s.dev.air.auths :=
  tagReplies_of_answer one reached rfl reached.not_bc ((forAssigned_of_assigned assigned _).trans got)

theorem readTag_of_silence {t' : Tag}
    (got : t.read f s.dev.replyPick s.dev.now ack.toNat plan.toNat upl.toNat hold.toNat maxw.toNat samples age.toNat spacing.toNat stat.toNat
      = (t', none)) :
    TagSilent (.readTag f ack plan upl hold maxw samples age spacing stat) s t' :=
  tagSilent_of_answer one reached rfl reached.not_bc ((forAssigned_of_assigned assigned _).trans got)

end Read

section ReadMem
variable {addr : Half} {nw : Byte} {upl : BitVec 4} {rate : Nat} {z : Bool} (short : (if nw = 0 then 128 else nw.toNat) ≤ 128)
  (may : t.uplOf upl.toNat = some (rate, z))
include short may

theorem readMem_of_readable (readable : t.readable addr.toNat (if nw = 0 then 128 else nw.toNat) = true) :
    TagReplies (.readMem f addr nw upl hold) s t
      ⟨tyMem, (List.range (if nw = 0 then 128 else nw.toNat)).map fun i => t.word (addr.toNat + i), t.gen, rate, z⟩
      (t.timing f hold.toNat) s.dev.air.auths := by
  refine tagReplies_of_answer one reached rfl reached.not_bc ((forAssigned_of_assigned assigned _).trans ?_)
  simp only [if_neg (Nat.not_lt.mpr short), may, if_pos readable]

theorem readMem_of_unreadable (outside : t.readable addr.toNat (if nw = 0 then 128 else nw.toNat) = false) :
    TagReplies (.readMem f addr nw upl hold) s t ⟨tyNak, ackWord 0x11 nakRange, t.gen, t.rate, t.z64⟩ (t.timing f hold.toNat)
      s.dev.air.auths := by
  refine tagReplies_of_answer one reached rfl reached.not_bc ((forAssigned_of_assigned assigned _).trans ?_)
  simp only [if_neg (Nat.not_lt.mpr short), may, outside, Bool.false_eq_true, if_false]
  rfl

end ReadMem

/-! ### PREPARE, COMMIT and CONFIRM (R132) -/

section Prepare
variable {addr : Half} {nw : BitVec 4} {data : List Half} (full : data.length = if nw = 0 then 16 else nw.toNat)
include full

omit one assigned in
theorem prepare_allowed : (!f.bc && data.length == if nw = 0 then 16 else nw.toNat) = true := by
  rw [reached.not_bc, full, beq_self_eq_true, Bool.true_and]

theorem prepare_of_writable (dual : t.kind.dualBank = true) (writable : t.kind.writable addr.toNat (if nw = 0 then 16 else nw.toNat) = true)
    (secured : t.kind.protects addr.toNat (if nw = 0 then 16 else nw.toNat) = true → t.mode = .secure) :
    let b := data.zipIdx.foldl (fun b p => assocPut (addr.toNat + p.2) p.1 b) (t.pendingBank.getD t.bank)
    TagReplies (.prepare f addr nw hold data true) s { t with pendingBank := some b }
      ⟨tyPrepared, [BitVec.ofNat 16 (bankToken t.kind b)], t.gen, t.rate, t.z64⟩ (.bounded hold.toNat) s.dev.air.auths := by
  refine tagReplies_of_answer one reached rfl (prepare_allowed reached full) ((forAssigned_of_assigned assigned _).trans ?_)
  have allowed : ¬ (t.kind.protects addr.toNat (if nw = 0 then 16 else nw.toNat) = true ∧ t.mode ≠ .secure) :=
    fun ⟨protects, insecure⟩ => insecure (secured protects)
  simp only [dual, writable, allowed, Bool.true_eq_false, if_false]
  rfl

theorem prepare_of_single_bank (single : t.kind.dualBank = false) :
    TagReplies (.prepare f addr nw hold data true) s t ⟨tyNak, ackWord 0x12 nakUnsupported, t.gen, t.rate, t.z64⟩ (.bounded hold.toNat)
      s.dev.air.auths :=
  tagReplies_of_answer one reached rfl (prepare_allowed reached full) ((forAssigned_of_assigned assigned _).trans (if_pos single))

end Prepare

section Commit
variable {token : Half} {b : List (Nat × Half)} (pending : t.pendingBank = some b)
include pending

theorem commit_of_token (own : bankToken t.kind b = token.toNat) :
    TagReplies (.commit f token hold true) s { t with bank := b, bankNo := 1 - t.bankNo, pendingBank := none, commits := t.commits + 1 }
      ⟨tyCommitted, [token, BitVec.ofNat 16 (1 - t.bankNo)], t.gen, t.rate, t.z64⟩ (.bounded hold.toNat) s.dev.air.auths := by
  refine tagReplies_of_answer one reached rfl reached.not_bc ((forAssigned_of_assigned assigned _).trans ?_)
  simp only [pending, own, ne_eq, not_true_eq_false, Bool.true_eq_false, if_false]
  rfl

theorem commit_of_other_token (other : bankToken t.kind b ≠ token.toNat) :
    TagReplies (.commit f token hold true) s t ⟨tyNak, ackWord 0x13 nakToken, t.gen, t.rate, t.z64⟩ (.bounded hold.toNat)
      s.dev.air.auths := by
  refine tagReplies_of_answer one reached rfl reached.not_bc ((forAssigned_of_assigned assigned _).trans ?_)
  simp only [pending, if_pos other]
  rfl

end Commit

theorem confirm_of_assigned (token : Half) :
    TagReplies (.confirm f token hold) s { t with pendingBank := none }
      ⟨tyConfirmed, [BitVec.ofNat 16 (if bankToken t.kind t.bank = token.toNat then 1 else 0), BitVec.ofNat 16 (t.commits >>> 16),
        BitVec.ofNat 16 t.commits], t.gen, t.rate, t.z64⟩ (t.timing f hold.toNat) s.dev.air.auths := by
  refine tagReplies_of_answer one reached rfl reached.not_bc ((forAssigned_of_assigned assigned _).trans ?_)
  simp only [flagOf, beq_iff_eq]
  rfl

/-! ### AUTH (R136) -/

section Auth
variable {msg : BitVec 4} {message : List Byte} (nonempty : 1 ≤ message.length) (fits : message.length ≤ 64)
include nonempty fits

omit one assigned in
theorem auth_allowed : (!f.bc && 1 ≤ message.length && message.length ≤ 64) = true := by
  rw [reached.not_bc, decide_eq_true nonempty, decide_eq_true fits, Bool.and_self, Bool.and_self]

theorem auth_of_unable (unable : t.kind.canAuth = false) :
    TagReplies (.auth f msg hold message) s t ⟨tyNak, ackWord 0x20 nakUnsupported, t.gen, t.rate, t.z64⟩ (.bounded hold.toNat)
      s.dev.air.auths :=
  tagReplies_of_answer one reached rfl (auth_allowed reached nonempty fits) ((forAssigned_of_assigned assigned _).trans (if_pos unable))

theorem auth_of_answer {resp : List Byte} (able : t.kind.canAuth = true) (verified : Config.authReply t.uid msg.toNat message = some resp) :
    TagReplies (.auth f msg hold message) s t ⟨tyAuth, authWords msg.toNat resp, t.gen, t.rate, t.z64⟩ (.bounded hold.toNat)
      s.dev.air.auths := by
  refine tagReplies_of_answer one reached rfl (auth_allowed reached nonempty fits) ((forAssigned_of_assigned assigned _).trans ?_)
  simp only [able, verified, Bool.true_eq_false, if_false]
  rfl

theorem auth_of_no_answer (able : t.kind.canAuth = true) (failed : Config.authReply t.uid msg.toNat message = none) :
    TagReplies (.auth f msg hold message) s t ⟨tyNak, ackWord 0x20 nakAuth, t.gen, t.rate, t.z64⟩ (.bounded hold.toNat)
      s.dev.air.auths := by
  refine tagReplies_of_answer one reached rfl (auth_allowed reached nonempty fits) ((forAssigned_of_assigned assigned _).trans ?_)
  simp only [able, failed, Bool.true_eq_false, if_false]
  rfl

end Auth

end Memory

/-- Settles O29: the frame reaches the one tag, which answers as the command's lemma for that case says. -/
theorem memoryCommandsReadAndWriteTheTag : Obligations.MemoryCommandsReadAndWriteTheTag := by
  intro s t f hold one reached assigned
  refine ⟨fun ack plan upl maxw samples age spacing stat => ⟨fun t' a tm got _ => readTag_of_answer one reached assigned got,
      fun t' got => readTag_of_silence one reached assigned got,
      fun no => readTag_of_answer one reached assigned (read_of_no_plan f _ _ _ _ _ _ _ _ _ _ no)⟩,
    fun addr nw upl rate z short may =>
      ⟨readMem_of_readable one reached assigned short may, readMem_of_unreadable one reached assigned short may⟩,
    fun addr nw data full => ⟨prepare_of_writable one reached assigned full, prepare_of_single_bank one reached assigned full⟩,
    fun token b pending => ⟨commit_of_token one reached assigned pending, commit_of_other_token one reached assigned pending⟩,
    fun token => confirm_of_assigned one reached assigned token,
    fun msg message nonempty fits => ⟨auth_of_unable one reached assigned nonempty fits, fun able => ?_⟩⟩
  split
  next resp verified => exact auth_of_answer one reached assigned nonempty fits able verified
  next failed => exact auth_of_no_answer one reached assigned nonempty fits able failed

end Sys2Proof.Machine
end

section
/-!
The statement of 05_jenuri_air.md on the field at a tag, and on a write left unresolved.
-/

namespace Sys2Proof.Machine

/-! ### What a released slot leaves of the air (R200, R214, R215) -/

@[simp] theorem wws_air (d : Dev) (w : Nat) (vs : List Nat) : (d.wws w vs).air = d.air :=
  each_eq Dev.air vs.zipIdx (fun d p => d.ww (w + p.2) p.1) (fun d p _ => ww_air d (w + p.2) p.1) d

@[simp] theorem freeEntry_air (d : Dev) (i : Nat) : (d.freeEntry i).air = d.air := wws_air _ _ _

@[simp] theorem retireNow_air (d : Dev) (i : Nat) : (d.retireNow i).air = d.air := ww_air _ _ _

@[simp] theorem settleHeld_air (d : Dev) : d.settleHeld.air = d.air := by
  refine each_eq Dev.air _ _ (fun d h _ => ?_) _
  split
  · exact freeEntry_air d h.1
  · exact retireNow_air d h.1

@[simp] theorem settleCarry_air (d : Dev) : d.settleCarry.air = d.air := by
  rw [Dev.settleCarry]
  split <;> rfl

@[simp] theorem freeSlot_air (d : Dev) (i : Nat) : (d.freeSlot i).air = d.air :=
  (settleHeld_air _).trans (settleCarry_air _)

@[simp] theorem trySlotRelease_air (d : Dev) (i : Nat) : (d.trySlotRelease i).air = d.air := by
  rw [Dev.trySlotRelease]
  split
  · rfl
  · split
    · exact freeSlot_air d i
    · rfl

@[simp] theorem dropKept_air (d : Dev) (i : Nat) : (d.dropKept i).air = d.air := trySlotRelease_air _ i

@[simp] theorem dropKeptFor_air (d : Dev) (sa : Nat) : (d.dropKeptFor sa).air = d.air := by
  rw [Dev.dropKeptFor]
  split
  · exact dropKept_air d _
  · rfl

@[simp] theorem releaseWrite_air (d : Dev) (sa : Nat) : (d.releaseWrite sa).air = d.air := by
  rw [Dev.releaseWrite]
  split
  · exact dropKeptFor_air d sa
  · rfl

/-! ### Power-up and collapse (R124, R132, R133, R137) -/

/-- Without field a tag is neither SECURE nor QUIET. -/
theorem loseField_mode (t : Tag) : t.loseField.mode ≠ .secure ∧ t.loseField.mode ≠ .quiet := by
  cases mode : t.mode <;> simp [Tag.loseField, mode]

/-- A tag as its first power-up brings it into the field. -/
def freshTag (k : TagKind) : Tag :=
  { kind := k, mode := .ready, powered := true, sa := 0, offset := 0, gen := 1, rate := 0, z64 := false, self := false, bank := [], bankNo := 0,
    pendingBank := none, commits := 0, blocks := [], nextSeq := 0, sentFF := false, overflow := false }

theorem tagPowerUp_of_new {s : State} {k : TagKind} (new : ∀ t ∈ s.dev.air.tags, t.kind.uid ≠ k.uid) :
    Answers (.tagPowerUp k) s { s.dev with air := { s.dev.air with tags := s.dev.air.tags ++ [freshTag k] } } := by
  have unknown : ¬ (s.dev.air.tags.any fun t => t.kind.uid == k.uid) = true := by
    rw [List.any_eq_true]
    rintro ⟨t, known, same⟩
    exact new t known (beq_iff_eq.mp same)
  have ran : exec (.tagPowerUp k) s = execTagPowerUp k s := rfl
  rw [Answers, ran, execTagPowerUp, effect_next, if_neg unknown]
  rfl

theorem tagPowerUp_of_known {s : State} {t : Tag} (alone : s.dev.air.tags = [t]) :
    ∃ auths, Answers (.tagPowerUp t.kind) s { s.dev with air := { s.dev.air with
      auths := auths
      tags := [{ t.loseField with powered := true, pendingBank := none }]
      replies := s.dev.air.replies.filter fun r => r.uid != t.uid } } := by
  have known : (s.dev.air.tags.any fun x => x.kind.uid == t.kind.uid) = true := by
    rw [alone, List.any_cons, beq_self_eq_true, Bool.true_or]
  have ran : exec (.tagPowerUp t.kind) s = execTagPowerUp t.kind s := rfl
  refine ⟨s.dev.air.auths.filter fun x => !(s.dev.air.tags.any fun u => u.kind.uid == t.kind.uid && u.assigned && u.sa == x.sa), ?_⟩
  rw [Answers, ran, execTagPowerUp, effect_next, if_pos known, Dev.inAir]
  simp only [alone, List.map_cons, List.map_nil, if_true]
  rfl

/-- The block whose one tag has lost the field, before a write or an authentication with it is settled. -/
def Dev.fieldLost (d : Dev) (t : Tag) : Dev :=
  d.inAir fun a => { a with tags := [t.loseField], replies := a.replies.filter fun r => r.uid != t.uid }

theorem answers_fieldCollapse {s : State} {t : Tag} (alone : s.dev.air.tags = [t]) :
    Answers (.fieldCollapse t.kind.uid) s
      ((s.dev.fieldLost t).when t.assigned fun d => (d.airCollapse t.sa).releaseWrite t.sa) := by
  have found : s.dev.air.tags.find? (fun x => x.kind.uid == t.kind.uid) = some t := by
    simp only [alone, List.find?_cons, beq_self_eq_true]
  have lost : (s.dev.inAir fun a => { a with
      tags := a.tags.map fun x => if x.kind.uid = t.kind.uid then x.loseField else x
      replies := a.replies.filter fun r => r.uid != t.kind.uid.toNat }) = s.dev.fieldLost t := by
    simp only [Dev.fieldLost, Dev.inAir, alone, List.map_cons, List.map_nil, if_true, Tag.uid]
  have ran : exec (.fieldCollapse t.kind.uid) s = execFieldCollapse t.kind.uid s := rfl
  rw [Answers, ran, execFieldCollapse, effect_next]
  simp only [found, lost]

theorem collapsed_air (d : Dev) (sa : Nat) :
    (d.when true fun d => (d.airCollapse sa).releaseWrite sa).air = (d.airCollapse sa).air := releaseWrite_air _ sa

/-- A write or an authentication that a collapse settles leaves the tags and the replies. -/
theorem collapsed_keeps (d : Dev) (b : Bool) (sa : Nat) :
    let e := d.when b fun d => (d.airCollapse sa).releaseWrite sa
    e.air.tags = d.air.tags ∧ e.air.replies = d.air.replies := by
  cases b with
  | false => exact ⟨rfl, rfl⟩
  | true =>
    have same := collapsed_air d sa
    exact ⟨(congrArg AirState.tags same).trans rfl, (congrArg AirState.replies same).trans rfl⟩

theorem collapsed_writes (d : Dev) (sa : Nat) :
    (d.when true fun d => (d.airCollapse sa).releaseWrite sa).air.writes = d.air.writes.map fun w => if w.sa = sa then w.collapse else w :=
  congrArg AirState.writes (collapsed_air d sa)

section Collapse
variable {w : WriteRec} (unsettled : w.outcome = none)
include unsettled

theorem collapse_of_prepare (step : w.step = .prepare) :
    w.collapse.outcome = some (if w.last = some tyPrepared then .unknown else .none) := by simp [WriteRec.collapse, unsettled, step]

theorem collapse_of_commit (step : w.step = .commit) :
    w.collapse.outcome = some (if w.last = some tyCommitted then .done else .unknown) := by simp [WriteRec.collapse, unsettled, step]

theorem collapse_of_confirm (step : w.step = .confirm) : w.collapse.outcome = some (if w.retry then .unknown else .done) := by
  simp [WriteRec.collapse, unsettled, step]

end Collapse

/-! ### A write left unresolved (R134) -/

/-- The passes that R134 counts for the write at `sa`, whose slot `i` is kept. -/
def Dev.passesFor (d : Dev) (i sa : Nat) : Nat := max ((((d.slot i).bind (·.kept)).map (·.passes)).getD 0) (d.unknownPasses sa)

theorem writeUnresolved_of_late {s : State} {sa : BitVec 12} {i : Nat} (kept : s.dev.keptFor sa.toNat = some i)
    (late : 16 ≤ s.dev.passesFor i sa.toNat) :
    Answers (.writeUnresolved sa) s ((s.dev.dropKept i).markUnresolved sa.toNat).settleHeld := by
  have ran : exec (.writeUnresolved sa) s = execWriteUnresolved sa s := rfl
  rw [Dev.passesFor] at late
  rw [Answers, ran, execWriteUnresolved, effect_next]
  simp only [kept, if_pos late]

theorem writeUnresolved_of_early {s : State} {sa : BitVec 12} {i : Nat} (kept : s.dev.keptFor sa.toNat = some i)
    (early : s.dev.passesFor i sa.toNat < 16) : Answers (.writeUnresolved sa) s s.dev := by
  have ran : exec (.writeUnresolved sa) s = execWriteUnresolved sa s := rfl
  rw [Dev.passesFor] at early
  rw [Answers, ran, execWriteUnresolved, effect_next]
  simp only [kept, if_neg (Nat.not_le.mpr early)]

theorem markUnresolved_flag (d : Dev) (sa : Nat) : (d.markUnresolved sa).flag CENSUS_EVENTS_WRITE_UNRESOLVED = true := by
  have shown (e : Dev) : (e.set1 CENSUS_EVENTS_WRITE_UNRESOLVED).flag CENSUS_EVENTS_WRITE_UNRESOLVED = true :=
    flag_set1 e CENSUS_EVENTS_WRITE_UNRESOLVED 0 (by decide) (by decide)
  unfold Dev.markUnresolved
  split
  · exact shown d
  · exact shown _

/-- Settles O30: a slot that the device releases leaves the air as it was (`releaseWrite_air`), so that a collapse leaves there what the
loss of field put. -/
theorem tagsComeAndGoWithTheField : Obligations.TagsComeAndGoWithTheField := by
  intro s
  refine ⟨fun k new => ⟨freshTag k, rfl, rfl, rfl, rfl, rfl, rfl, tagPowerUp_of_new new⟩, ?_, fun t alone => ?_,
    fun w unsettled => ⟨collapse_of_prepare unsettled, collapse_of_commit unsettled, collapse_of_confirm unsettled⟩,
    fun sa i kept => ⟨writeUnresolved_of_late kept, writeUnresolved_of_early kept, markUnresolved_flag _ _⟩⟩
  · rintro _ t alone rfl
    obtain ⟨auths, ran⟩ := tagPowerUp_of_known alone
    exact ⟨_, _, ran, rfl, rfl, rfl, rfl, rfl, (loseField_mode t).1, (loseField_mode t).2,
      fun _ there => bne_iff_ne.mp (List.mem_filter.mp there).2⟩
  · refine ⟨t.loseField, _, answers_fieldCollapse alone, (collapsed_keeps _ _ _).1, rfl, rfl, (loseField_mode t).1, (loseField_mode t).2,
      fun r there => ?_, fun assigned => ?_⟩
    · rw [(collapsed_keeps _ _ _).2] at there
      exact bne_iff_ne.mp (List.mem_filter.mp there).2
    · rw [assigned]
      exact collapsed_writes _ _

end Sys2Proof.Machine
end

section
/-!
The statement of 07_census.md on entries: RETIRE, FREE and SETPLAN, the SA ranges and CENSUS_LOOKUP.
-/

namespace Sys2Proof.Machine

/-- A command that is a host's write of one word and settles nothing, where that write is performed (R388). -/
theorem answers_of_hostWrite {c : Instr} {s : State} {t a : Nat} {f : Dev → Dev} (hadm : s.dev.admits t a)
    (run : exec c s = effect s fun d => d.hostWrite t a f) : Answers c s (f s.dev.touched) := by
  rw [Answers, run, effect_next, hostWrite_admits _ _ _ _ hadm]

/-! ### RETIRE, FREE and SETPLAN (R185, R200, R412) -/

theorem answers_retire {s : State} {t : Tenant} (hadm : s.dev.admits t 0x1100) (sa : BitVec 12) (force : Bool) :
    Answers (.retire t sa force) s (s.dev.touched.retireCmd sa.toNat force) :=
  answers_of_hostWrite (f := fun d => d.retireCmd sa.toNat force) hadm rfl

theorem answers_free {s : State} {t : Tenant} (hadm : s.dev.admits t 0x1100) (idx : BitVec 13) (force : Bool) :
    Answers (.free t idx force) s (s.dev.touched.freeCmd idx.toNat force) :=
  answers_of_hostWrite (f := fun d => d.freeCmd idx.toNat force) hadm rfl

theorem answers_setplan {s : State} {t : Tenant} (hadm : s.dev.admits t 0x1100) (sa : BitVec 12) (plan : BitVec 4) :
    Answers (.setplan t sa plan) s (s.dev.touched.setplanCmd sa.toNat plan.toNat) :=
  answers_of_hostWrite (f := fun d => d.setplanCmd sa.toNat plan.toNat) hadm rfl

/-- The entry that RETIRE and SETPLAN of `sa` name: one in CANDIDATE, ACTIVE or LOST. -/
def Dev.named (d : Dev) (sa : Nat) : Option Nat :=
  entries.find? fun i => (d.entState i == stCandidate || d.entState i == stActive || d.entState i == stLost) && d.entSa i == sa

theorem holdsSa_of_named {d : Dev} {sa i : Nat} (named : d.named sa = some i) : holdsSa (d.entState i) = true := by
  have found := List.find?_some named
  rw [Bool.and_eq_true] at found
  rw [holdsSa, found.1, Bool.true_or]

theorem named_eq_none {d : Dev} {sa : Nat}
    (absent : ∀ i < 8192, d.entSa i = sa → d.entState i ≠ stCandidate ∧ d.entState i ≠ stActive ∧ d.entState i ≠ stLost) :
    d.named sa = none := by
  refine List.find?_eq_none.mpr fun i there found => ?_
  simp only [Bool.and_eq_true, Bool.or_eq_true, beq_iff_eq] at found
  obtain ⟨live, own⟩ := found
  obtain ⟨notCandidate, notActive, notLost⟩ := absent i (List.mem_range.mp there) own
  exact live.elim (fun live => live.elim notCandidate notActive) notLost

theorem retireCmd_eq (d : Dev) (sa : Nat) (force : Bool) :
    d.retireCmd sa force = (d.named sa).elim d.cmdRefused fun i => d.entryCommand i false force := by
  unfold Dev.retireCmd Dev.named
  split
  · next absent => rw [absent, Option.elim_none]
  · next found => rw [found, Option.elim_some]

theorem setplanCmd_eq (d : Dev) (sa plan : Nat) :
    d.setplanCmd sa plan = (d.named sa).elim d.cmdRefused fun i => d.joinEntry { idx := i, plan := some plan, regen := false } := by
  unfold Dev.setplanCmd Dev.named
  split
  · next absent => rw [absent, Option.elim_none]
  · next found => rw [found, Option.elim_some]

/-- With no kept slot to release, a RETIRE or FREE waits or takes effect. -/
theorem entryCommand_of_unkept {d : Dev} {i : Nat} (unkept : (holdsSa (d.entState i) && (d.keptFor (d.entSa i)).isSome) = false)
    (isFree force : Bool) :
    d.entryCommand i isFree force =
      if d.heldBack i then d.inCen fun c => { c with held := c.held.filter (fun h => h.1 != i) ++ [(i, isFree, force)] }
      else if isFree then d.freeEntry i else d.retireNow i := by
  rw [Dev.entryCommand, Bool.and_assoc, unkept, Bool.and_false]
  rfl

theorem retireCmd_takes_effect {d : Dev} {sa i : Nat} (named : d.named sa = some i) (unkept : d.keptFor (d.entSa i) = none)
    (unbound : d.boundFor (d.entSa i) = none) (idle : d.assigning i = false) (force : Bool) : d.retireCmd sa force = d.retireNow i := by
  have free : d.heldBack i = false := by rw [Dev.heldBack, unbound, idle, Option.isSome_none, Bool.and_false, Bool.or_false]
  rw [retireCmd_eq, named, Option.elim_some, entryCommand_of_unkept (by rw [unkept, Option.isSome_none, Bool.and_false]), free]
  rfl

theorem retireCmd_waits {d : Dev} {sa i : Nat} (named : d.named sa = some i) (unkept : d.keptFor (d.entSa i) = none)
    (bound : (d.boundFor (d.entSa i)).isSome = true) (force : Bool) :
    d.retireCmd sa force = d.inCen fun c => { c with held := c.held.filter (fun h => h.1 != i) ++ [(i, false, force)] } := by
  have held : d.heldBack i = true := by rw [Dev.heldBack, holdsSa_of_named named, bound, Bool.and_self, Bool.true_or]
  rw [retireCmd_eq, named, Option.elim_some, entryCommand_of_unkept (by rw [unkept, Option.isSome_none, Bool.and_false]), held]
  rfl

theorem freeCmd_takes_effect {d : Dev} {i : Nat} (known : i ≤ 8191) (done : d.entState i = stRetired ∨ d.entState i = stDuplicate)
    (idle : d.assigning i = false) (force : Bool) : d.freeCmd i force = d.freeEntry i := by
  have bare : holdsSa (d.entState i) = false := by rcases done with st | st <;> rw [st] <;> rfl
  have free : d.heldBack i = false := by rw [Dev.heldBack, bare, idle, Bool.false_and, Bool.or_false]
  have command : d.freeCmd i force = d.entryCommand i true force := by
    rw [Dev.freeCmd, if_neg (Nat.not_lt.mpr known)]
    exact if_pos (or_assoc.mp (Or.inl done))
  rw [command, entryCommand_of_unkept (by rw [bare, Bool.false_and]), free]
  rfl

theorem freeCmd_of_other {d : Dev} {i : Nat} {force : Bool} (notRetired : d.entState i ≠ stRetired) (notDuplicate : d.entState i ≠ stDuplicate)
    (unforced : d.entState i = stRetiring → force = false) : d.freeCmd i force = d.cmdRefused := by
  have no : ¬ (d.entState i = stRetired ∨ d.entState i = stDuplicate ∨ (d.entState i = stRetiring ∧ force = true)) := by
    rintro (st | st | ⟨st, forced⟩)
    · exact notRetired st
    · exact notDuplicate st
    · exact Bool.false_ne_true ((unforced st).symm.trans forced)
  rw [Dev.freeCmd]
  split
  · rfl
  · exact if_neg no

/-! ### The SA ranges and CENSUS_LOOKUP (R180, R201) -/

theorem answers_censusRingSa {s : State} {t : Tenant} {x : Ring} (hadm : s.dev.admits t (0x1109 + x.val)) (first last : BitVec 12) :
    Answers (.censusRingSa t x first last) s (s.dev.touched.writeRange x first.toNat last.toNat) :=
  answers_of_hostWrite (f := fun d => d.writeRange x first.toNat last.toNat) hadm rfl

theorem writeRange_of_reversed (d : Dev) (x : Nat) {first last : Nat} (reversed : last < first) :
    d.writeRange x first last = d.set1 CENSUS_EVENTS_RANGE_ERR := by
  rw [Dev.writeRange]
  exact if_pos (Bool.or_eq_true_iff.mpr (Or.inl (decide_eq_true reversed)))

theorem writeRange_of_apart {d : Dev} {x first last : Nat} (ordered : first ≤ last)
    (apart : ∀ y < 4, y ≠ x → last < d.g CENSUS_RING_SA_FIRST y ∨ d.g CENSUS_RING_SA_LAST y < first) :
    d.writeRange x first last = (d.p CENSUS_RING_SA_FIRST x first).p CENSUS_RING_SA_LAST x last := by
  have meets : ((List.range 4).any fun y => y != x && decide (first ≤ d.g CENSUS_RING_SA_LAST y) && decide (d.g CENSUS_RING_SA_FIRST y ≤ last))
      = false := by
    refine List.any_eq_false.mpr fun y there meet => ?_
    simp only [Bool.and_eq_true, bne_iff_ne, decide_eq_true_eq] at meet
    obtain ⟨⟨other, below⟩, above⟩ := meet
    rcases apart y (List.mem_range.mp there) other with h | h <;> omega
  rw [Dev.writeRange, meets, decide_eq_false (Nat.not_lt.mpr ordered)]
  rfl

theorem answers_censusLookup {s : State} {t : Tenant} (hadm : s.dev.admits t 0x1110) (sa : BitVec 12) :
    Answers (.censusLookup t sa) s (s.dev.touched.p CENSUS_LOOKUP_SA 0 sa.toNat) :=
  answers_of_hostWrite (f := fun d => d.p CENSUS_LOOKUP_SA 0 sa.toNat) hadm rfl

theorem onlyRegs_of_p (d : Dev) (r : Row) (n v : Nat) : (d.p r n v).onlyRegs d [r.key n] :=
  ⟨rfl, fun k other => (look_p_ne d r n v k fun same => other (List.mem_singleton.mpr same)).symm⟩

/-- A read-only field of the census shows what `liveCensus` gives. -/
theorem fieldValue_of_census (d : Dev) (r : Row) (n : Nat) (low : 0x1100 ≤ r.base) (high : r.base < 0x1200) (ro : r.ty = .ro) :
    (d.fieldValue r n).1 = (d.liveCensus r).getD (d.g r n) := by
  have notClock : r ≠ CLK_STATUS_ACLK_XTAL := by rintro rfl; exact absurd low (by decide)
  have notLevel : r ≠ SEG_AMP_LEVEL := by rintro rfl; exact absurd low (by decide)
  have live : d.live r n = d.liveCensus r := by simp (disch := omega) only [Dev.live, if_neg, if_pos, notClock, if_false]
  rw [Dev.fieldValue, ro, if_neg (by decide), if_neg notLevel, live]

theorem lookup_index_shown (d : Dev) : (d.fieldValue CENSUS_LOOKUP_INDEX 0).1 = (d.holder (d.g CENSUS_LOOKUP_SA)).getD 0 := by
  rw [fieldValue_of_census d CENSUS_LOOKUP_INDEX 0 (by decide) (by decide) rfl, Dev.liveCensus, if_pos rfl, Option.getD_some]

theorem lookup_hit_shown (d : Dev) : (d.fieldValue CENSUS_LOOKUP_HIT 0).1 = flagOf (d.holder (d.g CENSUS_LOOKUP_SA)).isSome := by
  rw [fieldValue_of_census d CENSUS_LOOKUP_HIT 0 (by decide) (by decide) rfl, Dev.liveCensus, if_neg (by decide), if_pos rfl,
    Option.getD_some]

/-- Settles O35: the case of each command decides between its refusal, its wait and its effect, and CENSUS_LOOKUP reads the entries as
they are. -/
theorem censusEntriesFollowCommands : Obligations.CensusEntriesFollowCommands := by
  intro s t _
  refine ⟨fun hadm => ⟨fun sa force i named => ⟨fun unkept unbound idle => ?_, fun bound unkept => ?_, fun plan => ?_⟩,
      fun sa force plan absent => ?_, fun idx force => ⟨fun done idle => ?_, fun live => ?_, fun retiring unforced => ?_⟩⟩,
    fun x first last hadm => ⟨fun reversed => ?_, fun ordered apart => ?_⟩, fun sa hadm rising => ?_⟩
  · exact (answers_retire hadm sa force).of_eq (retireCmd_takes_effect (d := s.dev.touched) named unkept unbound idle force)
  · exact (answers_retire hadm sa force).of_eq (retireCmd_waits (d := s.dev.touched) named unkept bound force)
  · have found : s.dev.touched.named sa.toNat = some i := named
    exact (answers_setplan hadm sa plan).of_eq (by rw [setplanCmd_eq, found]; rfl)
  · have unnamed : s.dev.touched.named sa.toNat = none := named_eq_none absent
    exact ⟨(answers_retire hadm sa force).of_eq (by rw [retireCmd_eq, unnamed]; rfl),
      (answers_setplan hadm sa plan).of_eq (by rw [setplanCmd_eq, unnamed]; rfl)⟩
  · have known : idx.toNat ≤ 8191 := Nat.le_of_lt_succ idx.isLt
    exact (answers_free hadm idx force).of_eq (freeCmd_takes_effect (d := s.dev.touched) known done idle force)
  · have below : s.dev.touched.entState idx.toNat ≤ stLost := live
    have other (n : Nat) (above : stLost < n) : s.dev.touched.entState idx.toNat ≠ n := Nat.ne_of_lt (Nat.lt_of_le_of_lt below above)
    exact (answers_free hadm idx force).of_eq
      (freeCmd_of_other (other _ (by decide)) (other _ (by decide)) fun retiring => absurd retiring (other _ (by decide)))
  · have state : s.dev.touched.entState idx.toNat = stRetiring := retiring
    exact (answers_free hadm idx force).of_eq
      (freeCmd_of_other (by rw [state]; decide) (by rw [state]; decide) fun _ => unforced)
  · exact (answers_censusRingSa hadm first last).of_eq (writeRange_of_reversed _ _ reversed)
  · exact (answers_censusRingSa hadm first last).of_eq (writeRange_of_apart (d := s.dev.touched) ordered apart)
  · have stored : (s.dev.touched.p CENSUS_LOOKUP_SA 0 sa.toNat).g CENSUS_LOOKUP_SA 0 = sa.toNat := by
      rw [g_p_same s.dev.touched _ _ _ rising]
      exact Nat.mod_eq_of_lt sa.isLt
    refine ⟨_, answers_censusLookup hadm sa, onlyRegs_of_p _ _ _ _, fun f same => ?_⟩
    rw [lookup_hit_shown, lookup_index_shown, same, stored]
    exact ⟨fun free => by rw [free]; rfl, fun i held => by rw [held]; exact ⟨rfl, rfl⟩⟩

end Sys2Proof.Machine
end

section
/-!
The statement of 07_census.md on jobs: what starts one, what stops one, and a walk's next exchange.
-/

namespace Sys2Proof.Machine

/-! ### The commands on jobs (R185, R195) -/

section Commands
variable {s : State} {t : Tenant} (hadm : s.dev.admits t 0x1100) (x : Ring)
include hadm

theorem answers_walk : Answers (.walk t x) s (s.dev.touched.walkCmd x) := answers_of_hostWrite (f := fun d => d.walkCmd x) hadm rfl

theorem answers_rebuild : Answers (.rebuild t x) s (s.dev.touched.rebuildCmd x) :=
  answers_of_hostWrite (f := fun d => d.rebuildCmd x) hadm rfl

theorem answers_serviceA (seg : Seg) : Answers (.serviceA t x seg) s (s.dev.touched.serviceCmd .serviceA x seg 0) :=
  answers_of_hostWrite (f := fun d => d.serviceCmd .serviceA x seg 0) hadm rfl

theorem answers_serviceV (seg : Seg) (blocks : BitVec 13) :
    Answers (.serviceV t x seg blocks) s (s.dev.touched.serviceCmd .serviceV x seg blocks.toNat) :=
  answers_of_hostWrite (f := fun d => d.serviceCmd .serviceV x seg blocks.toNat) hadm rfl

theorem answers_stop : Answers (.stop t) s (s.dev.touched.updJob fun j => { j with stop := true }) :=
  answers_of_hostWrite (f := fun d => d.updJob fun j => { j with stop := true }) hadm rfl

end Commands

theorem jobRuns_eq_false {d : Dev} (idle : d.cen.job = none) : d.jobRuns = false := by rw [Dev.jobRuns, idle, Option.isSome_none]

section Start
variable {d : Dev} {x : Nat}

/-- A job runs, or the Reel does not define the ring: no job starts (R185). -/
theorem commands_refused (barred : d.cen.job.isSome = true ∨ d.ringDef x = none) :
    d.walkCmd x = d.cmdRefused ∧ d.rebuildCmd x = d.cmdRefused
      ∧ ∀ kind seg blocks, d.serviceCmd kind x seg blocks = d.cmdRefused := by
  have no : (d.jobRuns || (d.ringDef x).isNone) = true := by
    rcases barred with runs | gone
    · rw [Dev.jobRuns, runs, Bool.true_or]
    · rw [gone, Option.isNone_none, Bool.or_true]
  refine ⟨?_, if_pos no, fun kind seg blocks => ?_⟩
  · rw [Dev.walkCmd, no, Bool.true_or, Bool.true_or, if_pos rfl]
  · rw [Dev.serviceCmd]
    rcases barred with runs | gone
    · simp only [Dev.jobRuns, runs, Bool.true_or, if_true]
    · simp only [gone, Bool.not_false, Bool.or_true, Bool.true_or, if_true]

theorem walkCmd_of_fast (fast : d.atSpeed x d.discRpm = true) : d.walkCmd x = d.cmdRefused := by
  rw [Dev.walkCmd, fast, Bool.or_true, Bool.true_or, if_pos rfl]

theorem serviceCmd_of_fast (fast : d.atSpeed x 60 = true) (kind : JobKind) (seg blocks : Nat) :
    d.serviceCmd kind x seg blocks = d.cmdRefused := by
  simp only [Dev.serviceCmd, fast, Bool.or_true, Bool.true_or, if_true]

theorem walkCmd_starts (idle : d.cen.job = none) (there : (d.ringDef x).isSome = true) (slow : d.atSpeed x d.discRpm = false)
    (known : d.ringStill x = true ∨ d.ringValid x = true) :
    d.walkCmd x = ((d.putJob (newJob .walk x 0 0)).putStack [(0, 0)]).p CENSUS_STATUS_PASS 0 1 := by
  have angle : (d.ringValid x || d.ringStill x) = true := Bool.or_eq_true_iff.mpr known.symm
  rw [Dev.walkCmd, jobRuns_eq_false idle, Option.isNone_eq_false_iff.mpr there, slow, angle]
  rfl

theorem rebuildCmd_starts (idle : d.cen.job = none) (there : (d.ringDef x).isSome = true) : d.rebuildCmd x = d.startRebuild [x] := by
  rw [Dev.rebuildCmd, jobRuns_eq_false idle, Option.isNone_eq_false_iff.mpr there]
  rfl

theorem serviceCmd_starts {e : RingDef} (idle : d.cen.job = none) (there : d.ringDef x = some e) (service : e.service = true)
    (slow : d.atSpeed x 60 = false) (used : d.queueUsed (d.g CENSUS_JOB_QUEUE) = true)
    (owner : d.queueOwner (d.g CENSUS_JOB_QUEUE) = 0) (source : d.queueSource (d.g CENSUS_JOB_QUEUE) = 2)
    (out : d.serviceOut.isSome = true) (kind : JobKind) (seg blocks : Nat) :
    d.serviceCmd kind x seg blocks = d.putJob (newJob kind x seg blocks) := by
  simp only [Dev.serviceCmd, jobRuns_eq_false idle, there, service, slow, used, owner, source, Option.isNone_eq_false_iff.mpr out]
  rfl

end Start

/-! ### The job put in place (R195, R201) -/

/-- CENSUS_STATUS.JOB shows the job's kind. -/
theorem putJob_code (d : Dev) (j : Job) : (d.putJob j).g CENSUS_STATUS_JOB = j.kind.code := by
  rw [Dev.putJob, g_p_ne _ _ _ _ _ _ (by decide), g_p_other _ _ _ _ (by cases j.kind <;> decide)]
  cases j.kind <;> rfl

/-- The results of a rebuild share no field with the SA ranges. -/
theorem scanList_cleared (d : Dev) (x : Ring) : ((d.p CENSUS_REBUILD_SEEDED 0 0).p CENSUS_REBUILD_FOUND 0 0).scanList x = d.scanList x := by
  have apart : ∀ x : Ring, CENSUS_RING_SA_FIRST.key x ≠ CENSUS_REBUILD_FOUND.key 0 ∧ CENSUS_RING_SA_FIRST.key x ≠ CENSUS_REBUILD_SEEDED.key 0
      ∧ CENSUS_RING_SA_LAST.key x ≠ CENSUS_REBUILD_FOUND.key 0 ∧ CENSUS_RING_SA_LAST.key x ≠ CENSUS_REBUILD_SEEDED.key 0 := by decide
  obtain ⟨firstFound, firstSeeded, lastFound, lastSeeded⟩ := apart x
  simp only [Dev.scanList, g_p_ne _ _ _ _ _ _ firstFound, g_p_ne _ _ _ _ _ _ firstSeeded, g_p_ne _ _ _ _ _ _ lastFound,
    g_p_ne _ _ _ _ _ _ lastSeeded, p_cen]

/-- The job of a rebuild of one ring: the stored seeds first, then its SAs. -/
theorem startRebuild_job (d : Dev) (x : Ring) :
    ∃ j, (d.startRebuild [x.val]).cen.job = some j ∧ j.kind = .rebuild ∧ j.ring = x.val ∧ j.list = d.scanList x
      ∧ j.todo.length = (d.cen.seeds.filter fun q => q.1 == x.val).length ∧ (d.startRebuild [x.val]).g CENSUS_STATUS_JOB = 2 :=
  ⟨_, rfl, rfl, rfl, scanList_cleared d x, List.length_map _, putJob_code _ _⟩

/-! ### The ENTRY job (R412) -/

theorem length_insertBy {α : Type} (lt : α → α → Bool) (a : α) (l : List α) : (insertBy lt a l).length = l.length + 1 := by
  induction l with
  | nil => rfl
  | cons b l ih =>
    rw [insertBy]
    split
    · rfl
    · rw [List.length_cons, ih, List.length_cons]

theorem length_sortBy {α : Type} (lt : α → α → Bool) (l : List α) : (sortBy lt l).length = l.length := by
  rw [sortBy, List.foldl_reverse]
  induction l with
  | nil => rfl
  | cons a l ih => rw [List.foldr_cons, length_insertBy, ih, List.length_cons]

/-- The listed entries in ascending SA. -/
def Dev.entryList (d : Dev) : List Nat := sortBy (fun a b => decide (d.entSa a < d.entSa b)) (d.cen.waits.map (·.idx))

theorem answers_entryJob_starts {s : State} (idle : s.dev.cen.job = none) (serve : s.dev.cen.serve = true) (waits : s.dev.cen.waits ≠ []) :
    Answers .entryJob s
      ((s.dev.putJob { newJob .entry (s.dev.entRing (s.dev.entryList.headD 0)) 0 0 with list := s.dev.entryList }).inCen fun c =>
        { c with serve := false }) := by
  have run : exec .entryJob s = execEntryJob s := rfl
  have listed : s.dev.cen.waits.isEmpty = false := by rwa [List.isEmpty_eq_false_iff]
  rw [Answers, run, execEntryJob, effect_next]
  simp only [jobRuns_eq_false idle, serve, listed]
  rfl

theorem answers_entryJob_idle {s : State} (unserved : s.dev.cen.serve = false) : Answers .entryJob s s.dev := by
  have run : exec .entryJob s = execEntryJob s := rfl
  rw [Answers, run, execEntryJob, effect_next]
  simp only [unserved, Bool.not_false, Bool.or_true, Bool.true_or, if_true]

/-! ### A walk's next exchange (R184, R186) -/

/-- The query on top of the walk's stack taken, with `rest` left. -/
def Dev.treeTaken (d : Dev) (l : Nat) (rest : List (Nat × Nat)) : Dev :=
  ((d.p CENSUS_STATUS_DEPTH 0 l).putStack rest).updJob fun j => { j with queries := j.queries + 1 }

theorem treeTaken_job {d : Dev} {j : Job} (job : d.cen.job = some j) (l : Nat) (rest : List (Nat × Nat)) :
    (d.treeTaken l rest).cen.job = some { j with stack := rest, queries := j.queries + 1 } := by
  simp only [Dev.treeTaken, Dev.putStack, Dev.updJob, inCen_cen, p_cen, job, Option.map_some]

theorem treeTaken_jobCaller (d : Dev) (l : Nat) (rest : List (Nat × Nat)) : (d.treeTaken l rest).jobCaller = d.jobCaller := by
  simp only [Dev.treeTaken, Dev.putStack, Dev.updJob, Dev.jobCaller, inCen_g]
  rw [g_p_ne _ _ _ _ _ _ (by decide), inCen_g, g_p_ne _ _ _ _ _ _ (by decide)]

theorem chooseStep_of_tree {d : Dev} {j : Job} {l pre : Nat} {rest : List (Nat × Nat)} (job : d.cen.job = some j) (walk : j.kind = .walk)
    (done : j.todo = []) (stack : j.stack = (l, pre) :: rest) (n : Nat) :
    d.chooseStep (n + 1) = (some (.tree l pre), d.treeTaken l rest) := by
  have more : d.jobMore j = (some (.tree l pre), d.treeTaken l rest) := by
    simp only [Dev.jobMore, walk, stack]
    rfl
  simp only [Dev.chooseStep, job, done, walk, more, reduceCtorEq, if_false, Dev.stepVain, Bool.false_eq_true]

section PlaceStep
variable {d : Dev} {j : Job} (job : d.cen.job = some j) (st : JobStep)
include job

theorem placeStep_job :
    (d.placeStep st).cen.job = some { j with phase := .queued, step := some st, ring := d.stepRingOf j st, slot := none, replies := [] } := by
  simp only [Dev.placeStep, job, Dev.putCaller, Dev.updJob, inFig_cen, p_cen, inCen_cen, Option.map_some]

/-- The exchange joins the fire queue of the job's Caller. -/
theorem placeStep_queue (known : d.jobCaller < 8) :
    ∃ f, ((d.placeStep st).caller d.jobCaller).queue = (d.caller d.jobCaller).queue ++ [f] ∧ f.job = true ∧ f.tick = d.now := by
  simp only [Dev.placeStep, job]
  exact ⟨_, congrArg CallerState.queue (caller_putCaller _ d.jobCaller _ known), rfl, rfl⟩

end PlaceStep

theorem settles_jobExchangePlace (s : State) : Settles .jobExchangePlace s s.dev.jobAdvance := rfl

section Advance
variable {d : Dev} {j : Job} (job : d.cen.job = some j) (place : j.phase = .place) (room : (d.caller d.jobCaller).queue.length < 4)
include job place room

theorem jobAdvance_places {st : JobStep} {e : Dev} (goes : d.jobStops j = false) (next : d.chooseStep 10000 = (some st, e)) :
    d.jobAdvance = e.placeStep st := by
  simp only [Dev.jobAdvance, job, place, if_neg (Nat.not_le.mpr room), goes, next, if_true, Bool.false_eq_true, if_false]

theorem jobAdvance_of_stopped (stops : d.jobStops j = true) : d.jobAdvance = (d.set1 CENSUS_EVENTS_WALK_ABORT).endJob := by
  simp only [Dev.jobAdvance, job, place, if_neg (Nat.not_le.mpr room), stops, if_true]

end Advance

/-- A walk ends by STOP, by the loss of its ring from the Reel, or at DISC_RPM (R185, R200). -/
theorem jobStops_of_walk (d : Dev) {j : Job} (walk : j.kind = .walk) :
    d.jobStops j = (j.stop || (d.ringDef j.ring).isNone || d.atSpeed j.ring d.discRpm) := by
  have mobile : (JobKind.walk != .entry) = true := rfl
  have noService : (JobKind.walk == .serviceA || JobKind.walk == .serviceV) = false := rfl
  rw [Dev.jobStops, walk, mobile, noService, beq_self_eq_true, Bool.true_and, Bool.true_and, Bool.false_and, Bool.or_false]

/-- A walk with a query on its stack places it. -/
theorem walk_places_tree {s : State} {j : Job} {l pre : Nat} {rest : List (Nat × Nat)} (job : s.dev.cen.job = some j)
    (walk : j.kind = .walk) (place : j.phase = .place) (room : (s.dev.caller s.dev.jobCaller).queue.length < 4) (done : j.todo = [])
    (stack : j.stack = (l, pre) :: rest) (goes : s.dev.jobStops j = false) (known : s.dev.jobCaller < 8) :
    ∃ e, Settles .jobExchangePlace s e
      ∧ (∃ j', e.cen.job = some j' ∧ j'.phase = .queued ∧ j'.step = some (.tree l pre) ∧ j'.stack = rest ∧ j'.queries = j.queries + 1)
      ∧ ∃ f, (e.caller s.dev.jobCaller).queue = (s.dev.caller s.dev.jobCaller).queue ++ [f] ∧ f.job = true ∧ f.tick = s.dev.now := by
  have next := chooseStep_of_tree job walk done stack 9999
  have taken := treeTaken_job job l rest
  have caller := treeTaken_jobCaller s.dev l rest
  have queued := placeStep_queue taken (.tree l pre) (caller ▸ known)
  rw [caller] at queued
  exact ⟨_, (settles_jobExchangePlace s).of_eq (jobAdvance_places job place room goes next),
    ⟨_, placeStep_job taken _, rfl, rfl, rfl, rfl⟩, queued⟩

/-- Settles O36: each command's conditions decide between its refusal and the job that it puts in place, and a walk's next exchange is
what `chooseStep` takes from its stack. -/
theorem censusJobsStartAndAdvance : Obligations.CensusJobsStartAndAdvance := by
  intro s t x seg blocks
  refine ⟨fun hadm => ⟨fun idle there => ⟨fun slow known => ?_, fun fast => ?_, ?_, ?_, fun e ring service => ⟨?_, fun fast => ?_⟩⟩,
      fun barred => ?_, fun j job => ?_⟩,
    fun idle serve waits => ?_, answers_entryJob_idle, fun j job walk place room => ⟨?_, fun fast => ?_⟩⟩
  · exact (answers_walk hadm x).of_eq (walkCmd_starts (d := s.dev.touched) idle there slow known)
  · exact (answers_walk hadm x).of_eq (walkCmd_of_fast (d := s.dev.touched) fast)
  · exact (answers_rebuild hadm x).of_eq (rebuildCmd_starts (d := s.dev.touched) idle there)
  · obtain ⟨j, job⟩ := startRebuild_job s.dev.touched x
    exact ⟨_, j, (answers_rebuild hadm x).of_eq (rebuildCmd_starts (d := s.dev.touched) idle there), job⟩
  · intro slow used owner source out
    have starts := serviceCmd_starts (d := s.dev.touched) idle ring service slow used owner source out
    exact ⟨(answers_serviceA hadm x seg).of_eq (starts ..), (answers_serviceV hadm x seg blocks).of_eq (starts ..)⟩
  · have refused := serviceCmd_of_fast (d := s.dev.touched) fast
    exact ⟨(answers_serviceA hadm x seg).of_eq (refused ..), (answers_serviceV hadm x seg blocks).of_eq (refused ..)⟩
  · obtain ⟨walk, rebuild, service⟩ := commands_refused (d := s.dev.touched) barred
    exact ⟨(answers_walk hadm x).of_eq walk, (answers_rebuild hadm x).of_eq rebuild, (answers_serviceA hadm x seg).of_eq (service ..),
      (answers_serviceV hadm x seg blocks).of_eq (service ..)⟩
  · refine (answers_stop hadm).of_eq ?_
    have runs : s.dev.touched.cen.job = some j := job
    rw [Dev.updJob, Dev.inCen, runs]
    rfl
  · exact ⟨_, answers_entryJob_starts idle serve waits, rfl, putJob_code _ _, _, rfl, rfl, rfl,
      (length_sortBy _ _).trans (List.length_map _)⟩
  · intro l pre rest done stack unstopped there slow known
    have goes : s.dev.jobStops j = false := by
      rw [jobStops_of_walk _ walk, unstopped, Option.isNone_eq_false_iff.mpr there, slow]
      rfl
    exact walk_places_tree job walk place room done stack goes known
  · have stops : s.dev.jobStops j = true := by rw [jobStops_of_walk _ walk, fast, Bool.or_true]
    exact (settles_jobExchangePlace s).of_eq (jobAdvance_of_stopped job place room stops)

end Sys2Proof.Machine
end

section
/-!
The statement of 09_sensor_hub.md: samples taken in, the messages that engines apply, stall drops, and the refill of RATE buckets.
-/

namespace Sys2Proof.Machine

/-! ### The runs of the slots and the engines -/

theorem assocGet_assocPut {α : Type} (k : Nat) (v : α) (l : List (Nat × α)) : assocGet k (assocPut k v l) = some v := by
  simp [assocGet, assocPut]

@[simp] theorem runOf_putRun (d : Dev) (n : Nat) (f : SlotRun → SlotRun) : (d.putRun n f).runOf n = f (d.runOf n) :=
  congrArg (·.getD newRun) (assocGet_assocPut n (f (d.runOf n)) d.hub.run)

theorem runOf_of_run {d e : Dev} (same : e.hub.run = d.hub.run) (n : Nat) : e.runOf n = d.runOf n := by rw [Dev.runOf, same, Dev.runOf]

theorem vupdN_vupdN {α : Type} {n : Nat} (v : Vector α n) (i : Nat) (f g : α → α) :
    vupdN (vupdN v i f) i g = vupdN v i (g ∘ f) := by
  by_cases h : i < n
  · simp [vupdN, vupd, h]
  · simp [vupdN, h]

theorem putEngine_putEngine (d : Dev) (e : Nat) (f g : EngineState → EngineState) :
    (d.putEngine e f).putEngine e g = d.putEngine e (g ∘ f) :=
  congrArg (fun v => d.inHub fun s => { s with engines := v }) (vupdN_vupdN d.hub.engines e f g)

/-- The block whose engine `e` has `l` in its inbox. -/
def Dev.withInbox (d : Dev) (e : Nat) (l : List Msg) : Dev := d.putEngine e fun x => { x with inbox := l }

theorem withInbox_append (d : Dev) (e : Nat) (l : List Msg) :
    ((d.withInbox e []).putEngine e fun x => { x with inbox := x.inbox ++ l }) = d.withInbox e l := putEngine_putEngine d e _ _

/-! ### What leaves the hub's own state as it was -/

theorem set1_hub (d : Dev) (r : Row) (n : Nat) : (d.set1 r n).hub = d.hub := rfl

theorem bump_hub (d : Dev) (r : Row) (n k : Nat) : (d.bump r n k).hub = d.hub := rfl

theorem hubEvent_hub (d : Dev) (t : Nat) : (d.hubEvent t).hub = d.hub := rfl

theorem when_hub (d : Dev) (b : Bool) (f : Dev → Dev) (h : ∀ d, (f d).hub = d.hub) : (d.when b f).hub = d.hub := by
  cases b
  · rfl
  · exact h d

theorem takeCell_hub (d : Dev) : d.takeCell.hub = d.hub :=
  (when_hub _ _ _ fun d => set1_hub d POOL_EVENTS_EXHAUST 0).trans (when_hub _ _ _ fun d => set1_hub d POOL_EVENTS_LOW 0)

theorem threshold_hub (d : Dev) (n before : Nat) : (d.threshold n before).hub = d.hub := when_hub _ _ _ fun d => set1_hub d _ _

theorem dropPush_hub (d : Dev) (n : Nat) (starved : Bool) : (d.dropPush n starved).hub = d.hub := when_hub _ _ _ fun d => bump_hub d _ _ _

theorem placeWords_hub (d : Dev) (n : Nat) (ws : List QWord) : (d.placeWords n ws).hub = d.hub := when_hub _ _ _ takeCell_hub

theorem pushWord_hub (d : Dev) (n : Nat) (w : Word) : (d.pushWord n w).2.hub = d.hub := by
  unfold Dev.pushWord
  dsimp only
  split
  · exact dropPush_hub d n true
  · split
    · exact dropPush_hub d n false
    · split
      · exact dropPush_hub d n true
      · exact (threshold_hub _ _ _).trans (placeWords_hub d n _)

theorem pushItem_hub (d : Dev) (n : Nat) (ws : List Word) : (d.pushItem n ws).2.hub = d.hub := by
  induction ws generalizing d with
  | nil => rfl
  | cons w ws ih =>
    have word := pushWord_hub d n w
    rw [Dev.pushItem]
    split
    next e pushed => exact (ih e).trans (by rwa [pushed] at word)
    next e dropped => rwa [dropped] at word

theorem pushRecord_hub (d : Dev) (q source : Nat) (ws : List Nat) : (d.pushRecord q source ws).hub = d.hub := by
  have item := pushItem_hub d q (ws.map (BitVec.ofNat 32))
  rw [Dev.pushRecord]
  split
  · rfl
  · split
    · rfl
    · split
      next e pushed => rwa [pushed] at item
      next e cut => rwa [cut] at item

theorem bankCount_hub (d : Dev) (w : Nat) : (d.bankCount w).hub = d.hub := ww_hub d w _

theorem putBank64_hub (d : Dev) (w v : Nat) : (d.putBank64 w v).hub = d.hub := (ww_hub _ _ _).trans (ww_hub d w v)

theorem countOut_hub (d : Dev) (k : SlotDef) (m : Msg) : (d.countOut k m).hub = d.hub := by
  rw [Dev.countOut]
  split
  · exact bankCount_hub d _
  · rfl

/-! ### A message sent moves no slot's run (R238, R239) -/

theorem sendMsg_run (d : Dev) (e : Nat) (m : Msg) : (d.sendMsg e m).hub.run = d.hub.run := by
  rw [Dev.sendMsg]
  split
  · rfl
  · split
    · rfl
    · split <;> rfl

theorem sendLink_run (d : Dev) (k : SlotDef) (off : Nat) (m : Msg) : (d.sendLink k off m).hub.run = d.hub.run := by
  rw [Dev.sendLink]
  split
  · rfl
  · exact sendMsg_run d k.engine _

theorem output_run (d : Dev) (k : SlotDef) (m : Msg) : (d.output k m).hub.run = d.hub.run := by
  have aside : (d.output k m).hub = (d.sendLink k 0 m).hub :=
    (when_hub _ _ _ fun d => hubEvent_hub d (d.slotTenant k)).trans (when_hub _ _ _ fun d => pushRecord_hub d k.queue 0 _)
  rw [aside, sendLink_run]

/-! ### What the primitives do to their slot's run (R241, R243) -/

/-- IN and HIGH_TICKS are in the bank; of the run only the stamp of the last message changes. -/
theorem countIn_runOf (d : Dev) (k : SlotDef) (m : Msg) :
    (d.countIn k m).runOf k.index = { d.runOf k.index with lastT := some m.t } := by
  have bank : ∀ (high w : Nat) (e : Dev), e.hub = d.hub →
      (if high = 0 then e else e.putBank64 w (satAdd 64 (e.bank64 w) high)).hub = d.hub := fun high w e same => by
    split
    · exact same
    · exact (putBank64_hub e w _).trans same
  rw [Dev.countIn, runOf_putRun]
  exact congrArg (fun r : SlotRun => { r with lastT := some m.t })
    (runOf_of_run (congrArg HubState.run (bank _ _ _ (bankCount_hub d _))) k.index)

/-- A change of the level sends its LEVEL message; the run holds the new level. -/
theorem setLevel_out (d : Dev) (k : SlotDef) (b : Bool) (m : Msg) : ((d.setLevel k b m).runOf k.index).out = b := by
  rw [Dev.setLevel]
  split
  next same => exact eq_of_beq same
  next =>
    have sent := (output_run ((d.putRun k.index fun r => { r with out := b }).countOut k m) k
      { m with level := true, v := (flagOf b : Nat), supp := 0 }).trans (congrArg HubState.run (countOut_hub _ k m))
    rw [runOf_of_run sent, runOf_putRun]

/-- A bucket that is used up suppresses the message. -/
theorem rate_runOf_of_used (d : Dev) (k : SlotDef) (m : Msg) (used : k.u16 16 ≤ (d.runOf k.index).taken) :
    (d.rate k m).runOf k.index = { d.runOf k.index with supp := (d.runOf k.index).supp + 1 } := by
  rw [Dev.rate, if_neg (Nat.not_lt.mpr used), runOf_putRun, runOf_of_run (congrArg HubState.run (bankCount_hub d _))]

/-! ### The next level of a THRESH slot of MODE 0 (R241) -/

section Thresh

variable {k : SlotDef} {out : Bool} {v : Int} (mode : k.u8 20 = 0) (order : k.s16 18 ≤ k.s16 16)
include mode order

theorem threshNext_eq : threshNext k out v = if out then decide (k.s16 18 < v) else decide (k.s16 16 ≤ v) := by
  rw [threshNext, if_pos mode, Int.min_eq_left order, ← decide_not]
  simp only [Int.not_le]

theorem threshNext_rises (high : k.s16 16 ≤ v) (side : k.s16 18 < v ∨ out = false) : threshNext k out v = true := by
  rw [threshNext_eq mode order]
  cases out
  · exact decide_eq_true high
  · exact decide_eq_true (side.resolve_right Bool.noConfusion)

theorem threshNext_falls (low : v ≤ k.s16 18) (side : v < k.s16 16 ∨ out = true) : threshNext k out v = false := by
  rw [threshNext_eq mode order]
  cases out
  · exact decide_eq_false (Int.not_le.mpr (side.resolve_right Bool.noConfusion))
  · exact decide_eq_false (Int.not_lt.mpr low)

theorem threshNext_between (above : k.s16 18 < v) (below : v < k.s16 16) : threshNext k out v = out := by
  rw [threshNext_eq mode order]
  cases out
  · exact decide_eq_false (Int.not_le.mpr below)
  · exact decide_eq_true above

end Thresh

/-! ### A message applied (R239, R241, R252) -/

/-- The block in which a slot of a kind that counts its messages acts: IN and HIGH_TICKS have them (R243). -/
def Dev.counted (d : Dev) (k : SlotDef) (m : Msg) : Dev := (d.putEngine k.engine fun x => { x with busy := x.busy + k.cycles }).countIn k m

/-- A message that a slot counts leaves its level and its bucket as they were. -/
theorem counted_runOf (d : Dev) (k : SlotDef) (m : Msg) :
    (d.counted k m).runOf k.index = { d.runOf k.index with lastT := some m.t } := countIn_runOf _ k m

section Apply

variable {d : Dev} {m : Msg}

theorem applyMsg_of_no_slot (undefined : d.hubSlot m.slot = none) : d.applyMsg m = d.bump HUB_ERR_TYPE_ERR := by
  rw [Dev.applyMsg, undefined]

variable {k : SlotDef} (slot : d.hubSlot m.slot = some k)
include slot

theorem applyMsg_of_type (type : kindAccepts k.kind m.level = false) : d.applyMsg m = d.bump HUB_ERR_TYPE_ERR := by
  rw [Dev.applyMsg, slot]
  simp only [type, Bool.not_false, if_true]

theorem applyMsg_of_off (type : kindAccepts k.kind m.level = true) (off : d.hub.slotsOff.contains k.index = true) : d.applyMsg m = d := by
  rw [Dev.applyMsg, slot]
  simp only [type, off, Bool.not_true, Bool.false_eq_true, if_false, if_true]

variable (on : d.hub.slotsOff.contains k.index = false) (heeded : (k.dropInvalid && m.inv) = false)
include on heeded

theorem applyMsg_thresh (kind : k.kind = kindThresh) (value : m.level = false) :
    d.applyMsg m = ((d.counted k m).setLevel k (threshNext k ((d.counted k m).runOf k.index).out m.v) m).sendLink k 2 m := by
  have takes : kindAccepts kindThresh m.level = true := by rw [value]; rfl
  rw [Dev.applyMsg, slot]
  simp only [takes, on, heeded, kind, Bool.not_true, Bool.false_eq_true, if_false]
  rfl

theorem applyMsg_rate (kind : k.kind = kindRate) : d.applyMsg m = ((d.counted k m).rate k m).sendLink k 2 m := by
  have takes : kindAccepts kindRate m.level = true := rfl
  rw [Dev.applyMsg, slot]
  simp only [takes, on, heeded, kind, Bool.not_true, Bool.false_eq_true, if_false]
  rfl

theorem applyMsg_thresh_level (kind : k.kind = kindThresh) (value : m.level = false) :
    ((d.applyMsg m).runOf k.index).out = threshNext k (d.runOf k.index).out m.v := by
  rw [applyMsg_thresh slot on heeded kind value, runOf_of_run (sendLink_run _ k 2 m), setLevel_out, counted_runOf]

theorem applyMsg_rate_runOf_of_used (kind : k.kind = kindRate) (used : k.u16 16 ≤ (d.runOf k.index).taken) :
    (d.applyMsg m).runOf k.index = { d.runOf k.index with lastT := some m.t, supp := (d.runOf k.index).supp + 1 } := by
  have usedUp : k.u16 16 ≤ ((d.counted k m).runOf k.index).taken := by rwa [counted_runOf]
  rw [applyMsg_rate slot on heeded kind, runOf_of_run (sendLink_run _ k 2 m), rate_runOf_of_used _ _ _ usedUp, counted_runOf]

end Apply

/-! ### An engine that waits for no full inbox (R239) -/

section Head

variable {d : Dev} {e : Nat} (free : (d.engine e).out = [])
include free

theorem applyHead_of_empty (empty : (d.engine e).inbox = []) : d.applyHead e = d := by
  simp [Dev.applyHead, Dev.drainOut, free, empty]

/-- What the slot sends to its own engine comes before the messages `ms` that wait (R238). -/
theorem applyHead_of_cons {m : Msg} {ms : List Msg} (head : (d.engine e).inbox = m :: ms) :
    d.applyHead e = ((d.withInbox e []).applyMsg m).putEngine e fun x => { x with inbox := x.inbox ++ ms } := by
  simp [Dev.applyHead, Dev.drainOut, free, head, Dev.withInbox]

end Head

/-! ### A sample taken in (R231, R232) -/

theorem takeSample_of_empty {d : Dev} (empty : d.hub.intake = []) : d.takeSample = d := by rw [Dev.takeSample, empty]

section Intake

variable {d : Dev} {m : Sample} {rest : List Sample} (head : d.hub.intake = m :: rest)
include head

theorem takeSample_of_unwatched (unwatched : d.flag HUB_CTRL_INTAKE_EN = false ∨ d.fedEntries m.chan = []) :
    d.takeSample = ((d.inHub fun h => { h with intake := rest }).endPoll m.last).bump HUB_INTAKE_UNWATCHED := by
  have dropped : (!d.flag HUB_CTRL_INTAKE_EN || (d.fedEntries m.chan).isEmpty) = true := by
    rcases unwatched with off | unfed
    · rw [off, Bool.not_false, Bool.true_or]
    · rw [unfed, List.isEmpty_nil, Bool.or_true]
  rw [Dev.takeSample, head]
  exact if_pos dropped

variable (on : d.flag HUB_CTRL_INTAKE_EN = true) {w : WatchDef} {i : Nat} (fed : d.fedEntries m.chan = [(w, i)])
include on fed

/-- One entry is fed: the sample waits for room in the inbox of its slot's engine. -/
theorem takeSample_of_fed :
    d.takeSample = if (d.engine (d.engineOf (d.sampleMsg m w i))).inbox.length < 256
      then ((((d.inHub fun h => { h with intake := rest }).endPoll m.last).inc HUB_SAMPLES_COUNT).countStamps m [(w, i)]).feed m w i
      else d := by
  have room : d.fedRoom m [(w, i)] = decide ((d.engine (d.engineOf (d.sampleMsg m w i))).inbox.length < 256) := by
    simp only [Dev.fedRoom, List.map_cons, List.map_nil, List.all_cons, List.all_nil, Bool.and_true, List.count_singleton_self]
    rfl
  rw [Dev.takeSample, head]
  simp only [on, fed, room, Bool.not_true, List.isEmpty_cons, Bool.or_self, Bool.false_eq_true, if_false,
    Bool.not_eq_true', decide_eq_false_iff_not, ite_not]
  rfl

end Intake

/-! ### The commands -/

theorem settles_sampleIntake (s : State) : Settles .sampleIntake s s.dev.takeSample := rfl

theorem settles_messageApply (s : State) (e : Engine) : Settles (.messageApply e) s (s.dev.applyHead e) := rfl

section HeadApplied

variable {s : State} {e : Engine} {m : Msg} {ms : List Msg} (free : (s.dev.engine e).out = []) (head : (s.dev.engine e).inbox = m :: ms)
include free head

theorem settles_messageApply_head :
    Settles (.messageApply e) s (((s.dev.withInbox e []).applyMsg m).putEngine e fun x => { x with inbox := x.inbox ++ ms }) :=
  (settles_messageApply s e).of_eq (applyHead_of_cons free head)

theorem settles_messageApply_typeErr (wrong : (s.dev.withInbox e []).applyMsg m = (s.dev.withInbox e []).bump HUB_ERR_TYPE_ERR) :
    Settles (.messageApply e) s ((s.dev.withInbox e ms).bump HUB_ERR_TYPE_ERR) :=
  (settles_messageApply_head free head).of_eq <| wrong ▸ congrArg (Dev.bump · HUB_ERR_TYPE_ERR) (withInbox_append s.dev e ms)

theorem settles_messageApply_dropped (off : (s.dev.withInbox e []).applyMsg m = s.dev.withInbox e []) :
    Settles (.messageApply e) s (s.dev.withInbox e ms) :=
  (settles_messageApply_head free head).of_eq <| off.symm ▸ withInbox_append s.dev e ms

end HeadApplied

theorem answers_stallDrop_of_free {s : State} {e : Engine} (free : (s.dev.engine e).out = []) : Answers (.stallDrop e) s s.dev := by
  have run : exec (.stallDrop e) s = execStallDrop e s := rfl
  rw [Answers, run, execStallDrop, effect_next, free]

theorem answers_stallDrop_of_cons {s : State} {e : Engine} {m : Msg} {ms : List Msg} (waits : (s.dev.engine e).out = m :: ms) :
    Answers (.stallDrop e) s ((s.dev.bump HUB_ENG_STALL_DROP e).putEngine e fun x => { x with out := ms, stall := 0 }) := by
  have run : exec (.stallDrop e) s = execStallDrop e s := rfl
  rw [Answers, run, execStallDrop, effect_next, waits]

theorem answers_rateRefill {s : State} {n : Fin 1024} {k : SlotDef} (slot : s.dev.hubSlot n = some k) :
    Answers (.rateRefill n) s
      (if k.kind = kindRate ∧ 0 < (s.dev.runOf n).taken ∧ (s.dev.runOf n).refill + max 1 (k.u32 20) ≤ s.dev.now then
        s.dev.putRun n fun r => { r with taken := r.taken - 1, refill := (s.dev.runOf n).refill + max 1 (k.u32 20) }
      else s.dev) := by
  have run : exec (.rateRefill n) s = execRateRefill n s := rfl
  rw [Answers, run, execRateRefill, effect_next, slot]

/-- Settles O45: intake and the engine's head decide by their conditions, a THRESH slot's level is `threshNext` of the level before, and
what a slot sends, records and counts leaves its run as it was. -/
theorem hubAppliesMessagesInOrder : Obligations.HubAppliesMessagesInOrder := by
  intro s e n x
  refine ⟨fun empty => ?_, fun m rest intake => ⟨fun unwatched => ?_, fun w i on fed => ⟨fun room => ?_, fun full => ?_⟩⟩,
    fun free empty => ?_, fun m ms free head => ⟨fun undefined => ?_, fun k slot =>
      ⟨fun type => ?_, fun type off => ?_, fun on kept => ?_⟩⟩,
    answers_stallDrop_of_free, fun m ms => answers_stallDrop_of_cons, fun k slot => ⟨fun kind taken due => ?_, fun early => ?_⟩⟩
  · exact (settles_sampleIntake s).of_eq (takeSample_of_empty empty)
  · exact (settles_sampleIntake s).of_eq (takeSample_of_unwatched intake unwatched)
  · exact (settles_sampleIntake s).of_eq ((takeSample_of_fed intake on fed).trans (if_pos room))
  · exact (settles_sampleIntake s).of_eq ((takeSample_of_fed intake on fed).trans (if_neg (Nat.not_lt.mpr full)))
  · exact (settles_messageApply s e).of_eq (applyHead_of_empty free empty)
  · exact settles_messageApply_typeErr free head (applyMsg_of_no_slot undefined)
  · exact settles_messageApply_typeErr free head (applyMsg_of_type slot type)
  · exact settles_messageApply_dropped free head (applyMsg_of_off slot type off)
  · have heeded := Bool.and_eq_false_iff.mpr kept
    have applies := settles_messageApply_head free head
    refine ⟨fun kind value mode order => ⟨_, applies, ?_⟩, fun kind used => ⟨_, applies, ?_⟩⟩
    · have level := applyMsg_thresh_level (d := s.dev.withInbox e []) slot on heeded kind value
      exact ⟨fun high side => level.trans (threshNext_rises mode order high side),
        fun low side => level.trans (threshNext_falls mode order low side),
        fun above below => level.trans (threshNext_between mode order above below)⟩
    · have bucket := applyMsg_rate_runOf_of_used (d := s.dev.withInbox e []) slot on heeded kind used
      exact ⟨(congrArg SlotRun.supp bucket :), (congrArg SlotRun.taken bucket :)⟩
  · exact (answers_rateRefill slot).of_eq (if_pos ⟨kind, taken, due⟩)
  · exact (answers_rateRefill slot).of_eq (if_neg fun ⟨kind, taken, due⟩ => by omega)

end Sys2Proof.Machine
end

section
/-!
The statements of 10_queues_pool.md: the book of the cell pool, and what settling leaves.
-/

namespace Sys2Proof.Machine

/-! ### The book of the cell pool (R256, R269) -/

/-- FREE and the cells of all queues together are `b`, and every head offset is below 4. -/
structure Dev.PoolBook (d : Dev) (b : Nat) : Prop where
  heads : ∀ n < 64, (d.queue n).head < 4
  total : d.que.free + d.queuedCells = b

theorem Dev.PoolBook.of_que {d e : Dev} {b : Nat} (book : d.PoolBook b) (same : e.que = d.que) : e.PoolBook b := by
  obtain ⟨heads, total⟩ := book
  refine ⟨?_, ?_⟩
  · simpa only [Dev.queue, same] using heads
  · simpa only [Dev.queuedCells, same] using total

theorem flagOf_decide (p : Prop) [Decidable p] : flagOf (decide p) = if p then 1 else 0 := by
  simp only [flagOf, decide_eq_true_eq]

theorem cells_of_nil {q : Queue} (words : q.words = []) : q.cells = flagOf q.seated := by
  rw [Queue.cells, Queue.dataCells, words]
  rfl

theorem cells_of_cons {q : Queue} {x : QWord} {xs : List QWord} (words : q.words = x :: xs) :
    q.cells = flagOf q.seated + (q.head + xs.length + 4) / 4 := by
  rw [Queue.cells, Queue.dataCells, Queue.depth, words]
  rfl

theorem tailRoom_of_cons {q : Queue} {x : QWord} {xs : List QWord} (words : q.words = x :: xs) :
    q.tailRoom = (4 - (q.head + xs.length + 1) % 4) % 4 := by
  rw [Queue.tailRoom, Queue.depth, words]
  rfl

theorem queue_putQueue (d : Dev) (n : Nat) (f : Queue → Queue) (hn : n < 64) : (d.putQueue n f).queue n = f (d.queue n) :=
  vget_vupdN_same _ _ _ _ hn

theorem queue_putQueue_ne (d : Dev) (n m : Nat) (f : Queue → Queue) (h : n ≠ m) : (d.putQueue n f).queue m = d.queue m :=
  vget_vupdN_ne _ _ _ _ _ h

theorem sum_set_add_getElem (l : List Nat) (n a : Nat) (h : n < l.length) : (l.set n a).sum + l[n] = l.sum + a := by
  induction l generalizing n with
  | nil => exact absurd h (Nat.not_lt_zero n)
  | cons x l ih =>
    cases n with
    | zero =>
      rw [List.set_cons_zero, List.sum_cons, List.sum_cons, List.getElem_cons_zero]
      omega
    | succ n =>
      have rest := ih n (Nat.lt_of_succ_lt_succ h)
      rw [List.set_cons_succ, List.sum_cons, List.sum_cons, List.getElem_cons_succ]
      omega

theorem queuedCells_putQueue (d : Dev) (n : Nat) (f : Queue → Queue) (hn : n < 64) :
    (d.putQueue n f).queuedCells + (d.queue n).cells = d.queuedCells + (f (d.queue n)).cells := by
  have here : d.queue n = d.que.q[n] := dif_pos hn
  have there : (d.putQueue n f).que.q.toList = d.que.q.toList.set n (f (d.queue n)) := by
    rw [here]
    simp [Dev.putQueue, vupdN, vupd, hn, Vector.toList_set]
  have sum := sum_set_add_getElem (d.que.q.toList.map Queue.cells) n (f (d.queue n)).cells (by simpa using hn)
  rw [← List.map_set, ← there] at sum
  simpa [Dev.queuedCells, here] using sum

/-! ### What a change of one queue, and of the free list, does to the book -/

section Book

variable {d : Dev} {b n : Nat}

/-- A queue changed, with the cells that it gains or gives up. -/
theorem Dev.PoolBook.putQueue (book : d.PoolBook b) {c : Nat} {f : Queue → Queue} (hn : n < 64) (head : (f (d.queue n)).head < 4)
    (cells : c + (d.queue n).cells = b + (f (d.queue n)).cells) : (d.putQueue n f).PoolBook c := by
  refine ⟨fun m hm => ?_, ?_⟩
  · by_cases same : n = m
    · rwa [← same, queue_putQueue d n f hn]
    · rw [queue_putQueue_ne d n m f same]
      exact book.heads m hm
  · have sum := queuedCells_putQueue d n f hn
    have total := book.total
    have free : (d.putQueue n f).que.free = d.que.free := rfl
    omega

theorem Dev.PoolBook.putQueue_same (book : d.PoolBook b) {f : Queue → Queue} (hn : n < 64)
    (head : (f (d.queue n)).head = (d.queue n).head) (cells : (f (d.queue n)).cells = (d.queue n).cells) : (d.putQueue n f).PoolBook b :=
  book.putQueue hn (head ▸ book.heads n hn) (by rw [cells])

theorem when_que (d : Dev) (b : Bool) (f : Dev → Dev) (h : ∀ d, (f d).que = d.que) : (d.when b f).que = d.que := by
  cases b
  · rfl
  · exact h d

/-- Taking a cell moves FREE and what is owed to the records. -/
theorem takeCell_que (d : Dev) :
    ∃ low exhaust, d.takeCell.que = { d.que with free := d.que.free - 1, lowDue := low, exhaustDue := exhaust } :=
  ⟨_, _, (when_que _ _ (fun d => d.set1 POOL_EVENTS_EXHAUST) fun _ => rfl).trans
    (when_que _ _ (fun d => d.set1 POOL_EVENTS_LOW) fun _ => rfl)⟩

theorem queue_takeCell (d : Dev) (n : Nat) : d.takeCell.queue n = d.queue n := by
  obtain ⟨_, _, que⟩ := takeCell_que d
  rw [Dev.queue, que]
  rfl

theorem Dev.PoolBook.takeCell (book : d.PoolBook (b + 1)) (free : 0 < d.que.free) : d.takeCell.PoolBook b := by
  obtain ⟨_, _, que⟩ := takeCell_que d
  refine ⟨fun m hm => ?_, ?_⟩
  · rw [queue_takeCell]
    exact book.heads m hm
  · have total := book.total
    simp only [Dev.queuedCells, que] at total ⊢
    omega

theorem threshold_que (d : Dev) (n before : Nat) : (d.threshold n before).que = d.que := when_que _ _ _ fun _ => rfl

/-! ### Cells put back, and the queues that wait for one (R411) -/

theorem unseated_spec {q : Nat} (found : d.unseated = some q) : q < 64 ∧ (d.queue q).seated = false := by
  have waits := List.find?_some found
  rw [Bool.and_eq_true, Bool.not_eq_true'] at waits
  exact ⟨List.mem_range.mp (List.mem_of_find?_eq_some found), waits.2⟩

theorem cells_seated {q : Queue} (unseated : q.seated = false) : ({ q with seated := true } : Queue).cells = q.cells + 1 := by
  rw [Queue.cells, Queue.cells, unseated]
  exact (Nat.add_comm _ _).trans (congrArg (· + 1) (Nat.zero_add _).symm)

/-- The free cell that an unseated queue takes is then its reserved cell. -/
theorem Dev.PoolBook.seat (book : d.PoolBook b) (hn : n < 64) (unseated : (d.queue n).seated = false) (free : 0 < d.que.free) :
    (d.takeCell.putQueue n fun x => { x with seated := true }).PoolBook b := by
  obtain ⟨c, rfl⟩ : ∃ c, b = c + 1 := ⟨b - 1, by have := book.total; omega⟩
  have taken := book.takeCell free
  refine taken.putQueue hn (taken.heads n hn) ?_
  rw [queue_takeCell, cells_seated unseated]
  omega

theorem Dev.PoolBook.seatQueues (k : Nat) (book : d.PoolBook b) : (seatQueues k d).PoolBook b := by
  induction k generalizing d with
  | zero => exact book
  | succ k ih =>
    rw [Machine.seatQueues]
    split
    · exact book
    next q found =>
      obtain ⟨hq, unseated⟩ := unseated_spec found
      split
      · exact book
      next some => exact ih (book.seat hq unseated (Nat.pos_of_ne_zero some))

theorem Dev.PoolBook.giveCells (book : d.PoolBook b) (k : Nat) : (d.giveCells k).PoolBook (b + k) := by
  rw [Dev.giveCells]
  split
  next none => rwa [none]
  · have total := book.total
    exact Dev.PoolBook.seatQueues k ⟨book.heads, total ▸ Nat.add_right_comm d.que.free k d.queuedCells⟩

/-- A queue gives up `k` cells, which go back to the free list. -/
theorem Dev.PoolBook.giveBack (book : d.PoolBook b) {e : Dev} {k : Nat} {f : Queue → Queue} (hn : n < 64)
    (same : e.que = (d.putQueue n f).que) (head : (f (d.queue n)).head < 4) (cells : (f (d.queue n)).cells + k = (d.queue n).cells) :
    (e.giveCells k).PoolBook b := by
  obtain ⟨c, rfl⟩ : ∃ c, b = c + k := by
    have sum := queuedCells_putQueue d n f hn
    have total := book.total
    exact ⟨b - k, by omega⟩
  exact ((book.putQueue hn head (by omega)).of_que same).giveCells k

/-! ### Words placed and marks set (R256, R257, R259) -/

/-- Up to a cell of words at the tail costs one cell, where the tail has no room for them. -/
theorem cells_append (q : Queue) (ws : List QWord) (few : ws.length ≤ 4) (mark : Option Word) :
    ({ q with words := q.words ++ ws, head := if q.words.isEmpty then 0 else q.head, mark := mark } : Queue).cells
      = q.cells + flagOf (decide (q.tailRoom < ws.length)) := by
  cases words : q.words with
  | nil =>
    have noRoom : q.tailRoom = 0 := by rw [Queue.tailRoom, words]; rfl
    rw [cells_of_nil words, noRoom]
    cases ws with
    | nil => exact cells_of_nil rfl
    | cons y ys =>
      have one : (0 + ys.length + 4) / 4 = 1 := by
        rw [List.length_cons] at few
        omega
      exact (cells_of_cons rfl).trans (congrArg _ one)
  | cons x xs =>
    have placed : ({ q with words := x :: xs ++ ws, head := q.head, mark := mark } : Queue).cells
        = flagOf q.seated + (q.head + (xs.length + ws.length) + 4) / 4 := List.length_append ▸ cells_of_cons rfl
    rw [cells_of_cons words, tailRoom_of_cons words, flagOf_decide]
    refine placed.trans ?_
    split <;> omega

theorem Dev.PoolBook.placeWords (book : d.PoolBook b) {ws : List QWord} (hn : n < 64) (few : ws.length ≤ 4)
    (room : d.hasRoom n ws.length = true) : (d.placeWords n ws).PoolBook b := by
  have head : (if (d.queue n).words.isEmpty then 0 else (d.queue n).head) < 4 := by
    have := book.heads n hn
    split <;> omega
  have cells := cells_append (d.queue n) ws few (d.queue n).mark
  rw [Dev.placeWords]
  by_cases tight : (d.queue n).tailRoom < ws.length
  · have free : 0 < d.que.free := by
      simp only [Dev.hasRoom, Bool.or_eq_true, decide_eq_true_eq] at room
      omega
    obtain ⟨c, rfl⟩ : ∃ c, b = c + 1 := ⟨b - 1, by have := book.total; omega⟩
    simp only [tight, decide_true, Dev.when, if_true, flagOf] at cells ⊢
    refine (book.takeCell free).putQueue hn ?_ ?_
    · rwa [queue_takeCell]
    · rw [queue_takeCell, cells]
      omega
  · simp only [tight, decide_false, Dev.when, flagOf] at cells ⊢
    exact book.putQueue hn head (by rw [cells]; rfl)

theorem Dev.PoolBook.setMark (book : d.PoolBook b) (hn : n < 64) (m : Option Word) :
    (d.putQueue n fun q => { q with mark := m }).PoolBook b :=
  book.putQueue_same hn rfl rfl

theorem Dev.PoolBook.dropPush (book : d.PoolBook b) (hn : n < 64) (starved : Bool) : (d.dropPush n starved).PoolBook b :=
  (book.setMark hn _).of_que (when_que _ _ _ fun _ => rfl)

theorem length_markWords (q : Queue) : (markWords q).length = flagOf q.mark.isSome := by
  rw [markWords]
  cases q.mark <;> rfl

theorem Dev.PoolBook.pushWord (book : d.PoolBook b) (hn : n < 64) (w : Word) (run : Option Nat := none) :
    (d.pushWord n w run).2.PoolBook b := by
  rw [Dev.pushWord]
  dsimp only
  split
  · exact book.dropPush hn true
  · split
    · exact book.dropPush hn false
    · split
      · exact book.dropPush hn true
      next room =>
        have few (x : QWord) : (markWords (d.queue n) ++ [x]).length ≤ 4 := by
          rw [List.length_append, length_markWords]
          cases (d.queue n).mark.isSome <;> simp [flagOf]
        exact ((book.placeWords hn (few _) (by simpa using room)).setMark hn none).of_que (threshold_que _ _ _)

theorem Dev.PoolBook.enterMarker (book : d.PoolBook b) (hn : n < 64) : (d.enterMarker n).PoolBook b := by
  unfold Dev.enterMarker
  dsimp only
  split
  next enters =>
    simp only [Bool.and_eq_true] at enters
    obtain ⟨⟨⟨mark, _⟩, _⟩, room⟩ := enters
    have one : (markWords (d.queue n)).length = 1 := by rw [length_markWords, mark]; rfl
    exact ((book.placeWords hn (by omega) (by rwa [one])).setMark hn none).of_que (threshold_que _ _ _)
  · exact book

/-! ### The head word popped (R261), and a reset (R265) -/

/-- A pop gives up the head cell with its fourth word, or with the queue's last. -/
theorem cells_pop {q : Queue} {x : QWord} {xs : List QWord} {freed : Bool} (words : q.words = x :: xs) (head : q.head < 4)
    (whole : (q.head == 3 || xs.isEmpty) = freed) (last : Option QWord) :
    ({ q with words := xs, head := if freed then 0 else q.head + 1, last := last } : Queue).cells + flagOf freed = q.cells := by
  subst whole
  rw [cells_of_cons words]
  cases xs with
  | nil =>
    have one : (q.head + 0 + 4) / 4 = 1 := by omega
    rw [cells_of_nil rfl, List.isEmpty_nil, Bool.or_true, List.length_nil, one]
    rfl
  | cons y ys =>
    rw [cells_of_cons (x := y) (xs := ys) rfl, List.isEmpty_cons, Bool.or_false, List.length_cons]
    cases fourth : q.head == 3 with
    | true =>
      have three : q.head = 3 := beq_iff_eq.mp fourth
      show flagOf q.seated + (0 + ys.length + 4) / 4 + 1 = flagOf q.seated + (q.head + (ys.length + 1) + 4) / 4
      omega
    | false =>
      show flagOf q.seated + (q.head + 1 + ys.length + 4) / 4 + 0 = flagOf q.seated + (q.head + (ys.length + 1) + 4) / 4
      omega

theorem head_pop {head : Nat} {xs : List QWord} {freed : Bool} (h : head < 4) (whole : (head == 3 || xs.isEmpty) = freed) :
    (if freed then 0 else head + 1) < 4 := by
  cases freed
  · have notFourth : head ≠ 3 := by simpa using (Bool.or_eq_false_iff.mp whole).1
    simp only [Bool.false_eq_true, if_false]
    omega
  · exact Nat.zero_lt_succ 3

theorem Dev.PoolBook.popWord (book : d.PoolBook b) (hn : n < 64) : (d.popWord n).dev.PoolBook b := by
  have heads := book.heads n hn
  unfold Dev.popWord
  dsimp only
  split
  · exact book.of_que rfl
  next x xs words =>
    exact book.giveBack hn (when_que _ _ _ fun _ => rfl) (head_pop heads rfl) (cells_pop words heads rfl (some x))

/-- A reset leaves one word, in one cell. -/
theorem cells_reset {q : Queue} (filled : q.words.isEmpty = false) (x : QWord) (mark : Option Word) :
    ({ q with words := [x], head := 0, mark := mark } : Queue).cells + (q.dataCells - 1) = q.cells := by
  have held : 1 ≤ q.dataCells := by
    rw [Queue.dataCells, filled, ceilDiv]
    have : 0 < q.depth := List.length_pos_iff.mpr (by simpa using filled)
    simp only [Bool.false_eq_true, if_false]
    omega
  have one : ({ q with words := [x], head := 0, mark := mark } : Queue).cells = flagOf q.seated + 1 :=
    (cells_of_cons (xs := []) rfl).trans (congrArg _ (by decide : (0 + 0 + 4) / 4 = 1))
  rw [one, Queue.cells]
  omega

theorem Dev.PoolBook.resetQueue (book : d.PoolBook b) (hn : n < 64) : (d.resetQueue n).PoolBook b := by
  have counted : (d.bump Q_DROPS_RESETS n).PoolBook b := book.of_que rfl
  rw [Dev.resetQueue]
  dsimp only
  split
  · exact counted.setMark hn _
  · split
    · exact (counted.setMark hn _).enterMarker hn
    next filled =>
      have cells := cells_reset (Bool.eq_false_iff.mpr filled) (resetWord n) none
      exact (counted.giveBack hn rfl (Nat.zero_lt_succ 3) cells).of_que (threshold_que _ _ _)

end Book

theorem poolBook_iff {d : Dev} {b : Nat} : d.PoolBook b ↔ d.que.free + d.queuedCells = b ∧ ∀ n < 64, (d.queue n).head < 4 :=
  ⟨fun ⟨heads, total⟩ => ⟨total, heads⟩, fun ⟨total, heads⟩ => ⟨heads, total⟩⟩

theorem poolBook_reset : State.reset.dev.PoolBook 65536 := ⟨by decide, by decide⟩

/-- Settles O47: a push and a marker take the one cell that the tail lacks, and a pop and a reset put back the cells that they empty. -/
theorem poolBookBalances : Obligations.PoolBookBalances := by
  refine ⟨poolBook_reset.heads, poolBook_reset.total, fun d q w heads => ?_⟩
  have book : d.PoolBook (d.que.free + d.queuedCells) := ⟨heads, rfl⟩
  exact ⟨poolBook_iff.mp (book.pushWord q.isLt w), poolBook_iff.mp (book.popWord q.isLt), poolBook_iff.mp (book.enterMarker q.isLt),
    poolBook_iff.mp (book.resetQueue q.isLt)⟩

/-! ### What a tenant's request rests on (R271, R288, R297) -/

theorem request_congr {d e : Dev} (t : Nat) (pwr : e.pwr = d.pwr) (reel : e.reel = d.reel) (enable : e.g HOST_IRQ_EN t = d.g HOST_IRQ_EN t)
    (events : ∀ r n, HUB_EVT_PEND.base ≤ r.base → e.g r n = d.g r n) (answers : ∀ i, (e.ctx i).buf = (d.ctx i).buf) :
    e.request t = d.request t := by
  have on (n : Nat) : e.domOn n = d.domOn n := by rw [Dev.domOn, Dev.domState, pwr]; rfl
  have tenant : e.tenantDef t = d.tenantDef t := by rw [Dev.tenantDef, reel]; rfl
  have owner (n : Nat) : e.queueOwner n = d.queueOwner n := events Q_CFG_OWNER n (by decide)
  have used (n : Nat) : e.queueUsed n = d.queueUsed n := by rw [Dev.queueUsed, Dev.reelOn, reel, owner]; rfl
  have requests (n : Nat) : e.queueRequests n = d.queueRequests n := by
    rw [Dev.queueRequests, Dev.flag, Dev.flag, Dev.flag, events Q_EVT_THR n (by decide), events Q_CFG_THR_IRQ n (by decide),
      events Q_EVT_MASK n (by decide)]
    rfl
  have queues : e.queueCause t = d.queueCause t := by simp only [Dev.queueCause, owner, used, requests]
  have buffers (i : Nat) : (vget e.host.ctx i (newCtx 0)).buf = (vget d.host.ctx i (newCtx 0)).buf := answers i
  have causes : e.causes t = d.causes t := by
    simp only [Dev.causes, Dev.flag, events HUB_EVT_PEND t (by decide), events HUB_EVT_MASK t (by decide), queues, buffers, reel]
  rw [Dev.request, on, tenant, causes, enable]
  rfl

/-- No request rests on HOSTn_STATUS.REQ. -/
theorem request_p_status (d : Dev) {t : Nat} (u v : Nat) (ht : t < 4) : (d.p HOST_STATUS_REQ t v).request u = d.request u := by
  refine request_congr u rfl rfl (g_p_ne d _ _ _ _ v ?_) (fun r n high => g_p_ne d _ _ _ _ v ?_) fun _ => rfl
  · simp only [Row.key, HOST_IRQ_EN, HOST_STATUS_REQ]
    omega
  · simp only [Row.key, HUB_EVT_PEND, HOST_STATUS_REQ] at high ⊢
    omega

theorem buf_inHost (d : Dev) (i j : Nat) {f : HostCtx → HostCtx} (h : ∀ c, (f c).buf = c.buf) :
    ((d.inHost fun x => { x with ctx := vupdN x.ctx i f }).ctx j).buf = (d.ctx j).buf := by
  by_cases same : i = j
  · subst same
    by_cases there : i < 5
    · exact (congrArg HostCtx.buf (vget_vupdN_same _ _ f _ there)).trans (h _)
    · simp [Dev.ctx, vget, there]
  · exact congrArg HostCtx.buf (vget_vupdN_ne _ _ _ f _ same)

/-- Answers that wait to be pushed are in no answer buffer yet. -/
theorem request_notice (d : Dev) (t u : Nat) : (d.notice t).request u = d.request u := by
  refine each_eq (Dev.request · u) _ _ (fun d i _ => ?_) d
  dsimp only
  split
  · rfl
  · split
    · exact request_congr (d := d) u rfl rfl rfl (fun _ _ _ => rfl) fun j => buf_inHost d i j fun _ => rfl
    · rfl

theorem notice_regs (d : Dev) (t : Nat) : (d.notice t).regs = d.regs := by
  refine each_eq Dev.regs _ _ (fun d i _ => ?_) d
  dsimp only
  split
  · rfl
  · split <;> rfl

/-! ### One tenant's request settled (R297) -/

/-- HOSTn_STATUS.REQ of tenant `t` follows its request; a rise pushes NOTICE. -/
def Dev.settleRequest (d : Dev) (t : Nat) : Dev :=
  let now := d.request t
  let rise := now && !d.flag HOST_STATUS_REQ t
  (if now = d.flag HOST_STATUS_REQ t then d else d.pf HOST_STATUS_REQ t now).when rise fun d => d.notice t

theorem settleRequests_eq (d : Dev) : d.settleRequests = d.each (List.range 4) Dev.settleRequest := rfl

/-- Where REQ stands as the request does nothing changes; else REQ takes the request's value, and no request moves. -/
theorem settleRequest_cases (d : Dev) (t : Nat) :
    (d.request t = d.flag HOST_STATUS_REQ t ∧ d.settleRequest t = d)
      ∨ (d.settleRequest t).regs = (d.pf HOST_STATUS_REQ t (d.request t)).regs
        ∧ ∀ u, (d.settleRequest t).request u = (d.pf HOST_STATUS_REQ t (d.request t)).request u := by
  by_cases stands : d.request t = d.flag HOST_STATUS_REQ t
  · refine .inl ⟨stands, ?_⟩
    simp [Dev.settleRequest, stands, Dev.when]
  · right
    simp only [Dev.settleRequest, stands, if_false]
    cases d.request t && !d.flag HOST_STATUS_REQ t
    · exact ⟨rfl, fun _ => rfl⟩
    · exact ⟨notice_regs _ t, request_notice _ t⟩

theorem request_settleRequest (d : Dev) {t : Nat} (u : Nat) (ht : t < 4) : (d.settleRequest t).request u = d.request u := by
  rcases settleRequest_cases d t with ⟨_, same⟩ | ⟨_, requests⟩
  · rw [same]
  · exact (requests u).trans (request_p_status d u _ ht)

theorem settleRequest_rising {d : Dev} (t : Nat) (rising : regsRising 0 d.regs = true) : regsRising 0 (d.settleRequest t).regs = true := by
  rcases settleRequest_cases d t with ⟨_, same⟩ | ⟨regs, _⟩
  · rwa [same]
  · rw [regs]
    exact p_rising d _ _ _ rising

theorem g_of_regs {d e : Dev} (same : e.regs = d.regs) (r : Row) (n : Nat) : e.g r n = d.g r n := by rw [Dev.g, same]; rfl

theorem flag_settleRequest_same {d : Dev} (t : Nat) (rising : regsRising 0 d.regs = true) :
    (d.settleRequest t).flag HOST_STATUS_REQ t = d.request t := by
  rcases settleRequest_cases d t with ⟨stands, same⟩ | ⟨regs, _⟩
  · rw [same, stands]
  · rw [Dev.flag, g_of_regs regs, Dev.pf, g_p_same d _ _ _ rising]
    cases d.request t <;> rfl

theorem flag_settleRequest_ne (d : Dev) {t u : Nat} (h : u ≠ t) :
    (d.settleRequest t).flag HOST_STATUS_REQ u = d.flag HOST_STATUS_REQ u := by
  rcases settleRequest_cases d t with ⟨_, same⟩ | ⟨regs, _⟩
  · rw [same]
  · rw [Dev.flag, g_of_regs regs, Dev.pf, g_p_ne d]
    · rfl
    · simp only [Row.key, HOST_STATUS_REQ]
      omega

/-! ### The tenants settled in turn -/

/-- The first `k` tenants settled: every request is as before, and REQ of each of the `k` stands as its request. -/
theorem settle_first {d : Dev} (rising : regsRising 0 d.regs = true) (k : Nat) (hk : k ≤ 4) :
    regsRising 0 (d.each (List.range k) Dev.settleRequest).regs = true
      ∧ (∀ u, (d.each (List.range k) Dev.settleRequest).request u = d.request u)
      ∧ ∀ t < k, (d.each (List.range k) Dev.settleRequest).flag HOST_STATUS_REQ t = d.request t := by
  induction k with
  | zero => exact ⟨rising, fun _ => rfl, fun _ ht => absurd ht (Nat.not_lt_zero _)⟩
  | succ k ih =>
    obtain ⟨rises, requests, flags⟩ := ih (by omega)
    have last : d.each (List.range (k + 1)) Dev.settleRequest = (d.each (List.range k) Dev.settleRequest).settleRequest k := by
      rw [Dev.each, List.range_succ, List.foldl_append]
      rfl
    rw [last]
    refine ⟨settleRequest_rising k rises, fun u => (request_settleRequest _ u (by omega)).trans (requests u), fun t ht => ?_⟩
    by_cases own : t = k
    · rw [own, flag_settleRequest_same k rises, requests]
    · rw [flag_settleRequest_ne _ own, flags t (by omega)]

/-- Settles O5: a quiet block owes nothing, and a tenant's REQ, once settled, is not touched for the tenants after it. -/
theorem settlingAQuietBlockChangesNothing : Obligations.SettlingAQuietBlockChangesNothing := by
  refine ⟨settlePool_quiet, fun d t rising ht => ?_⟩
  obtain ⟨_, _, flags⟩ := settle_first rising 4 (Nat.le_refl 4)
  exact settleRequests_eq d ▸ flags t ht

end Sys2Proof.Machine
end
